-- ==== Sys2Proof/Word.lean ====
section
/-! DEFINITION. The word types of the ZT4 (R8, R9): bytes, and register contents of 32 and 64 bits, with their plainest
conversions to natural numbers. -/

namespace Sys2Proof

/-- One byte of any memory of the device. -/
abbrev Byte := BitVec 8

/-- A 32-bit word: an FP32 bit pattern, a 32-bit register. -/
abbrev W32 := BitVec 32

/-- A 64-bit word: the contents of a register (a 32-bit register uses bits [31:0]). -/
abbrev W64 := BitVec 64

/-- The byte a natural number stands for, modulo 256. -/
def Byte.of (n : Nat) : Byte := BitVec.ofNat 8 n

/-- The 32-bit word a natural number stands for, modulo 2^32. -/
def W32.of (n : Nat) : W32 := BitVec.ofNat 32 n

/-- The 64-bit word a natural number stands for, modulo 2^64. -/
def W64.of (n : Nat) : W64 := BitVec.ofNat 64 n

end Sys2Proof
end

