-- ==== Sys2Proof/Syntax.lean ====
section
/-! DEFINITION. The commands of the ZT4 as a block: one constructor of Instr for each row of the table of operations and
events, with the operands that say which unit the step concerns and what reaches the device from outside in it. -/

namespace Sys2Proof

/-- A logical tile of the device: die × 256 + y × 16 + x (R5, R220). -/
abbrev Tile := Fin 1024

/-- A physical tile: die × 272 + y × 17 + physical column (R5, R192). -/
abbrev PhysTile := Fin 1088

abbrev Die := Fin 4
abbrev Stack := Fin 16
abbrev Port := Fin 8
abbrev Ring := Fin 64
abbrev Bank := Fin 4

/-- A flipped bit, or two, that a read of a tile bank finds in one codeword (R179). -/
structure BankFlip where
  bank : Nat
  line : Nat
  word : Nat
  bit : Nat
  double : Bool
  deriving DecidableEq, Repr

/-- One cycle in which several requesters present to one port of one bank (R171, R172): read port or write port, the requesters by
their place in the order of the rule, and the offset of the cycle, freezes and lost cycles of the operations left out. A cycle in which
operations of several commands meet is listed once, with the one that starts last. -/
structure Clash where
  bank : Nat
  write : Bool
  who : List Nat
  cycle : Nat
  deriving DecidableEq, Repr

/-- A hardware fault of the dense array: the accumulator at output row `m`, column `n` ends with bit pattern `value`. -/
structure ArrayHit where
  m : Nat
  n : Nat
  value : Nat
  deriving DecidableEq, Repr

/-- What physics brings to one tile operation: flipped bits among the codewords it reads, cycles in which its accesses meet
others at a bank port, the array rows a hardware fault changes, and whether a Knight bundle fails its residue check. -/
structure OpEnv where
  flips : List BankFlip
  clashes : List Clash
  hits : List ArrayHit
  residue : Bool
  deriving DecidableEq, Repr

/-- An operation that meets nothing. -/
def OpEnv.quiet : OpEnv := ⟨[], [], [], false⟩

/-- What the check of an HBM atom finds (R257): a symbol the controller corrects, a correction of the on-die ECC, an atom it
cannot correct, an interface transfer that succeeds after `n` retries, or one that still fails after four. -/
inductive AtomFault where
  | corrected (symbol : Nat)
  | onDie
  | uncorrectable
  | retried (n : Nat)
  | transferFailed
  deriving DecidableEq, Repr

/-- An HBM atom that an access finds faulty, by its device address. -/
structure AtomHit where
  addr : Nat
  fault : AtomFault
  deriving DecidableEq, Repr

/-- What physics brings to the HBM accesses of one command. -/
abbrev MemEnv := List AtomHit

/-- Flipped bits that a router stage finds in one codeword of a row (R207): the logical position of the router, the input port,
the codeword, the flipped bit, and whether a second bit of the codeword is flipped. -/
structure NetHit where
  router : Nat
  port : Nat
  word : Nat
  bit : Nat
  double : Bool
  deriving DecidableEq, Repr

/-- What reaches a router from outside in one slot: rows that edge ports present, flipped bits, and what the tile's bank meets. -/
structure NetEnv where
  edges : List (Nat × List Byte)
  hits : List NetHit
  bank : OpEnv
  deriving DecidableEq, Repr

/-- Who publishes a row of items in slot `i` of entry `e` of the router at `t`: the tile there, from its SEGMENT operations, or a publisher
at the router's edge port, whose row this is (log entry 17). -/
inductive Publisher where
  | tile (t : Tile) (e i : Nat)
  | edge (t : Tile) (e i : Nat) (row : List Byte)
  deriving DecidableEq, Repr

/-- What physics brings to the reads of one tile's banks by an engine. -/
structure TileEnv where
  tile : Nat
  env : OpEnv
  deriving DecidableEq, Repr

/-- A tile window of BAR0 (R196, R469): that of a logical tile, or the spare window of row y of a die. -/
inductive TileWin where
  | tile (t : Tile)
  | spare (d : Die) (y : Fin 16)
  deriving DecidableEq, Repr

/-- A request to the management controller (R488): an MCTP message of type 0x7E, from its 8-byte header on, or the request in the
mailbox. -/
inductive MgmtReq where
  | mctp (bytes : List Byte)
  | mailbox
  deriving DecidableEq, Repr

/-- What a power-on finds (R483, R487, R504): the time the clock has been held, in µs, if it has; the outcomes of the first self-tests of a
TRIAL slot of MGT and IOD; whether MCLK and FCLK are in tolerance; the SEQs of settings records that fail their CRC; the copies of the
repair record that do (bit 0 the newer); the input voltage in mV. -/
structure PowerOn where
  clock : Option Nat
  mgtTest : Bool
  iodTest : Bool
  mclk : Bool
  fclk : Bool
  badRecords : List Nat
  badCopies : Nat
  mv : Nat
  deriving DecidableEq, Repr

/-- Sensor readings (R530): MGT_TEMP patterns by sensor 0 to 22, and the flow in mL/min; none where a sensor does not read. -/
structure Sensors where
  temps : List (Option Nat)
  flow : Option Nat
  deriving DecidableEq, Repr

/-- The commands of the block: one constructor for each row of the table of operations and events. -/
inductive Instr where
  /-- TICK (R29): At the end of the last cycle of a move, or of a later held cycle, the tick occurs once every condition of R28 holds: the move number advances and the stops, resolutions and per-tick records due at that tick are carried out. -/
  | tick
  /-- SCALE_TICK (R124): At the step's scale tick, each die controller combines the slot counts of every valid training-class slot index, sets PREV_EXP and the new EXP, and clears the counts. -/
  | scaleTick
  /-- LOSS_SCALE_UPDATE (R326): At the tick that ends the last move of a step, the loss-scale exponent halves on a false final vote or doubles after CLEAN_STEPS clean steps, and the skip records are written. -/
  | lossScaleUpdate
  /-- STEP_LIMIT_STOP (R246): At the tick that ends move NET_STEP_LIMIT × STEP_MOVES − 1, the job stops with STOP_CAUSE 3. -/
  | stepLimitStop
  /-- MMA (R83): Starts a dense matrix multiply-accumulate at its offset: the feeder streams the operands and the array runs its passes into an accumulator set. -/
  | mma (t : Tile) (env : OpEnv)
  /-- DIST_ABS (R86): Starts a pass sequence that accumulates sums of absolute differences. -/
  | distAbs (t : Tile) (env : OpEnv)
  /-- DIST_SQ (R86): Starts a pass sequence that accumulates sums of squared differences. -/
  | distSq (t : Tile) (env : OpEnv)
  /-- MINPLUS (R87): Starts a pass sequence that keeps the minimum of the accumulator and the pairwise sums. -/
  | minplus (t : Tile) (env : OpEnv)
  /-- ARRAY_LATE (R96): When the freezes of an array operation exceed its guard, ARRAY_LATE is reported as an uncorrectable error. -/
  | arrayLate (t : Tile)
  /-- DRAIN (R90): Reads accumulator rows and writes each element through scale, bias, activation or derivative, clip and conversion into a bank. -/
  | drain (t : Tile) (env : OpEnv)
  /-- KN_COPY (R142): Gathers source rows named by an index list or row bitmap into consecutive destination rows. -/
  | knCopy (t : Tile) (env : OpEnv)
  /-- KN_ACCUMULATE (R141): Multiplies each non-zero by its indexed dense row and adds bundles of products into a merge buffer row or item row. -/
  | knAccumulate (t : Tile) (env : OpEnv)
  /-- KN_EXPAND (R155): Writes TWO_OF_FOUR rows, or the dense-path blocks of a BLOCKED operand, as dense rows. -/
  | knExpand (t : Tile) (env : OpEnv)
  /-- KN_PLAN (R144): Reads the block headers and writes a path map that chooses the dense or the sparse path for each block. -/
  | knPlan (t : Tile) (env : OpEnv)
  /-- KN_SEGMENT (R148): Turns the rows of a SEGMENTED operand into ROW and SEGMENT work items and publishes them. -/
  | knSegment (t : Tile) (env : OpEnv)
  /-- KN_PRUNE (R153): Keeps the two largest elements of each group of four, writes TWO_OF_FOUR form and counts the pruned elements. -/
  | knPrune (t : Tile) (env : OpEnv)
  /-- KN_COMPRESS (R154): Stores data declared two-of-four in TWO_OF_FOUR form and counts excess non-zeros. -/
  | knCompress (t : Tile) (env : OpEnv)
  /-- KN_MERGE_ACC (R143): Adds a merge buffer into its accumulator set and updates the checksum pairs. -/
  | knMergeAcc (t : Tile) (env : OpEnv)
  /-- KN_MERGE_SEG (R152): Sums the segment partial rows of each split row and writes the final row. -/
  | knMergeSeg (t : Tile) (env : OpEnv)
  /-- KNIGHT_LATE (R139): When the stalls of a Knight operation exceed its guard, KNIGHT_LATE is reported as an uncorrectable error. -/
  | knightLate (t : Tile)
  /-- VEC_ADD (R237): Adds two rows element by element. -/
  | vecAdd (t : Tile) (env : OpEnv)
  /-- VEC_SUB (R237): Subtracts two rows element by element. -/
  | vecSub (t : Tile) (env : OpEnv)
  /-- VEC_MUL (R237): Multiplies two rows element by element. -/
  | vecMul (t : Tile) (env : OpEnv)
  /-- VEC_FMA (R237): Forms s1 × s2 + d with one rounding. -/
  | vecFma (t : Tile) (env : OpEnv)
  /-- VEC_AXPY (R237): Forms c × s1 + s2 with one rounding. -/
  | vecAxpy (t : Tile) (env : OpEnv)
  /-- VEC_MAX (R237): Takes the greater of each element pair. -/
  | vecMax (t : Tile) (env : OpEnv)
  /-- VEC_MIN (R237): Takes the lesser of each element pair. -/
  | vecMin (t : Tile) (env : OpEnv)
  /-- VEC_CVT (R237): Converts each element to the target format that CONST names. -/
  | vecCvt (t : Tile) (env : OpEnv)
  /-- VEC_EXP (R237): Computes e to the power of each element. -/
  | vecExp (t : Tile) (env : OpEnv)
  /-- VEC_RECIP (R237): Computes the reciprocal of each element. -/
  | vecRecip (t : Tile) (env : OpEnv)
  /-- VEC_RSQRT (R237): Computes the reciprocal square root of each element. -/
  | vecRsqrt (t : Tile) (env : OpEnv)
  /-- VEC_QUANT (R116): Quantises each element to an integer code through its channel's RSCALE and RBIAS. -/
  | vecQuant (t : Tile) (env : OpEnv)
  /-- VEC_DEQUANT (R116): De-quantises each integer code through its channel's step, zero point and offset. -/
  | vecDequant (t : Tile) (env : OpEnv)
  /-- VEC_QCAL (R119): Sets every channel's step, zero point and offset from its recorded range and resets the ranges. -/
  | vecQcal (t : Tile) (env : OpEnv)
  /-- VEC_TOPK (R340): Ranks router scores per token and writes TOP1 or TOP2 choice records with gates. -/
  | vecTopk (t : Tile) (env : OpEnv)
  /-- VEC_TOPK_EXIT (R341): Computes exit confidence per token, writes exit records and a survivor bitmap, and adds survivors to its decision domain. -/
  | vecTopkExit (t : Tile) (env : OpEnv)
  /-- VEC_NORM (R328): Adds the squared norm of unscaled gradient rows into the die's accumulator for a clip group. -/
  | vecNorm (t : Tile) (env : OpEnv)
  /-- VEC_OPTIM (R330): Applies the optimiser to owned master rows under the final vote and writes the published rows. -/
  | vecOptim (t : Tile) (env : OpEnv)
  /-- VEC_REDUCE_FORWARD (R425): Adds a staged local contribution to an incoming reduce block and writes an encoded reduce block. -/
  | vecReduceForward (t : Tile) (env : OpEnv)
  /-- VEC_REDUCE_FINAL (R425): Forms the final sum of an owned block and the next step's agreed exponents. -/
  | vecReduceFinal (t : Tile) (env : OpEnv)
  /-- VEC_REDUCE_PUBLISH (R426): Encodes published parameters into a gather block with their exponents and the next-exponent line. -/
  | vecReducePublish (t : Tile) (env : OpEnv)
  /-- VEC_REDUCE_WIDEN (R426): Decodes a gather block into rows of the output format. -/
  | vecReduceWiden (t : Tile) (env : OpEnv)
  /-- DMA_IN (R301): Checks a descriptor chain in its issue phase and starts a variable-latency transfer into its landing slot. -/
  | dmaIn (t : Tile) (env : OpEnv)
  /-- DMA_OUT (R301): Checks a descriptor chain in its issue phase and starts a transfer from tile banks to device memory, or carries a Petal command. -/
  | dmaOut (t : Tile) (env : OpEnv)
  /-- DMA_LATE (R301): When the issue-phase losses of a DMA exceed its guard, DMA_LATE is reported as an uncorrectable error. -/
  | dmaLate (t : Tile)
  /-- DMA_OUT_COMPLETE (R301): A DMA_OUT completes when memory acknowledges its last write, which releases the SOURCE condition. -/
  | dmaOutComplete (t : Tile) (k : Nat) (env : OpEnv) (mem : MemEnv)
  /-- TRANSFER_LANDED (R25): The data of a variable-latency transfer lands in its landing slot, which releases the LANDING condition for its due tick. -/
  | transferLanded (t : Tile) (k : Nat) (env : OpEnv) (mem : MemEnv)
  /-- SEND (R238): Reads rows from the tile into the slots of a route and sets each row's FIN bit from its format. -/
  | send (t : Tile)
  /-- RECV (R238): Writes the rows that arrive in a route's LOCAL slots into the tile. -/
  | recv (t : Tile)
  /-- CLAIM (R238): Opens the tile's dynamic window for a work list and presents claims in its claim slots. -/
  | claim (t : Tile)
  /-- BANK_GIVE (R168): Changes a bank's owner state at the end of its cycle, starting a wake when the bank leaves RETAINED. -/
  | bankGive (t : Tile)
  /-- BANK_WAKE_DONE (R173): After 520 cycles of wake, the bank admits its new owner. -/
  | bankWakeDone (p : PhysTile) (b : Bank)
  /-- COMMIT (R176): In the tick cycle, sets every SPECULATIVE bank of the tile to its target state, keeps contents and releases the shadow counts and marks. -/
  | commit (t : Tile)
  /-- DISCARD (R176): In the tick cycle, sets every SPECULATIVE bank of the tile to its target state, invalidates its lines and clears the shadow copies and marked sets. -/
  | discard (t : Tile)
  /-- SLOT_STATIC (R191): A router forwards a scheduled row from its input to its output in the entry's slot. -/
  | slotStatic (t : Tile) (e : Nat) (i : Nat) (env : NetEnv)
  /-- SLOT_ADD (R197): A router adds the rows arriving at IN and IN2 element by element in flight and sets the output FIN. -/
  | slotAdd (t : Tile) (e : Nat) (i : Nat) (env : NetEnv)
  /-- SLOT_RETURN (R204): A RETURN slot sends the head row of the tile's return buffer, if any, to its destination. -/
  | slotReturn (t : Tile) (e : Nat) (i : Nat) (hits : (List NetHit))
  /-- LIST_OPEN (R199): At its open offset a work list opens in its list keeper. -/
  | listOpen (d : Die) (l : Nat)
  /-- LIST_CLOSE (R203): At its close offset the list keeper deals every remaining item round-robin to the group's tiles in DEAL slots. -/
  | listClose (d : Die) (l : Nat)
  /-- KEEPER_CLAIM (R201): A CLAIM row reaches the keeper, takes the oldest item or is answered EMPTY or CLOSED, and a GRANT leaves 4 cycles later. -/
  | keeperClaim (t : Tile) (e : Nat) (i : Nat) (hits : (List NetHit))
  /-- KEEPER_PUBLISH (R201): A PUBLISH row reaches the keeper and appends its items, discarding those that do not fit. -/
  | keeperPublish (src : Publisher) (hits : (List NetHit))
  /-- WORK_ITEM_RECEIVE (R202): A GRANT or DEAL row reaches a tile and its items enter the tile's item queue. -/
  | workItemReceive (k : Nat) (hits : (List NetHit))
  /-- KNIGHT_ITEM (R151): A claimed Knight item starts in the dynamic window and accumulates its non-zeros into an item row for return. -/
  | knightItem (t : Tile) (env : OpEnv)
  /-- DENSE_ITEM (R361): A claimed DENSE item starts in the dynamic window as a plain MMA and DRAIN into the return buffer. -/
  | denseItem (t : Tile) (env : OpEnv)
  /-- VECTOR_ITEM (R362): A claimed VECTOR item starts in the dynamic window as a vector operation into the return buffer. -/
  | vectorItem (t : Tile) (env : OpEnv)
  /-- FRAME_PUSH (R315): At the tick that starts its PUSH_MOVE a frame enters PUSHING, its pushes wait for a free range, and it becomes RESIDENT when they complete. -/
  | framePush (d : Die) (f : Nat)
  /-- FRAME_OFFLOAD (R316): While occupancy exceeds HIGH, or when a push needs the range, the stack engine starts the off-load of a RESIDENT OFFLOAD frame to the host. -/
  | frameOffload (d : Die) (f : Nat)
  /-- OFFLOAD_COMPLETE (R316): The host acknowledges the last write of an off-load and the frame becomes HOSTED, freeing its range. -/
  | offloadComplete (d : Die) (f : Nat) (mem : MemEnv)
  /-- FRAME_PREFETCH (R317): A HOSTED frame in the prefetch window, or at its pop move, starts its copy back from the host. -/
  | framePrefetch (d : Die) (f : Nat)
  /-- PREFETCH_COMPLETE (R317): A prefetch copy lands and the frame becomes RESIDENT. -/
  | prefetchComplete (d : Die) (f : Nat) (mem : MemEnv := [])
  /-- FRAME_POP (R318): At the tick that starts its POP_MOVE a frame enters POPPING, and it becomes EMPTY when every pop has landed. -/
  | framePop (d : Die) (f : Nat)
  /-- VOTE_FORMATION (R323): At VOTE_OFFSET, or after the last late WEIGHT_GRAD drain or VEC_NORM, the device forms its vote contribution and group norms and starts the vote exchange. -/
  | voteFormation
  /-- VOTE_FINAL (R323): The vote exchange result lands and the final vote and clip factors become known. -/
  | voteFinal
  /-- DECISION_FORMATION (R358): At FORM_OFFSET a decision domain sums its survivor counts, finally for DEVICE scope or through the exchange for JOB scope. -/
  | decisionFormation (d : Fin 64)
  /-- DECISION_FINAL (R358): A JOB-scope survivor sum lands and the domain's decision becomes CONFIRM or REJECT. -/
  | decisionFinal
  /-- EXPERT_DISPATCH (R347): At DISPATCH_MOVE, once prior writes are acknowledged, the scatter engine places choices under quota and sends queue headers and rows. -/
  | expertDispatch (l : Nat) (mem : MemEnv)
  /-- EXPERT_RETURN (R351): At RETURN_MOVE, once prior writes are acknowledged, the owner returns each remote source's answer region. -/
  | expertReturn (l : Nat) (mem : MemEnv)
  /-- EXPERT_COMBINE (R354): Once the answers have landed, the combine engine forms each token's output from its residual and gated answers. -/
  | expertCombine (l : Nat) (mem : MemEnv)
  /-- REDUCE_STAGING_COPY (R420): At COPY_MOVE the reduction engine stages local contribution blocks with their agreed exponents into LOCAL slots. -/
  | reduceStagingCopy (c : Nat) (mem : MemEnv)
  /-- COLLECTIVE_STAGE (R421): At each stage move the reduction or gather engine sends the stage's blocks to the next device of the ring. -/
  | collectiveStage (c : Nat) (mem : MemEnv)
  /-- RESHARD_FENCE (R431): At the target step's last tick, once every other tick condition holds, the device runs barrier round 0 of an accepted re-shard. -/
  | reshardFence
  /-- SNAPSHOT_CAPTURE (R453): At a due snapshot tick the snapshot engine copies the state record and declared ranges into the OUT slot, or postpones the snapshot when the slot is busy. -/
  | snapshotCapture (mem : MemEnv) (banks : (List TileEnv))
  /-- SNAPSHOT_CAPTURE_DONE (R456): The capture completes and the engine starts sending the OUT slot to the partner and writing it to flash. -/
  | snapshotCaptureDone
  /-- SNAPSHOT_PARTNER_SECURED (R456): Every SNAPSHOT message is acknowledged and layer 1 is counted secured. -/
  | snapshotPartnerSecured
  /-- SNAPSHOT_FLASH_SECURED (R457): The flash write and read-back of the OUT slot end and layer 2 is counted secured or the flash slot invalid. -/
  | snapshotFlashSecured (ok : Bool)
  /-- SELF_TEST (R440): After an uncorrectable error, the device tests the reporting unit with the job stopped. -/
  | selfTest (i : Nat)
  /-- SELF_TEST_VERDICT (R441): A self-test ends with a TRANSIENT or LASTING verdict and its record. -/
  | selfTestVerdict (i : Nat) (lasting : Bool) (slot : Nat)
  /-- ECC_RETEST (R443): After a corrected error, the unit re-reads or re-sends at the place of the error in an idle cycle and records a lasting retest if it fails again. -/
  | eccRetest (i : Nat) (again : Bool)
  /-- REPAIR_RECORD_WRITE (R445): An accepted repair, completed HBM row repair or failed port is appended durably to the repair record. -/
  | repairRecordWrite
  /-- HBM_REFRESH (R256): Each HBM bank receives a per-bank refresh at its interval, which delays requests to that bank. -/
  | hbmRefresh (k : Stack) (waited : Nat)
  /-- HBM_PATROL_SCRUB (R259): The controller reads the next atom of its stack in an idle cycle and corrects or reports what it finds. -/
  | hbmPatrolScrub (hit : AtomHit)
  /-- HBM_SELF_REFRESH (R249): In EMPTY, after 1 ms without access, a stack enters self-refresh. -/
  | hbmSelfRefresh (k : Stack)
  /-- HBM_REPAIR_GO (R260): A write of HBM_REPAIR.GO orders a row repair by post-package repair or remap, or refuses it. -/
  | hbmRepairGo (k : Stack) (value : Nat) (resource : Bool)
  /-- HBM_REPAIR_DONE (R260): A hard repair or remap completes and BUSY returns to 0. -/
  | hbmRepairDone (k : Stack)
  /-- PETAL_DISPATCH (R264): A Petal command reaches the dispatcher, is checked and is split among the Petal units of the stacks it reaches. -/
  | petalDispatch (env : OpEnv := .quiet)
  /-- GATHER_POOL (R265): Gathers table rows per bag in each Petal unit, combines the partials and lands the pooled rows. -/
  | gatherPool (k : Nat) (order : (List Nat)) (mem : MemEnv)
  /-- SCATTER_ADD (R267): Adds gradient rows atomically into indexed table rows. -/
  | scatterAdd (k : Nat) (order : (List Nat)) (mem : MemEnv)
  /-- SPARSE_OPTIM (R268): Updates indexed table rows with SGD, momentum or row-wise Adagrad, waiting for the final vote when VOTE_GATE is set. -/
  | sparseOptim (k : Nat) (order : (List Nat)) (mem : MemEnv)
  /-- PETAL_COMPRESS (R269): Compresses blocks into the block-scaled 8-bit format with the agreed scales. -/
  | petalCompress (k : Nat) (mem : MemEnv)
  /-- DECOMPRESS (R269): Widens block-scaled blocks and writes or accumulates them. -/
  | decompress (k : Nat) (mem : MemEnv)
  /-- FILL (R270): Writes an 8-byte pattern repeatedly over a run of atoms. -/
  | petalFill (k : Nat) (mem : MemEnv := [])
  /-- PETAL_COPY (R270): Copies atoms from a source to a destination. -/
  | petalCopy (k : Nat) (mem : MemEnv)
  /-- PETAL_COMPLETE (R261): Every unit has written the last atom of a Petal command, which releases its LANDING condition. -/
  | petalComplete (k : Nat)
  /-- OWNER_STAGING_DRAIN (R276): Staged owner-table writes are drained into all four copies in the background. -/
  | ownerStagingDrain
  /-- HBM_OWN_READ (R277): A write of HBM_OWN_CMD.READ loads an owner-table entry into HBM_OWN_DATA. -/
  | hbmOwnRead (mem : MemEnv := [])
  /-- HBM_OWN_WRITE (R277): A write of HBM_OWN_CMD.WRITE writes an entry to all copies and invalidates the caches, or is refused outside LOADED and STOPPED. -/
  | hbmOwnWrite
  /-- EMPTY_FILL_DONE (R279): The zero-fill of job region, image region and owner tables on entry to EMPTY ends, and the device reads EMPTY. -/
  | emptyFillDone
  /-- PORT_SIGNAL_DETECT (R386): A port in DOWN sees signal on at least four lanes and enters TRAINING. -/
  | portSignalDetect (p : Port)
  /-- PORT_TRAINED (R386): Lane equalisation, alignment and FEC lock complete at x8 or x4, and the port enters IDENT and sends probes. -/
  | portTrained (p : Port) (lanes : Nat)
  /-- PORT_TRAINING_TIMEOUT (R387): A training limit passes, the port returns to DOWN and LINK_TRAIN_FAIL is recorded. -/
  | portTrainingTimeout (p : Port)
  /-- PORT_TRAINING_RETRY (R387): One second after a failed training, the port restarts training. -/
  | portTrainingRetry (p : Port)
  /-- LINK_PROBE (R386): A PROBE flit arrives and is answered with ECHO. -/
  | linkProbe (p : Port) (n : Nat)
  /-- LINK_ECHO (R386): An ECHO flit arrives and the round-trip time is measured. -/
  | linkEcho (p : Port) (rtt : Nat)
  /-- LINK_IDENT (R387): An IDENT flit arrives and the peer check sets the port ACTIVE, MISWIRED, FAILED or leaves it in IDENT. -/
  | linkIdent (p : Port) (fields : (List Byte))
  /-- LINK_RETRAIN (R380): A RETRAIN flit from the peer makes the port retrain, keeping replay state and queues. -/
  | linkRetrain (p : Port)
  /-- LINK_CREDIT (R382): A CREDIT flit arrives with cumulative credit counts for the receiver's buffers. -/
  | linkCredit (p : Port) (counts : (List Byte))
  /-- LINK_NACK (R378): A NACK arrives and the sender resends its replay buffer from the named SEQ. -/
  | linkNack (p : Port) (seq : Nat)
  /-- NACK_REPEAT (R378): When the next expected SEQ has not advanced within RTT_NS + 30.72 ns of a NACK, the NACK is repeated. -/
  | nackRepeat (p : Port)
  /-- MARKER_RECEIVE (R375): A MARKER flit arrives, keeps lane alignment and carries cumulative credits. -/
  | markerReceive (p : Port) (counts : (List Byte))
  /-- LINK_MARKER_LOST (R380): No marker is found in three successive frames and the port retrains. -/
  | linkMarkerLost (p : Port)
  /-- FLIT_RECEIVE (R377): A flit arrives, is FEC-decoded and CRC-checked, and is accepted in sequence or discarded with a NACK. -/
  | flitReceive (p : Port) (damage : List (Nat × Byte)) (bytes : (List Byte))
  /-- MSG_FORWARD (R388): A message for another device is forwarded on the next dimension-ordered port, or dropped when that port is not ACTIVE. -/
  | msgForward (k : Nat)
  /-- MSG_WRITE (R394): A WRITE message is delivered into the destination's job region and acknowledged. -/
  | msgWrite (k : Nat)
  /-- MSG_READ_REQ (R401): A READ_REQ is accepted and answered with a READ_RESP on the RESPONSE connection. -/
  | msgReadReq (k : Nat) (mem : MemEnv)
  /-- MSG_READ_RESP (R394): A READ_RESP is delivered to the requester's return address. -/
  | msgReadResp (k : Nat)
  /-- MSG_REDUCE (R422): A REDUCE message is checked for epoch and slot and written into its RECV slot. -/
  | msgReduce (k : Nat)
  /-- MSG_DISPATCH (R350): A queue header and rows arrive at an expert owner, are checked for GEN and source, and the unused slots are zero-filled. -/
  | msgDispatch (k : Nat)
  /-- MSG_ANSWER (R352): An answer region arrives at a source and is checked for GEN and count. -/
  | msgAnswer (k : Nat)
  /-- MSG_VOTE (R428): A VOTE message is processed for the present exchange, kept for the next step, or dropped. -/
  | msgVote (k : Nat)
  /-- MSG_BARRIER (R428): A BARRIER message advances a barrier round and completes it when every stage has received all its messages. -/
  | msgBarrier (k : Nat)
  /-- MSG_SNAPSHOT (R456): A SNAPSHOT message lands in the keeper's IN slot, and the slot is validated when all four trailers match. -/
  | msgSnapshot (k : Nat)
  /-- MSG_ACK (R397): An ACK frees acknowledged messages, adds returned credits and resets the resend timeout. -/
  | msgAck (k : Nat)
  /-- ACK_SEND (R398): An ACK is sent once ACK_COALESCE messages are unacknowledged or 2 µs after the first of them. -/
  | ackSend (c : Nat)
  /-- XPORT_RESEND (R397): When the resend timeout of a connection expires, its unacknowledged messages are resent and the timeout doubles. -/
  | xportResend (c : Nat) (due : List Nat := [])
  /-- FRAKEL_COUNT_REPORT (R404): At most once per second per port or device, a record is written for each counted Frakel code whose count rose. -/
  | frakelCountReport (port : (Option Port))
  /-- NOP (R479): Host command that completes at once. -/
  | nop (r : Ring)
  /-- LOAD (R242): Host command that receives, validates and writes a Thois image and enters LOADED or returns to EMPTY with a rejection code. -/
  | load (r : Ring)
  /-- LOAD_CHECK_ONLY (R243): Host LOAD with CHECK_ONLY that runs validation phases 1 to 4 without changing anything. -/
  | loadCheckOnly (r : Ring)
  /-- UNLOAD (R244): Host command that returns the device to EMPTY. -/
  | unload (r : Ring)
  /-- START (R36): Host command that starts or resumes the job from LOADED or STOPPED. -/
  | start (r : Ring)
  /-- STOP (R36): Host command that stops the job at the next eligible tick. -/
  | stop (r : Ring)
  /-- REGISTER (R472): Host command that registers a host-memory region. -/
  | register (r : Ring)
  /-- UNREGISTER (R472): Host command that removes a host-memory region. -/
  | unregister (r : Ring)
  /-- PETAL (R480): Host command that submits a Petal command from host memory. -/
  | petal (r : Ring)
  /-- MEMCOPY (R480): Host command that copies bytes between host memory and HBM. -/
  | memcopy (r : Ring)
  /-- RESHARD (R430): Host command that accepts or refuses a re-shard plan for a target step. -/
  | reshard (r : Ring)
  /-- FLASH_READ (R480): Host command that copies bytes of a flash snapshot slot to host memory. -/
  | flashRead (r : Ring)
  /-- RETURN (R460): Host command that sends a kept IN slot back to the KEPT device's OUT slot. -/
  | returnSlot (r : Ring)
  /-- RESTORE (R460): Host command that checks and restores a snapshot and leaves the device STOPPED. -/
  | restore (r : Ring)
  /-- COMPLETION_POST (R477): A due completion is written at the CQ tail once space exists, followed by the MSI-X vector when enabled. -/
  | completionPost (c : Ring)
  /-- SQ_DOORBELL (R475): A write of HQ_SQ_TAIL submits commands up to the new tail, or is discarded when out of range. -/
  | sqDoorbell (r : Ring) (value : Nat) (stores : (List (Nat × List Byte)))
  /-- CQ_DOORBELL (R475): A write of HQ_CQ_HEAD acknowledges consumed completions, or is discarded when out of range. -/
  | cqDoorbell (c : Ring) (value : Nat)
  /-- RING_CTL_WRITE (R474): A write of HQ_SQ_CTL or HQ_CQ_CTL enables or disables a ring and resets its head, tail and phase. -/
  | ringCtlWrite (cq : Bool) (r : Ring) (value : Nat)
  /-- INT_CAUSE_CLEAR (R481): A write-1-to-clear of HQ_INT_CAUSE bits, in which a simultaneous hardware set wins. -/
  | intCauseClear (value : Nat) (set : (List (Fin 7)))
  /-- IO_DIE_RESET (R482): A write of HQ_RESET.IO resets the I/O die and compute dies, and the job enters EMPTY. -/
  | ioDieReset
  /-- DIE_RESET (R482): A write of HQ_RESET.DIES resets the compute dies, and the job enters EMPTY. -/
  | dieReset
  /-- FUNDAMENTAL_RESET (R482): PERST#, hot reset, link disable or link down resets queues, link, I/O die and dies. -/
  | fundamentalReset (perst : Bool) (gen : Nat) (width : Nat)
  /-- FLR (R482): A function-level reset resets queues and compute dies and completes within 100 ms. -/
  | flr
  /-- D3HOT_ENTRY (R467): A transition to D3hot stops a running job and the device enters D3hot once STOPPED. -/
  | d3hotEntry
  /-- D0_RETURN (R467): A return to D0 keeps every job state, ring, region and register. -/
  | d0Return
  /-- HOST_POISONED_WRITE (R466): A poisoned host write is discarded, reported in AER and counted. -/
  | hostPoisonedWrite
  /-- HOST_READ_FAULT (R466): A device read of host memory times out or returns a fault, is reported and counted, and is re-issued. -/
  | hostReadFault (timeout : Bool)
  /-- BAR0_FAULT_ACCESS (R470): A misaligned or mis-sized BAR0 access, or one to a die in reset, reads 0 or is discarded and is counted. -/
  | bar0FaultAccess (addr : Nat) (bytes : Nat)
  /-- BAR2_READ (R471): A host read through BAR2 returns stored data or zeros by region and state. -/
  | bar2Read (addr : Nat) (bytes : Nat) (mem : MemEnv)
  /-- BAR2_WRITE (R471): A host write through BAR2 is written or discarded by region and state. -/
  | bar2Write (addr : Nat) (data : (List Byte)) (mem : MemEnv := [])
  /-- HOST_COUNT_REPORT (R484): At most once per second, a record is written for each host-fault code whose count rose. -/
  | hostCountReport
  /-- POWER_ON (R483): 48 V is applied; the management controller boots its firmware, checks the clock, applies settings and asserts MOD_READY. -/
  | powerOn (x : PowerOn)
  /-- PERST_DEASSERT (R483): PERST# is deasserted and the PCIe link trains, then HBM training and fill start. -/
  | perstDeassert (gen : Nat) (width : Nat)
  /-- HBM_INIT_DONE (R278): HBM training, remap reload and zero-fill end, the dies leave reset and the repair record is applied. -/
  | hbmInitDone (failed : (List Stack))
  /-- GET_IDENTITY (R490): Management command that returns the device identity. -/
  | getIdentity (q : MgmtReq)
  /-- GET_CERT (R490): Management command that returns part of the device or meter certificate chain. -/
  | getCert (q : MgmtReq)
  /-- ATTEST (R492): Management command that returns a signed attestation report. -/
  | attest (q : MgmtReq)
  /-- FW_BEGIN (R494): Management command that opens a firmware session on the inactive slot. -/
  | fwBegin (q : MgmtReq)
  /-- FW_DATA (R490): Management command that writes image bytes into the staging slot. -/
  | fwData (q : MgmtReq)
  /-- FW_END (R494): Management command that checks the staged image and leaves the slot STAGED or EMPTY. -/
  | fwEnd (q : MgmtReq)
  /-- FW_ACTIVATE (R495): Management command that activates a STAGED slot into TRIAL with a service pause or I/O die reset. -/
  | fwActivate (q : MgmtReq)
  /-- FW_CONFIRM (R496): Management command that confirms a TRIAL slot and raises the security floor. -/
  | fwConfirm (q : MgmtReq)
  /-- FW_REJECT (R497): Management command that rejects a TRIAL slot and falls back to the old slot. -/
  | fwReject (q : MgmtReq)
  /-- FW_SESSION_TIMEOUT (R489): A firmware session closes after 60 s without FW_DATA and its slot becomes EMPTY. -/
  | fwSessionTimeout
  /-- FW_TRIAL_TIMER (R496): A TRIAL slot confirms itself after its self-test passes and 600 s run without restart. -/
  | fwTrialTimer (k : (Fin 2))
  /-- FW_WATCHDOG (R497): A watchdog restart of TRIAL firmware makes it fall back to the old slot. -/
  | fwWatchdog (k : (Fin 2))
  /-- SERVICE_PAUSE_END (R495): The management service pause ends and queued records and requests proceed. -/
  | servicePauseEnd (selfTest : Bool)
  /-- EVT_POST (R509): Management command that writes a driver-posted event record. -/
  | evtPost (q : MgmtReq)
  /-- CFG_GET (R490): Management command that returns a settings value. -/
  | cfgGet (q : MgmtReq)
  /-- CFG_SET (R501): Management command that writes a settings record. -/
  | cfgSet (q : MgmtReq)
  /-- CFG_DELETE (R501): Management command that writes a DELETE record for a settings key. -/
  | cfgDelete (q : MgmtReq)
  /-- SETTINGS_COMPACT (R503): When the governing half holds 6 MiB or more, the store is compacted into the other half. -/
  | settingsCompact
  /-- MTR_READ (R513): Management command that returns a signed meter reading. -/
  | mtrRead (q : MgmtReq)
  /-- TIME_GET (R490): Management command that returns the module clock and its validity. -/
  | timeGet (q : MgmtReq)
  /-- TIME_SET (R504): Management command that sets the module clock and records the change. -/
  | timeSet (q : MgmtReq)
  /-- SET_ENDPOINT_ID (R488): MCTP control command that sets the endpoint ID. -/
  | setEndpointId (inst : Nat) (op : Nat) (eid : Nat)
  /-- GET_ENDPOINT_ID (R488): MCTP control command that returns the endpoint ID. -/
  | getEndpointId (inst : Nat)
  /-- GET_MCTP_VERSION_SUPPORT (R488): MCTP control command that returns the supported MCTP versions. -/
  | getMctpVersionSupport (inst : Nat)
  /-- GET_MESSAGE_TYPE_SUPPORT (R488): MCTP control command that returns the supported message types. -/
  | getMessageTypeSupport (inst : Nat)
  /-- MBOX_GO (R489): A write of MGT_MBOX_CTL.GO submits the mailbox request to the management controller. -/
  | mboxGo
  /-- MGT_TIME_WRITE (R504): A write of MGT_TIME sets the module clock and records the change. -/
  | mgtTimeWrite (value : Nat)
  /-- EVT_SEL_WRITE (R509): A write of EVT_SEL shows the retained record with the lowest SEQ at or above the value. -/
  | evtSelWrite (value : Nat) (flips : (List Nat))
  /-- EVENT_FLASH_DRAIN (R508): The recorder writes queued records to flash, freeing and copying forward blocks as needed. -/
  | eventFlashDrain
  /-- EVT_DROP_REPORT (R507): At most once per second the recorder writes an EVT_DROPPED record with the count of dropped records. -/
  | evtDropReport
  /-- METER_SAMPLE (R511): The meter samples input voltage and current and adds energy. -/
  | meterSample (mv : Nat) (ma : Nat)
  /-- METER_SECOND (R511): Each second the meter persists its counts and sets RANGE for out-of-range input. -/
  | meterSecond
  /-- METER_WORK_MESSAGE (R512): The meter accepts a work message and adds the rise of its cumulative counts. -/
  | meterWorkMessage (ok : Bool)
  /-- METER_LINK_TIMEOUT (R512): No valid work message for 1 s while a job runs sets LINK_FAULT. -/
  | meterLinkTimeout
  /-- METER_TAMPER (R510): Opening the sealed cover sets TAMPER for the chip's life. -/
  | meterTamper
  /-- METER_SELFCHECK_FAIL (R514): The meter's self-check fails and an ERROR record is written. -/
  | meterSelfcheckFail
  /-- INPUT_VOLTAGE_CHANGE (R525): The input voltage enters a margin or fault band, forcing 0.8 GHz or removing power. -/
  | inputVoltageChange (mv : Nat)
  /-- INPUT_MARGIN_TIMEOUT (R525): After 100 ms in the margin band the power manager stops the job. -/
  | inputMarginTimeout
  /-- INPUT_RESTORED (R525): After an input fault, once the input has stood within 40–60 V for 1 s, the module comes up again. -/
  | inputRestored (iodTest : Bool)
  /-- POWER_PEAK (R526): The 100 µs mean exceeds 3,600 W and the PEAK target drops to 0.8 GHz. -/
  | powerPeak
  /-- POWER_FAST (R526): The 1 ms mean exceeds 3,200 W for 8 ms and FAST lowers its target, ending in a stop if the excess persists. -/
  | powerFast (w : Nat)
  /-- POWER_SLOW (R526): The 1 s mean exceeds LIMIT_W and SLOW lowers its target by 50 MHz. -/
  | powerSlow (w : Nat)
  /-- POWER_RAISE (R526): After 5 s below 0.95 × LIMIT_W, RAISE lifts the power targets by 50 MHz. -/
  | powerRaise
  /-- CLOCK_REDUCED_NOTICE (R526): At most once a second while ACLK lies below CAP_STEP, a CLOCK_REDUCED record is written. -/
  | clockReducedNotice
  /-- SENSOR_POLL (R530): Every 10 ms the thermal and coolant sensors are read, driving warnings, throttles and stops. -/
  | sensorPoll (x : Sensors)
  /-- THERMAL_TRIP (R531): A trip comparator removes power from the dies and HBM and asserts THERMTRIP#. -/
  | thermalTrip
  /-- TRIP_RECOVERY (R531): After every sensor reads below 60 °C for 10 s, power is restored and bring-up repeats from step 2. -/
  | tripRecovery (iodTest : Bool)
  /-- REFCLK_CHECK (R524): Once a second the controller checks MCLK and FCLK and records a clock fault. -/
  | refclkCheck (mclk : Bool) (fclk : Bool)
  /-- TL_ARR_REPAIR_WRITE (R80): A host write of TL_ARR_REPAIR is accepted or refused and the row slots and delays are recomputed. -/
  | tlArrRepairWrite (w : TileWin) (value : Nat)
  /-- DIE_ROW_REPAIR_WRITE (R194): A host write of DIE_ROW_REPAIR promotes a row's spare tile or is refused. -/
  | dieRowRepairWrite (d : Die) (y : (Fin 16)) (value : Nat)
  /-- TL_BANK_OWN_WRITE (R170): A host write of a bank's owner state is accepted or discarded, starting a wake out of RETAINED. -/
  | tlBankOwnWrite (w : TileWin) (b : Bank) (value : Nat)
  /-- TL_QNT_WRITE (R117): A host write to a quantisation register is accepted or discarded, and derived channel registers are recomputed. -/
  | tlQntWrite (w : TileWin) (off : Nat) (value : Nat)
  /-- QNT_CAL_RESET (R129): A write of TL_QNT_CLEAR.CAL sets every channel MIN to +∞ and MAX to −∞. -/
  | qntCalReset (w : TileWin)
  /-- NET_STEP_LIMIT_WRITE (R246): A write of NET_STEP_LIMIT is accepted in LOADED and STOPPED and discarded otherwise. -/
  | netStepLimitWrite (value : Nat)
  /-- HBM_CASTLE_SIZE_WRITE (R455): A write of HBM_CASTLE_SIZE in EMPTY resizes the castle region and zero-fills the old and new extents. -/
  | hbmCastleSizeWrite (d : Die) (value : Nat)
  /-- FRK_ADDR_WRITE (R384): A write of FRK_ADDR or FRK_AXES in EMPTY sets the device address or axes and re-sends IDENT. -/
  | frkAddrWrite (axes : Bool) (value : Nat)
  /-- XEPOCH_WRITE (R400): A write of FRK_XPORT_CTL.XEPOCH resets every connection and discards held messages. -/
  | xepochWrite (value : Nat)
  /-- FRK_ROUTE_READ (R390): A write of FRK_ROUTE_CMD.READ loads a routing override entry. -/
  | frkRouteRead
  /-- FRK_ROUTE_WRITE (R390): A write of FRK_ROUTE_CMD.WRITE writes a routing override entry for later messages. -/
  | frkRouteWrite
  /-- PORT_RETRAIN (R380): A write of FRK_PORT_CTL.RETRAIN retrains a port or restarts a FAILED or MISWIRED one. -/
  | portRetrain (p : Port)
  /-- NET_REPAIR_READ (R463): A write of NET_REPAIR_CMD.READ loads a repair-record entry into NET_REPAIR_DATA. -/
  | netRepairRead
  /-- NET_REPAIR_REMOVE (R449): A write of NET_REPAIR_CMD.REMOVE deletes a FRAKEL_PORT entry or is refused. -/
  | netRepairRemove
  /-- SNAP_NOW (R452): A write of NET_SNAP_CMD.NOW makes a snapshot due at the next snapshot tick. -/
  | snapNow
  /-- CASTLE_CLEAR (R455): A write of NET_SNAP_CMD.CLEAR in EMPTY zero-fills the castle region. -/
  | castleClear
  /-- COUNTER_CLEAR (R68): A write to a clear register resets the named counters or first records, with same-cycle counts kept. -/
  | counterClear (addr : Nat) (value : Nat) (same : (List (Nat × Nat)))
  /-- REGISTER_WRITE (R10): A host write to any register without a row of its own follows its access type and the reserved-value rule. -/
  | registerWrite (addr : Nat) (wide : Bool) (value : Nat)
  /-- FLIT_BOUNDARY (R383): At every flit boundary each output port chooses and sends the next flit (NACK, ECHO or IDENT, the frame MARKER, CONTROL, RESPONSE, then REDUCE or BULK, or IDLE), numbering sequenced flits into the replay buffer and carrying ACK at least every 16 slots. -/
  | flitBoundary (p : Port)
  /-- MEMCOPY_COMPLETE (R479): The last byte of a MEMCOPY is written, which makes its completion due. -/
  | memcopyComplete (k : Nat) (mem : MemEnv)
  /-- FLASH_READ_COMPLETE (R479): The last byte of a FLASH_READ is written to host memory, which makes its completion due and frees the slot for layer 2. -/
  | flashReadComplete (k : Nat)
  deriving DecidableEq, Repr

end Sys2Proof
end

