-- ==== Sys2Proof/Decode.lean ====
section
/-! DEFINITION. The words of the table. spec/opcode_table.json gives no row of this block any bits: its commands are operations and events,
not encoded words. (The 16-byte operation words of an image are data of the image: Machine/Operands.lean reads their fields.) -/

namespace Sys2Proof

/-- The command that a word spells: none, since no row of the table has bits. -/
def decodeTableWord (_nbits _w : Nat) : Option Instr := none

end Sys2Proof
end

