-- ==== Sys2Proof/Config.lean ====
section
/-! DEFINITION. What one module fixes at manufacture, and the values the spec leaves open. Every constant here is opaque:
nothing in Lean can evaluate it, so a statement about it holds for every value. -/

namespace Sys2Proof

/-- A fresh free value: the step applies it to a counter of the state (log entry 2). -/
opaque Config.free : Nat → W64

/-- The device identity written at manufacture (R387, R491). -/
opaque Config.uid : W64

/-- The identity of the metering chip (R510). -/
opaque Config.meterId : W64

/-- The serial number of the module, 16 bytes as a number (R491). -/
opaque Config.serial : Nat → Byte

/-- How far a transcendental result lies from the correctly rounded one, in units in the last place (R62): a function of
the operation and its FP32 input. The model keeps it within the bound the spec states (log entry 3). -/
opaque Config.ulps : Nat → Nat → Int

/-- From which input on a transcendental function that rises over its inputs reaches a result (R62): by the operation and the rank of
the result, the rank of an input. Every rising function within the bound is one of these, and whatever this function is, the
result the model forms from it rises (log entry 3). -/
opaque Config.rises : Nat → Int → Int

/-- The controller's internal order of a stack address onto bank, row and column (R253): bank [25:22], row [21:4], atom in the
row [3:0]. -/
opaque Config.hbmPlace : Nat → Nat

/-- Check symbol `i`, of four, of a forward-error-correction codeword whose 124 other symbols spell a number (R373): the spec names the
code, not its field or generator. -/
opaque Config.fec : Nat → Nat → Byte

/-- Byte `i` of the lane-alignment pattern of a marker (R375). -/
opaque Config.lanePattern : Nat → Byte

/-- RECV_CREDITS of the peer's record of a connection (R397): the peer's image declares it. -/
opaque Config.peerCredits : Nat → Nat

/-- Where the owner of an expert keeps its queue regions (R344, R348): by layer and expert. The map of any other device holds 0
there, so the spec does not say how a source knows it. -/
opaque Config.peerQueue : Nat → Nat → Nat

/-- Where a source keeps its landing area for answers (R343, R351): by layer and the source's device address. -/
opaque Config.peerAnswers : Nat → Nat → Nat

/-- The boot ROM holds this signing key and its revocation fuse is intact (R494). -/
opaque Config.keyGood : Nat → Bool

/-- A signature over a digest verifies under a signing key (ML-DSA-87, R493). -/
opaque Config.verifies : Nat → List Byte → List Byte → Bool

/-- A firmware image decapsulates and decrypts with its tag (ML-KEM-1024 and AES-256-GCM, R493, R494). -/
opaque Config.decrypts : List Byte → Bool

/-- Byte `i` of the ML-DSA-87 signature of a digest: key 0 the device identity key, 1 the meter's (R492, R513). -/
opaque Config.signature : Nat → List Byte → Nat → Byte

/-- Byte `i` of the SHA3-512 digest of the image a component leaves manufacture with (log entry 26). -/
opaque Config.factoryDigest : Nat → Nat → Byte

/-- The certificate chains: 0 device, 1 meter (R490, R491, R510). -/
opaque Config.certs : Nat → List Byte

end Sys2Proof
end

