-- ==== Sys2Proof/Machine/Sparse.lean ====
section
/-! DEFINITION. Sparse tables: a list of (key, value) pairs in one canonical form (keys strictly rising, no entry equal to
what an unlisted key reads as). Byte memories, the register file and the tables of hidden unit state are all held so. -/

namespace Sys2Proof.Machine

/-- A sparse table from natural-number keys. -/
abbrev Sparse (α : Type) := List (Nat × α)

/-- What key `k` reads as: the listed value, or the default `d k`. -/
def Sparse.get {α : Type} (d : Nat → α) : Sparse α → Nat → α
  | [], k => d k
  | (j, v) :: m, k => if k = j then v else Sparse.get d m k

/-- Lists `v` under key `k`, before the first greater key. -/
def Sparse.put {α : Type} : Sparse α → Nat → α → Sparse α
  | [], k, v => [(k, v)]
  | (j, w) :: m, k, v =>
    if k < j then (k, v) :: (j, w) :: m
    else if k = j then (k, v) :: m
    else (j, w) :: Sparse.put m k v

/-- Writes `v` at key `k`, keeping the canonical form: writing the default removes the entry. -/
def Sparse.set {α : Type} [DecidableEq α] (d : Nat → α) (m : Sparse α) (k : Nat) (v : α) : Sparse α :=
  if v = d k then m.filter (fun e => e.1 != k) else Sparse.put m k v

/-- Returns every key of the half-open range [lo, hi) to its default. -/
def Sparse.clearRange {α : Type} (m : Sparse α) (lo hi : Nat) : Sparse α :=
  m.filter (fun e => !(decide (lo ≤ e.1) && decide (e.1 < hi)))

/-- Returns every key that `p` marks to its default. -/
def Sparse.clearIf {α : Type} (m : Sparse α) (p : Nat → Bool) : Sparse α :=
  m.filter (fun e => !p e.1)

/-- Every listed key exceeds `b`, rises strictly, and no entry holds its default. -/
def Sparse.wfFrom {α : Type} [DecidableEq α] (d : Nat → α) : Nat → Sparse α → Bool
  | _, [] => true
  | b, (j, v) :: m => decide (b ≤ j) && (decide (v ≠ d j) && Sparse.wfFrom d (j + 1) m)

/-- The canonical form of a sparse table. -/
def Sparse.wf {α : Type} [DecidableEq α] (d : Nat → α) (m : Sparse α) : Bool :=
  Sparse.wfFrom d 0 m

/-- The listed keys. -/
def Sparse.keys {α : Type} (m : Sparse α) : List Nat := m.map (fun e => e.1)

/-! ### Byte memories -/

/-- A byte memory: a sparse table of bytes (Host.Cell). -/
abbrev Mem := List Host.Cell

/-- What an unlisted byte reads as: zero. -/
def Mem.dflt : Nat → Byte := fun _ => 0

/-- The byte at address `a`. -/
def Mem.byte (m : Mem) (a : Nat) : Byte := Sparse.get Mem.dflt m a

/-- The `n` bytes from address `a` upward. -/
def Mem.read (m : Mem) (a : Nat) : Nat → List Byte
  | 0 => []
  | n + 1 => Mem.byte m a :: Mem.read m (a + 1) n

/-- Writes one byte. -/
def Mem.set (m : Mem) (a : Nat) (b : Byte) : Mem := Sparse.set Mem.dflt m a b

/-- Writes the bytes `bs` from address `a` upward. -/
def Mem.write (m : Mem) (a : Nat) : List Byte → Mem
  | [] => m
  | b :: bs => Mem.write (Mem.set m a b) (a + 1) bs

/-- Zero-fills the half-open range [lo, hi). -/
def Mem.zero (m : Mem) (lo hi : Nat) : Mem := Sparse.clearRange m lo hi

/-- The canonical form of a byte memory. -/
def Memory.wf (m : Mem) : Bool := Sparse.wf Mem.dflt m

end Sys2Proof.Machine
end

