-- ==== Sys2Proof/Machine/Bits.lean ====
section
/-! DEFINITION. Bit fields, little-endian byte strings (R8), and the CRC-32C that images, records and messages carry. -/

namespace Sys2Proof.Machine

/-- The field [hi:lo] of a word held as a natural number. -/
def bits (v hi lo : Nat) : Nat := (v >>> lo) % 2 ^ (hi + 1 - lo)

/-- Bit `i` of a word. -/
def bit (v i : Nat) : Nat := (v >>> i) % 2

/-- Whether bit `i` of a word is 1. -/
def isBit (v i : Nat) : Bool := bit v i == 1

/-- The word `v` with its field [hi:lo] replaced by `x` (truncated to the field's width). -/
def setBits (v hi lo x : Nat) : Nat :=
  v - (bits v hi lo) * 2 ^ lo + (x % 2 ^ (hi + 1 - lo)) * 2 ^ lo

/-- The two's complement value of the `w`-bit pattern `v`. -/
def signed (w v : Nat) : Int :=
  if v % 2 ^ w < 2 ^ (w - 1) then ((v % 2 ^ w : Nat) : Int) else ((v % 2 ^ w : Nat) : Int) - ((2 ^ w : Nat) : Int)

/-- The `w`-bit two's complement pattern of an integer. -/
def unsigned (w : Nat) (i : Int) : Nat := (i % ((2 ^ w : Nat) : Int)).toNat

/-- Bool as a number. -/
def b2n (b : Bool) : Nat := if b then 1 else 0

/-- Saturating sum: the sum, at most `2 ^ w - 1`. -/
def satAdd (w a b : Nat) : Nat := min (a + b) (2 ^ w - 1)

/-- The `n` little-endian bytes of `v`. -/
def leBytes : Nat → Nat → List Byte
  | 0, _ => []
  | n + 1, v => Byte.of v :: leBytes n (v / 256)

/-- The number that little-endian bytes spell. -/
def leNat : List Byte → Nat
  | [] => 0
  | b :: bs => b.toNat + 256 * leNat bs

/-- The little-endian number of `n` bytes at position `i` of a byte string (missing bytes are 0). -/
def leAt (bs : List Byte) (i n : Nat) : Nat := leNat ((bs.drop i).take n)

/-- The little-endian number of `n` bytes at address `a` of a memory. -/
def Mem.le (m : Mem) (a n : Nat) : Nat := leNat (Mem.read m a n)

/-- Whether every byte is zero. -/
def allZero (bs : List Byte) : Bool := bs.all (fun b => b == 0)

/-- Whether every byte of positions [i, i + n) is zero. -/
def zeroAt (bs : List Byte) (i n : Nat) : Bool := allZero ((bs.drop i).take n)

/-- A byte string cut or zero-extended to `n` bytes. -/
def padTo (n : Nat) (bs : List Byte) : List Byte := bs.take n ++ List.replicate (n - bs.length) 0

/-- The byte string with the bytes `new` written over it from position `i`. -/
def patch (bs : List Byte) (i : Nat) (new : List Byte) : List Byte :=
  bs.take i ++ new ++ bs.drop (i + new.length)

/-- The least multiple of `n` that is at least `v`. -/
def alignUp (v n : Nat) : Nat := (v + n - 1) / n * n

/-- The bits of `v` that are set, lowest first, among the `n` lowest. -/
def bitList (n v : Nat) : List Nat := (List.range n).filter (fun i => isBit v i)

/-- The number of bits of `v` that are set among the `n` lowest. -/
def popCount (n v : Nat) : Nat := (bitList n v).length

/-- Puts a number into a rising list, after its equals. -/
def insertNat (a : Nat) : List Nat → List Nat
  | [] => [a]
  | b :: m => if a < b then a :: b :: m else b :: insertNat a m

/-- The list in rising order. -/
def sortNat : List Nat → List Nat
  | [] => []
  | a :: m => insertNat a (sortNat m)

/-- The key that does not occur twice: the list without repeats, first occurrences kept. -/
def hasDup (l : List Nat) : Bool :=
  match l with
  | [] => false
  | a :: m => m.contains a || hasDup m

/-! ### CRC-32C -/

/-- One bit step of the reflected CRC-32C register. -/
def crcStep (c : Nat) : Nat := if c % 2 == 1 then (c / 2) ^^^ 0x82F63B78 else c / 2

/-- The CRC register after one more byte. -/
def crcByte (c : Nat) (b : Byte) : Nat :=
  crcStep (crcStep (crcStep (crcStep (crcStep (crcStep (crcStep (crcStep (c ^^^ b.toNat))))))))

/-- CRC-32C (Castagnoli) of a byte string: register and final exclusive OR all ones, reflected. -/
def crc32c (bs : List Byte) : Nat := (bs.foldl crcByte 0xFFFFFFFF) ^^^ 0xFFFFFFFF

end Sys2Proof.Machine
end

