-- ==== Sys2Proof/Machine/Float.lean ====
section
/-! DEFINITION. Number formats, exact arithmetic on their values, and the one rounding of Bopimar (R44 to R59). A value is
held exactly, as a sign, a natural mantissa and an integer exponent, so that every operation is exact until its rounding. -/

namespace Sys2Proof.Machine

/-- The value of an operand: NaN, an infinity, or (−1)^neg × m × 2^e, zero keeping its sign (R47, R50). -/
inductive Num where
  | nan
  | inf (neg : Bool)
  | fin (neg : Bool) (m : Nat) (e : Int)
  deriving DecidableEq, Repr

/-- A floating-point format of R45. -/
structure FFmt where
  eBits : Nat
  mBits : Nat
  bias : Nat
  /-- the bit pattern of the largest finite value -/
  maxBits : Nat
  /-- whether the format has infinities (E4M3 has none) -/
  hasInf : Bool
  /-- the canonical NaN of R47 -/
  nan : Nat
  deriving DecidableEq, Repr

def FFmt.fp32 : FFmt := ⟨8, 23, 127, 0x7F7FFFFF, true, 0x7FC00000⟩
def FFmt.bf16 : FFmt := ⟨8, 7, 127, 0x7F7F, true, 0x7FC0⟩
def FFmt.fp16 : FFmt := ⟨5, 10, 15, 0x7BFF, true, 0x7E00⟩
def FFmt.e4m3 : FFmt := ⟨4, 3, 7, 0x7E, false, 0x7F⟩
def FFmt.e5m2 : FFmt := ⟨5, 2, 15, 0x7B, true, 0x7F⟩

/-- The width of a format in bits. -/
def FFmt.width (f : FFmt) : Nat := 1 + f.eBits + f.mBits

/-- The value of a bit pattern of a floating-point format (R45, R47): subnormals are read, NaN payloads are not kept. -/
def FFmt.decode (f : FFmt) (v : Nat) : Num :=
  let neg := isBit v (f.eBits + f.mBits)
  let ex := bits v (f.eBits + f.mBits - 1) f.mBits
  let m := v % 2 ^ f.mBits
  if f.hasInf && ex == 2 ^ f.eBits - 1 then (if m == 0 then .inf neg else .nan)
  else if !f.hasInf && v % 2 ^ (f.eBits + f.mBits) == 2 ^ (f.eBits + f.mBits) - 1 then .nan
  else if ex == 0 then .fin neg m (1 - (f.bias : Int) - (f.mBits : Int))
  else .fin neg (2 ^ f.mBits + m) ((ex : Int) - (f.bias : Int) - (f.mBits : Int))

/-- `m × 2^-sh` rounded to an integer, to nearest, ties to even (R49). -/
def roundShift (m sh : Nat) : Nat :=
  let q := m >>> sh
  let r := m - (q <<< sh)
  let twice := 2 * r
  let unit := 2 ^ sh
  if unit < twice || (twice == unit && q % 2 == 1) then q + 1 else q

/-- The exponent of a positive mantissa and exponent: floor(log2 (m × 2^e)). -/
def expOf (m : Nat) (e : Int) : Int := (Nat.log2 m : Int) + e

/-- Rounds m × 2^e to a mantissa of `p` fraction bits, no finer than 2^qmin: the mantissa and its
exponent. The range above is unbounded (R56). -/
def roundMag (p : Nat) (qmin : Int) (m : Nat) (e : Int) : Nat × Int :=
  let q := max (expOf m e - (p : Int)) qmin
  if q ≤ e then (m <<< (e - q).toNat, q) else (roundShift m (q - e).toNat, q)

/-- The bit pattern (without sign) of a rounded magnitude; it may exceed `maxBits`, which says that it overflowed. -/
def FFmt.pack (f : FFmt) (m : Nat) (e : Int) : Nat :=
  if m == 0 then 0
  else
    let qmin := 1 - (f.bias : Int) - (f.mBits : Int)
    let r := roundMag f.mBits qmin m e
    ((r.2 - qmin).toNat) * 2 ^ f.mBits + r.1

/-- The sign bit of a format. -/
def FFmt.signBit (f : FFmt) (neg : Bool) : Nat := if neg then 2 ^ (f.eBits + f.mBits) else 0

/-- The infinity of a format, or its canonical NaN where it has none (R57). -/
def FFmt.infBits (f : FFmt) (neg : Bool) : Nat :=
  if f.hasInf then f.signBit neg + f.maxBits + 1 else f.nan

/-- The exact value rounded to a format as IEEE 754 rounds it: overflow gives infinity (R55). -/
def FFmt.round (f : FFmt) (x : Num) : Nat :=
  match x with
  | .nan => f.nan
  | .inf neg => f.infBits neg
  | .fin neg m e =>
    let b := f.pack m e
    if f.maxBits < b then f.infBits neg else f.signBit neg + b

/-! ### Exact arithmetic -/

/-- The negation. -/
def Num.neg : Num → Num
  | .nan => .nan
  | .inf n => .inf (!n)
  | .fin n m e => .fin (!n) m e

/-- The magnitude. -/
def Num.abs : Num → Num
  | .nan => .nan
  | .inf _ => .inf false
  | .fin _ m e => .fin false m e

/-- Whether the value is zero. -/
def Num.isZero : Num → Bool
  | .fin _ m _ => m == 0
  | _ => false

/-- Whether the value is NaN. -/
def Num.isNan : Num → Bool
  | .nan => true
  | _ => false

/-- Whether the value is finite. -/
def Num.isFin : Num → Bool
  | .fin _ _ _ => true
  | _ => false

/-- The sign: true for a negative value or a negative zero. -/
def Num.isNeg : Num → Bool
  | .nan => false
  | .inf n => n
  | .fin n _ _ => n

/-- The signed mantissa of a finite value at exponent `q`, which must not exceed the value's own. -/
def Num.intAt (q : Int) : Num → Int
  | .fin n m e => let k : Nat := m <<< (e - q).toNat; if n then - (k : Int) else (k : Int)
  | _ => 0

/-- The value of an integer mantissa at an exponent; a zero takes the given sign. -/
def Num.ofInt (zneg : Bool) (i : Int) (e : Int) : Num :=
  if i == 0 then .fin zneg 0 0 else .fin (decide (i < 0)) i.natAbs e

/-- The value of an integer. -/
def Num.int (i : Int) : Num := Num.ofInt false i 0

/-- The exact product (R52). -/
def Num.mul (a b : Num) : Num :=
  match a, b with
  | .nan, _ => .nan
  | _, .nan => .nan
  | .inf n, .inf k => .inf (n != k)
  | .inf n, .fin k m _ => if m == 0 then .nan else .inf (n != k)
  | .fin n m _, .inf k => if m == 0 then .nan else .inf (n != k)
  | .fin n m e, .fin k l f => .fin (n != k) (m * l) (e + f)

/-- The exact sum; a zero sum is +0 unless both addends are −0 (R49, IEEE 754). -/
def Num.add (a b : Num) : Num :=
  match a, b with
  | .nan, _ => .nan
  | _, .nan => .nan
  | .inf n, .inf k => if n == k then .inf n else .nan
  | .inf n, .fin _ _ _ => .inf n
  | .fin _ _ _, .inf k => .inf k
  | .fin n m e, .fin k l f =>
    if m == 0 && l == 0 then .fin (n && k) 0 0
    else
      let q := if m == 0 then f else if l == 0 then e else min e f
      Num.ofInt false (Num.intAt q (.fin n m (if m == 0 then q else e)) + Num.intAt q (.fin k l (if l == 0 then q else f))) q

/-- The exact difference. -/
def Num.sub (a b : Num) : Num := Num.add a (Num.neg b)

/-- The order of two values that are not NaN: whether a < b. Zeros of either sign are equal. -/
def Num.lt (a b : Num) : Bool :=
  match a, b with
  | .nan, _ => false
  | _, .nan => false
  | .inf n, .inf k => n && !k
  | .inf n, .fin _ _ _ => n
  | .fin _ _ _, .inf k => !k
  | .fin n m e, .fin k l f =>
    if m == 0 && l == 0 then false
    else
      let q := min e f
      decide (Num.intAt q (.fin n m e) < Num.intAt q (.fin k l f))

/-- The quotient of two finite values with a non-zero divisor, to 64 bits beyond FP32 with the last bit sticky. -/
def Num.div (a b : Num) : Num :=
  match a, b with
  | .nan, _ => .nan
  | _, .nan => .nan
  | .inf _, .inf _ => .nan
  | .inf n, .fin k _ _ => .inf (n != k)
  | .fin n _ _, .inf k => .fin (n != k) 0 0
  | .fin n m e, .fin k l f =>
    if l == 0 then (if m == 0 then .nan else .inf (n != k))
    else if m == 0 then .fin (n != k) 0 0
    else
      let sh := 96 + (Nat.log2 l + 1 - Nat.log2 m)
      let num := m <<< sh
      let q := num / l
      let st := if num % l == 0 then 0 else 1
      .fin (n != k) (2 * q + st) (e - f - (sh : Int) - 1)

/-- Newton steps of the integer square root. -/
def isqrtLoop : Nat → Nat → Nat → Nat
  | 0, _, x => x
  | k + 1, n, x => let y := (x + n / x) / 2; if y < x then isqrtLoop k n y else x

/-- floor(sqrt n). -/
def isqrt (n : Nat) : Nat := if n == 0 then 0 else isqrtLoop 600 n (2 ^ (Nat.log2 n / 2 + 1))

/-- The square root of a value, to 64 bits beyond FP32 with the last bit sticky; a negative value gives NaN. -/
def Num.sqrt (a : Num) : Num :=
  match a with
  | .nan => .nan
  | .inf n => if n then .nan else .inf false
  | .fin n m e =>
    if m == 0 then .fin n 0 0
    else if n then .nan
    else
      let sh := 200 + (if e % 2 == 0 then 0 else 1)
      let v := m <<< sh
      let r := isqrt v
      let st := if r * r == v then 0 else 1
      .fin false (2 * r + st) ((e - (sh : Int)) / 2 - 1)

/-- 2^k. -/
def Num.pow2 (k : Int) : Num := .fin false 1 k

/-! ### FP32 (R55) -/

/-- The value of an FP32 bit pattern. -/
def f32 (v : Nat) : Num := FFmt.fp32.decode v

/-- A value rounded to FP32. -/
def toF32 (x : Num) : Nat := FFmt.fp32.round x

def f32Add (a b : Nat) : Nat := toF32 (Num.add (f32 a) (f32 b))
def f32Sub (a b : Nat) : Nat := toF32 (Num.sub (f32 a) (f32 b))
def f32Mul (a b : Nat) : Nat := toF32 (Num.mul (f32 a) (f32 b))
def f32Div (a b : Nat) : Nat := toF32 (Num.div (f32 a) (f32 b))
def f32Sqrt (a : Nat) : Nat := toF32 (Num.sqrt (f32 a))
/-- a × b + c with one rounding. -/
def f32Fma (a b c : Nat) : Nat := toF32 (Num.add (Num.mul (f32 a) (f32 b)) (f32 c))

/-- Whether the FP32 pattern is finite. -/
def f32Finite (v : Nat) : Bool := (f32 v).isFin

/-- FP32 constants. -/
def f32One : Nat := 0x3F800000
def f32PInf : Nat := 0x7F800000
def f32NInf : Nat := 0xFF800000
def f32Nan : Nat := 0x7FC00000

/-! ### Format codes (R44) and stored elements -/

/-- The floating-point format of a format code. -/
def fmtOf (code : Nat) : Option FFmt :=
  match code with
  | 0 => some .fp32
  | 1 => some .bf16
  | 2 => some .fp16
  | 3 => some .e4m3
  | 4 => some .e5m2
  | _ => none

/-- The width of an element in bits (R44); 0 for a reserved code. -/
def fmtBits (code : Nat) : Nat :=
  match code with
  | 0 => 32
  | 1 => 16
  | 2 => 16
  | 3 => 8
  | 4 => 8
  | 5 => 8
  | 6 => 4
  | 7 => 64
  | _ => 0

/-- Whether a code names an integer format. -/
def fmtIsInt (code : Nat) : Bool := code == 5 || code == 6

/-- The value of an element pattern in the format a code names; an integer stands for itself (R48), an FP32 pair for its sum. -/
def fmtDecode (code v : Nat) : Num :=
  match fmtOf code with
  | some f => f.decode v
  | none =>
    if code == 5 then Num.int (signed 8 v)
    else if code == 6 then Num.int (signed 4 v)
    else if code == 7 then Num.add (f32 (v % 2 ^ 32)) (f32 (v / 2 ^ 32))
    else .nan

/-- Bytes of `n` elements of a format (INT4: two per byte, R48). -/
def fmtBytes (code n : Nat) : Nat := (n * fmtBits code + 7) / 8

/-- Element `i` of a byte string in a format. -/
def elemAt (code : Nat) (bs : List Byte) (i : Nat) : Nat :=
  if code == 6 then bits (leAt bs (i / 2) 1) (4 * (i % 2) + 3) (4 * (i % 2))
  else leAt bs (i * (fmtBits code / 8)) (fmtBits code / 8)

/-- The bytes of a list of element patterns; an odd INT4 count leaves the last high half zero (R48). -/
def elemBytes (code : Nat) : List Nat → List Byte
  | [] => []
  | [a] => if code == 6 then [Byte.of (a % 16)] else leBytes (fmtBits code / 8) a
  | a :: b :: rest =>
    if code == 6 then Byte.of (a % 16 + 16 * (b % 16)) :: elemBytes code rest
    else leBytes (fmtBits code / 8) a ++ (leBytes (fmtBits code / 8) b ++ elemBytes code rest)

/-! ### Narrowing conversion (R56 to R59) -/

/-- What a conversion counts. -/
inductive CvtEvent where
  | none
  | nan        -- 0x0203
  | sat        -- 0x0204
  | ovf        -- 0x0205
  | intNan     -- 0x0206
  deriving DecidableEq, Repr

/-- The status code of a conversion event (0 for none). -/
def CvtEvent.code : CvtEvent → Nat
  | .none => 0
  | .nan => 0x0203
  | .sat => 0x0204
  | .ovf => 0x0205
  | .intNan => 0x0206

/-- Converts a value to a floating-point format under an overflow mode (`prop`: PROPAGATE), R56 to R58. -/
def narrowF (f : FFmt) (prop : Bool) (x : Num) : Nat × CvtEvent :=
  match x with
  | .nan => (f.nan, .nan)
  | .inf neg => if prop then (f.infBits neg, .ovf) else (f.signBit neg + f.maxBits, .sat)
  | .fin neg m e =>
    let b := f.pack m e
    if f.maxBits < b then (if prop then (f.infBits neg, .ovf) else (f.signBit neg + f.maxBits, .sat))
    else (f.signBit neg + b, .none)

/-- A finite magnitude m × 2^e rounded to an integer, ties to even (R49). -/
def roundNat (m : Nat) (e : Int) : Nat :=
  if 0 ≤ e then m <<< e.toNat else roundShift m (-e).toNat

/-- A value rounded to an integer (NaN and infinities give 0). -/
def Num.roundInt : Num → Int
  | .fin n m e => let k := roundNat m e; if n then - (k : Int) else (k : Int)
  | _ => 0

/-- The range of a two's complement format of `w` bits. -/
def intMax (w : Nat) : Int := ((2 ^ (w - 1) : Nat) : Int) - 1
def intMin (w : Nat) : Int := - ((2 ^ (w - 1) : Nat) : Int)

/-- Converts a value to a `w`-bit two's complement integer (R59). -/
def narrowI (w : Nat) (x : Num) : Nat × CvtEvent :=
  match x with
  | .nan => (0, .intNan)
  | .inf neg => (unsigned w (if neg then intMin w else intMax w), .sat)
  | .fin _ _ _ =>
    let i := x.roundInt
    if intMax w < i then (unsigned w (intMax w), .sat)
    else if i < intMin w then (unsigned w (intMin w), .sat)
    else (unsigned w i, .none)

/-- Converts a value to the format a code names (R56 to R59); an FP32 pair takes the value as its sum and +0 as its error. -/
def narrow (code : Nat) (prop : Bool) (x : Num) : Nat × CvtEvent :=
  match fmtOf code with
  | some f => narrowF f prop x
  | none => if code == 5 then narrowI 8 x else if code == 6 then narrowI 4 x else narrowF .fp32 prop x

/-! ### The 65-addend tree (R53, R66) -/

/-- The largest exponent of the non-zero finite addends, if any. -/
def maxExp : List Num → Option Int
  | [] => none
  | .fin _ m e :: rest =>
    if m == 0 then maxExp rest
    else match maxExp rest with
      | none => some (expOf m e)
      | some x => some (max x (expOf m e))
  | _ :: rest => maxExp rest

/-- A finite addend truncated toward zero to a multiple of 2^u, in units of 2^u. -/
def truncAt (u : Int) : Num → Int
  | .fin n m e =>
    let k : Nat := if u ≤ e then m <<< (e - u).toNat else m >>> (u - e).toNat
    if n then - (k : Int) else (k : Int)
  | _ => 0

/-- The exact window sum of R53 with a window of `w` bits below the largest addend. -/
def windowSum (w : Nat) (xs : List Num) : Num :=
  if xs.any Num.isNan then .nan
  else if xs.any (fun x => x == .inf false) && xs.any (fun x => x == .inf true) then .nan
  else if xs.any (fun x => x == .inf false) then .inf false
  else if xs.any (fun x => x == .inf true) then .inf true
  else
    match maxExp xs with
    | none => .fin (xs.all Num.isNeg) 0 0
    | some e =>
      let u := e - (w : Int)
      Num.ofInt false ((xs.map (truncAt u)).foldl (· + ·) 0) u

/-- One plain pass: the new accumulator and whether it overflowed from finite addends (0x020A). -/
def treePlain (xs : List Num) : Nat × Bool :=
  let t := windowSum 47 xs
  let r := toF32 t
  (r, t.isFin && !(f32 r).isFin)

/-- One compensated pass: the new pair (s, c) and whether it overflowed from finite addends (R66). -/
def treePair (xs : List Num) : Nat × Nat × Bool :=
  let t := windowSum 72 xs
  let s := toF32 t
  match t with
  | .fin _ _ _ =>
    if (f32 s).isFin then (s, toF32 (Num.sub t (f32 s)), false) else (s, 0, true)
  | _ => (s, 0, false)

/-! ### Split of FP32 operands (R64) -/

/-- A value rounded to an 11-bit significand with the exponent unbounded; a zero keeps its sign. -/
def round11 (x : Num) : Num :=
  match x with
  | .fin n m e =>
    if m == 0 then .fin n 0 0
    else
      let r := roundMag 10 (expOf m e - 10) m e
      .fin n r.1 r.2
  | y => y

/-- hi(x) of R64. -/
def splitHi (x : Num) : Num := round11 x

/-- lo(x) of R64: infinities and NaNs give +0, a zero splits into two zeros of its sign. -/
def splitLo (x : Num) : Num :=
  match x with
  | .fin n m _ => if m == 0 then .fin n 0 0 else round11 (Num.sub x (round11 x))
  | _ => .fin false 0 0

/-! ### Elementary functions

Each is worked out to more than 200 bits by series in fixed point; the result is rounded once to FP32 and then moved by a free
amount that R62 allows (log entry 3). -/

/-- The fixed-point scale: 2^640. -/
def fxBits : Nat := 640
def fxOne : Int := ((2 ^ fxBits : Nat) : Int)

/-- Product of two fixed-point numbers. -/
def fxMul (a b : Int) : Int := (a * b) / fxOne

/-- A value as a fixed-point number (bits below 2^-640 dropped). -/
def Num.toFx : Num → Int
  | .fin n m e =>
    let s : Int := e + (fxBits : Int)
    let k : Nat := if 0 ≤ s then m <<< s.toNat else m >>> (-s).toNat
    if n then - (k : Int) else (k : Int)
  | _ => 0

/-- The series Σ x^k / k! from term `t` at index `k`. -/
def expSeries : Nat → Int → Int → Nat → Int
  | 0, _, _, _ => 0
  | fuel + 1, x, t, k => t + expSeries fuel x (fxMul t x / ((k + 1 : Nat) : Int)) (k + 1)

/-- The series Σ y^(2k+1) / (2k+1): the inverse hyperbolic tangent. -/
def atanhSeries : Nat → Int → Int → Nat → Int
  | 0, _, _, _ => 0
  | fuel + 1, y2, t, k => t / ((2 * k + 1 : Nat) : Int) + atanhSeries fuel y2 (fxMul t y2) (k + 1)

/-- ln 2 in fixed point: 2 atanh(1/3). -/
def fxLn2 : Int := 2 * atanhSeries 90 (fxOne / 9) (fxOne / 3) 0

/-- e^x for a fixed-point x: a fixed-point mantissa in about [0.7, 1.5) and a power of two. -/
def fxExp (x : Int) : Int × Int :=
  let k : Int := (2 * x + fxLn2) / (2 * fxLn2)
  (expSeries 60 (x - k * fxLn2) fxOne 0, k)

/-- The value of a fixed-point number times 2^k, with its last bit sticky (it is an approximation from within). -/
def fxNum (v : Int) (k : Int) : Num :=
  if v == 0 then .fin false 0 0
  else .fin (decide (v < 0)) (2 * v.natAbs + 1) (k - (fxBits : Int) - 1)

/-- The series of the error function: Σ (−1)^k z^(2k+1) / (k! (2k+1)), from term z^(2k+1)/k!. -/
def erfSeries : Nat → Int → Int → Nat → Int
  | 0, _, _, _ => 0
  | fuel + 1, z2, t, k =>
    t / ((2 * k + 1 : Nat) : Int) + erfSeries fuel z2 (-(fxMul t z2) / ((k + 1 : Nat) : Int)) (k + 1)

/-- The series of the arc tangent: Σ (−1)^k y^(2k+1) / (2k+1). -/
def atanSeries : Nat → Int → Int → Nat → Int
  | 0, _, _, _ => 0
  | fuel + 1, y2, t, k => t / ((2 * k + 1 : Nat) : Int) + atanSeries fuel y2 (-(fxMul t y2)) (k + 1)

/-- π in fixed point (Machin). -/
def fxPi : Int :=
  16 * atanSeries 60 (fxOne / 25) (fxOne / 5) 0 - 4 * atanSeries 25 (fxOne / (239 * 239)) (fxOne / 239) 0

/-- The square root of a fixed-point number. -/
def fxSqrt (v : Int) : Int := ((isqrt (v.toNat * 2 ^ fxBits) : Nat) : Int)

/-- 1 / (1 + e^(−x)) in fixed point for |x| below 2^7, scaled: a mantissa and a power of two. -/
def fxSigmoid (x : Int) : Int × Int :=
  -- for x ≥ 0: 1 / (1 + e^(−x)); for x < 0: e^x / (1 + e^x)
  let e := fxExp (if x < 0 then x else -x)
  -- e^(−|x|) = e.1 × 2^e.2 with e.2 ≤ 0
  let small := e.1 / ((2 ^ (-e.2).toNat : Nat) : Int)
  if x < 0 then (e.1 * fxOne / (fxOne + small), e.2) else (fxOne * fxOne / (fxOne + small), 0)

/-- An FP32 pattern as an integer that rises with the value, and back. -/
def f32Rank (v : Nat) : Int := if isBit v 31 then - ((v % 2 ^ 31 : Nat) : Int) else (v : Int)
def f32OfRank (neg : Bool) (r : Int) : Nat :=
  if r < 0 then 2 ^ 31 + r.natAbs else if r == 0 && neg then 2 ^ 31 else r.toNat

/-- The least and the greatest rank of a finite FP32 value of the sign of `r` that lies within `b` units in the last place of it. -/
def nearLo (r b : Nat) : Int := max (f32Rank r - (b : Int)) (if isBit r 31 then -0x7F7FFFFF else 0)
def nearHi (r b : Nat) : Int := min (f32Rank r + (b : Int)) (if isBit r 31 then 0 else 0x7F7FFFFF)

/-- A correctly rounded result moved by the free units that the accuracy bound allows; infinity and NaN stay. -/
def within (op x b : Nat) (r : Nat) : Nat :=
  if f32Finite r then f32OfRank (isBit r 31) (max (nearLo r b) (min (nearHi r b) (f32Rank r + Config.ulps op x))) else r

/-- The greatest rank in the `n` from `lo` on that an input of rank `x` has reached; `lo` where it has reached none. -/
def reached (op : Nat) (x lo : Int) : Nat → Int
  | 0 => lo
  | n + 1 => if Config.rises op (lo + (n : Int)) ≤ x then lo + (n : Int) else reached op x lo n

/-- A correctly rounded result of a function that rises with the rank `x` of its input, moved within the accuracy bound so that the results
still rise (R62); infinity and NaN stay. -/
def withinRising (op : Nat) (x : Int) (b r : Nat) : Nat :=
  if f32Finite r then f32OfRank (isBit r 31) (reached op x (nearLo r b) ((nearHi r b - nearLo r b).toNat + 1)) else r

/-- At most 1.0 in magnitude (R62). -/
def capOne (v : Nat) : Nat := if f32One < v % 2 ^ 31 then v / 2 ^ 31 * 2 ^ 31 + f32One else v

/-- e^x of an FP32 value, correctly rounded. -/
def expRn (x : Num) : Nat :=
  match x with
  | .nan => f32Nan
  | .inf n => if n then 0 else f32PInf
  | .fin n m e =>
    if m == 0 then f32One
    else if 8 ≤ expOf m e then (if n then 0 else f32PInf)
    else let r := fxExp (Num.toFx (.fin n m e)); toF32 (fxNum r.1 r.2)

/-- 1 / (1 + e^−x), correctly rounded. -/
def sigmoidRn (x : Num) : Nat :=
  match x with
  | .nan => f32Nan
  | .inf n => if n then 0 else f32One
  | .fin n m e =>
    if m != 0 && 8 ≤ expOf m e then (if n then 0 else f32One)
    else let r := fxSigmoid (Num.toFx (.fin n m e)); toF32 (fxNum r.1 r.2)

/-- tanh of a non-negative value in fixed point: 2 σ(2x) − 1, or its series for small x. -/
def fxTanh (x : Int) : Int :=
  let e := fxExp (-2 * x)
  let q := e.1 / ((2 ^ (-e.2).toNat : Nat) : Int)
  (fxOne - q) * fxOne / (fxOne + q)

/-- tanh, correctly rounded; a magnitude below 2^-40 rounds as x − x³/3. -/
def tanhRn (x : Num) : Nat :=
  match x with
  | .nan => f32Nan
  | .inf n => if n then 0xBF800000 else f32One
  | .fin n m e =>
    if m == 0 then (if n then 2 ^ 31 else 0)
    else if expOf m e < -40 then toF32 (.fin n (m * 2 ^ 120 - 1) (e - 120))
    else if 6 ≤ expOf m e then (if n then 0xBF800000 else f32One)
    else toF32 (fxNum ((if n then -1 else 1) * fxTanh (Num.toFx (.fin false m e))) 0)

/-- x × y of a finite value and a fixed-point factor, with its last bit sticky. -/
def mulFx (x : Num) (v k : Int) : Num := Num.mul x (fxNum v k)

/-- SILU: x σ(x), correctly rounded. -/
def siluRn (x : Num) : Nat :=
  match x with
  | .nan => f32Nan
  | .inf n => if n then 0 else f32PInf
  | .fin n m e =>
    if m == 0 then (if n then 2 ^ 31 else 0)
    else if 8 ≤ expOf m e then (if n then 2 ^ 31 else toF32 (.fin n m e))
    else let r := fxSigmoid (Num.toFx (.fin n m e)); toF32 (mulFx (.fin n m e) r.1 r.2)

/-- GELU_TANH: 0.5 t (1 + tanh(√(2/π)(t + 0.044715 t³))) = t σ(2 √(2/π)(t + 0.044715 t³)), correctly rounded. -/
def geluTanhRn (x : Num) : Nat :=
  match x with
  | .nan => f32Nan
  | .inf n => if n then 0 else f32PInf
  | .fin n m e =>
    if m == 0 then (if n then 2 ^ 31 else 0)
    else if 4 ≤ expOf m e then (if n then 2 ^ 31 else toF32 (.fin n m e))
    else
      let t := Num.toFx (.fin n m e)
      let c := fxSqrt (2 * fxOne * fxOne / fxPi)
      let a := 2 * fxMul c (t + 44715 * fxMul t (fxMul t t) / 1000000)
      let r := fxSigmoid a
      toF32 (mulFx (.fin n m e) r.1 r.2)

/-- erf in fixed point for |z| ≤ 11. -/
def fxErf (z : Int) : Int := 2 * fxMul (erfSeries 800 (fxMul z z) z 0) (fxOne * fxOne / fxSqrt fxPi)

/-- GELU_ERF: 0.5 t (1 + erf(t/√2)), correctly rounded where the fixed-point range shows it. -/
def geluErfRn (x : Num) : Nat :=
  match x with
  | .nan => f32Nan
  | .inf n => if n then 0 else f32PInf
  | .fin n m e =>
    if m == 0 then (if n then 2 ^ 31 else 0)
    else if 4 ≤ expOf m e then (if n then 2 ^ 31 else toF32 (.fin n m e))
    else
      let z := Num.toFx (.fin n m e) * fxOne / fxSqrt (2 * fxOne)
      toF32 (mulFx (.fin n m e) ((fxOne + fxErf z) / 2) 0)

/-- 1/x, correctly rounded (R62, VEC_RECIP); 1/±0 is the infinity of its sign. -/
def recipRn (x : Num) : Nat := toF32 (Num.div (.fin false 1 0) x)

/-- 1/√x, correctly rounded (VEC_RSQRT). -/
def rsqrtRn (x : Num) : Nat :=
  match x with
  | .fin n m e =>
    if m == 0 then (if n then f32NInf else f32PInf)
    else if n then f32Nan
    else
      -- 1/√(m 2^e): the root of 2^k / m
      let k : Nat := 400 + 2 * Nat.log2 m
      let kk : Nat := if ((k : Int) + e) % 2 == 0 then k else k + 1
      let q := 2 ^ kk / m
      let r := isqrt q
      toF32 (.fin false (2 * r + 1) ((-(kk : Int) - e) / 2 - 1))
  | .nan => f32Nan
  | .inf n => if n then f32Nan else 0

/-- VEC_EXP: e^x, non-decreasing over the FP32 inputs (R62). -/
def vecExp (v : Nat) : Nat := if f32Finite v then withinRising 20 (f32Rank v) 2 (expRn (f32 v)) else expRn (f32 v)

/-- VEC_RECIP: 1/x, non-increasing over the inputs of each sign (R62). -/
def vecRecip (v : Nat) : Nat := if f32Finite v then withinRising 21 (-(f32Rank v)) 2 (recipRn (f32 v)) else recipRn (f32 v)

/-- VEC_RSQRT: 1/√x, non-increasing over the inputs of each sign (R62). -/
def vecRsqrt (v : Nat) : Nat := if f32Finite v then withinRising 22 (-(f32Rank v)) 2 (rsqrtRn (f32 v)) else rsqrtRn (f32 v)

end Sys2Proof.Machine
end

