-- ==== Sys2Proof/Machine/RegMap.lean ====
section
/-! DEFINITION. The register maps of the spec: one key function and one table row for every register (the BAR0 map of R469;
tile windows are keyed by physical tile). A register is held in State.regs under its key; a key that is not listed reads as
the register's reset value here. Where the spec gives HW or a dash, log entries 5 to 8 say which value stands here. -/

namespace Sys2Proof.Machine

/-- Access types (R10). -/
inductive Access where
  | rw | ro | wo | w1c | w1s
  deriving DecidableEq, Repr

/-- One field of a register map: its bits, access type and reset value. Bits of no field are reserved. -/
structure RegField where
  hi : Nat
  lo : Nat
  acc : Access
  reset : Nat
  deriving DecidableEq, Repr

/-- One register map: name, offset in its window, stride and count of its instances, whether it is 64 bits wide, fields. -/
structure RegDesc where
  name : String
  off : Nat
  stride : Nat
  count : Nat
  wide : Bool
  fields : List RegField
  deriving DecidableEq, Repr

/-- The key of offset `off` in the window of physical tile `p` (p = die × 272 + row × 17 + physical column). The keys lie
above the 64 MiB of BAR0: the BAR0 address of a tile window names a logical tile, and promotion moves it (R193). -/
def tileKey (p off : Nat) : Nat := 0x10000000 + p * 0x4000 + off

/-- The key (BAR0 address) of offset `off` of the control page of die `d` (R469). -/
def dieKey (d off : Nat) : Nat := 0x02000000 + d * 0x00800000 + off

/-- The key of offset `off` in the HBM window of stack `s` (R281). -/
def stackKey (s off : Nat) : Nat := 0x00310000 + s * 0x1000 + off

/-- The key of offset `off` in the Petal window of stack `s` (R281). -/
def petalKey (s off : Nat) : Nat := 0x00320000 + s * 0x1000 + off

/-- The key of offset `off` in the window of Frakel port `p` (R406). -/
def portKey (p off : Nat) : Nat := 0x00210000 + p * 0x1000 + off

/-- TL_CVT_NAN_COUNT (R68), 32 bits. -/
def Reg.tlCvtNanCount (p : Nat) : Nat := tileKey p 0x0400

/-- TL_CVT_SAT_COUNT (R68), 32 bits. -/
def Reg.tlCvtSatCount (p : Nat) : Nat := tileKey p 0x0404

/-- TL_CVT_OVF_COUNT (R68), 32 bits. -/
def Reg.tlCvtOvfCount (p : Nat) : Nat := tileKey p 0x0408

/-- TL_CVT_INTNAN_COUNT (R68), 32 bits. -/
def Reg.tlCvtIntnanCount (p : Nat) : Nat := tileKey p 0x040C

/-- TL_ACC_OVF_COUNT (R68), 32 bits. -/
def Reg.tlAccOvfCount (p : Nat) : Nat := tileKey p 0x0410

/-- TL_CVT_FIRST (R68), 64 bits. -/
def Reg.tlCvtFirst (p : Nat) : Nat := tileKey p 0x0418

/-- TL_CVT_CLEAR (R68), 32 bits. -/
def Reg.tlCvtClear (p : Nat) : Nat := tileKey p 0x0420

/-- TL_ARR_CTL (R106), 32 bits. -/
def Reg.tlArrCtl (p : Nat) : Nat := tileKey p 0x0500

/-- TL_ARR_REPAIR (R106), 32 bits. -/
def Reg.tlArrRepair (p : Nat) : Nat := tileKey p 0x0504

/-- TL_ARR_STATUS (R106), 32 bits. -/
def Reg.tlArrStatus (p : Nat) : Nat := tileKey p 0x0508

/-- TL_ARR_DLY (R106), 32 bits. -/
def Reg.tlArrDly (p : Nat) (i : Nat) : Nat := tileKey p (0x0510 + 4 * i)

/-- TL_ARR_COLSTALL_COUNT (R106), 32 bits. -/
def Reg.tlArrColstallCount (p : Nat) : Nat := tileKey p 0x0530

/-- TL_ARR_ROWSTALL_COUNT (R106), 32 bits. -/
def Reg.tlArrRowstallCount (p : Nat) : Nat := tileKey p 0x0534

/-- TL_ARR_FREEZE_COUNT (R106), 32 bits. -/
def Reg.tlArrFreezeCount (p : Nat) : Nat := tileKey p 0x0538

/-- TL_ARR_SKIP_COUNT (R106), 32 bits. -/
def Reg.tlArrSkipCount (p : Nat) : Nat := tileKey p 0x053C

/-- TL_ARR_CSPASS_COUNT (R106), 32 bits. -/
def Reg.tlArrCspassCount (p : Nat) : Nat := tileKey p 0x0540

/-- TL_ARR_CSUNCHK_COUNT (R106), 32 bits. -/
def Reg.tlArrCsunchkCount (p : Nat) : Nat := tileKey p 0x0544

/-- TL_ARR_CSFAIL (R106), 64 bits. -/
def Reg.tlArrCsfail (p : Nat) : Nat := tileKey p 0x0548

/-- TL_ARR_CLEAR (R106), 32 bits. -/
def Reg.tlArrClear (p : Nat) : Nat := tileKey p 0x0550

/-- TL_QNT_CHAN_CTL (R129), 32 bits. -/
def Reg.tlQntChanCtl (p : Nat) : Nat := tileKey p 0x0600

/-- TL_QNT_CONST_COUNT (R129), 32 bits. -/
def Reg.tlQntConstCount (p : Nat) : Nat := tileKey p 0x0604

/-- TL_QNT_CLEAR (R129), 32 bits. -/
def Reg.tlQntClear (p : Nat) : Nat := tileKey p 0x0608

/-- TL_QNT_CH_SCALE (R129), 32 bits. -/
def Reg.tlQntChScale (p : Nat) (i : Nat) : Nat := tileKey p (0x0800 + 4 * i)

/-- TL_QNT_CH_BIAS (R129), 32 bits. -/
def Reg.tlQntChBias (p : Nat) (i : Nat) : Nat := tileKey p (0x0900 + 4 * i)

/-- TL_QNT_CH_ZERO (R129), 32 bits. -/
def Reg.tlQntChZero (p : Nat) (i : Nat) : Nat := tileKey p (0x0A00 + 4 * i)

/-- TL_QNT_CH_RSCALE (R129), 32 bits. -/
def Reg.tlQntChRscale (p : Nat) (i : Nat) : Nat := tileKey p (0x0B00 + 4 * i)

/-- TL_QNT_CH_RBIAS (R129), 32 bits. -/
def Reg.tlQntChRbias (p : Nat) (i : Nat) : Nat := tileKey p (0x0C00 + 4 * i)

/-- TL_QNT_CH_MIN (R129), 32 bits. -/
def Reg.tlQntChMin (p : Nat) (i : Nat) : Nat := tileKey p (0x0D00 + 4 * i)

/-- TL_QNT_CH_MAX (R129), 32 bits. -/
def Reg.tlQntChMax (p : Nat) (i : Nat) : Nat := tileKey p (0x0E00 + 4 * i)

/-- TL_QNT_SLOT_CTL (R129), 32 bits. -/
def Reg.tlQntSlotCtl (p : Nat) (i : Nat) : Nat := tileKey p (0x0F00 + 16 * i)

/-- TL_QNT_SLOT_SAT (R129), 32 bits. -/
def Reg.tlQntSlotSat (p : Nat) (i : Nat) : Nat := tileKey p (0x0F04 + 16 * i)

/-- TL_QNT_SLOT_UNDER (R129), 32 bits. -/
def Reg.tlQntSlotUnder (p : Nat) (i : Nat) : Nat := tileKey p (0x0F08 + 16 * i)

/-- TL_QNT_SLOT_AMAX (R129), 32 bits. -/
def Reg.tlQntSlotAmax (p : Nat) (i : Nat) : Nat := tileKey p (0x0F0C + 16 * i)

/-- TL_KN_STATUS (R161), 32 bits. -/
def Reg.tlKnStatus (p : Nat) : Nat := tileKey p 0x1000

/-- TL_KN_COUNT (R161), 32 bits. -/
def Reg.tlKnCount (p : Nat) (i : Nat) : Nat := tileKey p (0x1010 + 4 * i)

/-- TL_KN_FIRST (R161), 64 bits. -/
def Reg.tlKnFirst (p : Nat) : Nat := tileKey p 0x1040

/-- TL_KN_CLEAR (R161), 32 bits. -/
def Reg.tlKnClear (p : Nat) : Nat := tileKey p 0x1048

/-- TL_BANK_OWN (R183), 32 bits. -/
def Reg.tlBankOwn (p : Nat) (i : Nat) : Nat := tileKey p (0x1100 + 4 * i)

/-- TL_BANK_SUMMARY (R183), 32 bits. -/
def Reg.tlBankSummary (p : Nat) : Nat := tileKey p 0x1110

/-- TL_BANK_COUNT (R183), 32 bits. -/
def Reg.tlBankCount (p : Nat) (i : Nat) : Nat := tileKey p (0x1120 + 4 * i)

/-- TL_BANK_ECCFIRST (R183), 64 bits. -/
def Reg.tlBankEccfirst (p : Nat) : Nat := tileKey p 0x1160

/-- TL_BANK_CLEAR (R183), 32 bits. -/
def Reg.tlBankClear (p : Nat) : Nat := tileKey p 0x1168

/-- NET_MOVE_CTL (R209), 32 bits. -/
def Reg.netMoveCtl : Nat := 0x2000

/-- NET_MOVE_NUMBER (R209), 64 bits. -/
def Reg.netMoveNumber : Nat := 0x2008

/-- NET_MOVE_OFFSET (R209), 32 bits. -/
def Reg.netMoveOffset : Nat := 0x2010

/-- NET_HOLD_TOTAL (R209), 64 bits. -/
def Reg.netHoldTotal : Nat := 0x2018

/-- NET_HOLD_CAUSE (R209), 64 bits. -/
def Reg.netHoldCause (i : Nat) : Nat := 0x2020 + 8 * i

/-- NET_HOLD_MOVES (R209), 64 bits. -/
def Reg.netHoldMoves : Nat := 0x2048

/-- NET_HOLD_LONGEST (R209), 64 bits. -/
def Reg.netHoldLongest : Nat := 0x2050

/-- NET_HOLD_LONGEST_MOVE (R209), 64 bits. -/
def Reg.netHoldLongestMove : Nat := 0x2058

/-- NET_HOLD_LIMIT (R209), 32 bits. -/
def Reg.netHoldLimit : Nat := 0x2060

/-- NET_HOLD_CLEAR (R209), 32 bits. -/
def Reg.netHoldClear : Nat := 0x2068

/-- DIE_ROW_REPAIR (R210), 32 bits. -/
def Reg.dieRowRepair (d : Nat) (i : Nat) : Nat := dieKey d (0x1000 + 4 * i)

/-- DIE_REPAIR_STATUS (R210), 32 bits. -/
def Reg.dieRepairStatus (d : Nat) : Nat := dieKey d 0x1040

/-- DIE_LIST_STATUS (R210), 32 bits. -/
def Reg.dieListStatus (d : Nat) (i : Nat) : Nat := dieKey d (0x1100 + 4 * i)

/-- DIE_NET_COUNT (R210), 32 bits. -/
def Reg.dieNetCount (d : Nat) (i : Nat) : Nat := dieKey d (0x1200 + 4 * i)

/-- DIE_NET_ECCFIRST (R210), 64 bits. -/
def Reg.dieNetEccfirst (d : Nat) : Nat := dieKey d 0x1240

/-- DIE_NET_CLEAR (R210), 32 bits. -/
def Reg.dieNetClear (d : Nat) : Nat := dieKey d 0x1248

/-- NET_JOB_STATE (R247), 32 bits. -/
def Reg.netJobState : Nat := 0x2100

/-- NET_IMG_ID (R247), 64 bits. -/
def Reg.netImgId : Nat := 0x2108

/-- NET_IMG_REJECT (R247), 64 bits. -/
def Reg.netImgReject : Nat := 0x2110

/-- NET_IMG_REJECT_WHERE (R247), 32 bits. -/
def Reg.netImgRejectWhere : Nat := 0x2118

/-- NET_IMG_SIZE (R247), 64 bits. -/
def Reg.netImgSize : Nat := 0x2120

/-- NET_STEP_LIMIT (R247), 64 bits. -/
def Reg.netStepLimit : Nat := 0x2128

/-- NET_STEP_NUMBER (R247), 64 bits. -/
def Reg.netStepNumber : Nat := 0x2130

/-- NET_STEP_MOVES (R247), 32 bits. -/
def Reg.netStepMoves : Nat := 0x2138

/-- NET_SCALE_TICK (R247), 32 bits. -/
def Reg.netScaleTick : Nat := 0x213C

/-- NET_IMG_CAPS (R247), 64 bits. -/
def Reg.netImgCaps : Nat := 0x2140

/-- HBM_MAP_INFO (R281), 64 bits. -/
def Reg.hbmMapInfo : Nat := 0x300000

/-- HBM_CASTLE_SIZE (R281), 32 bits. -/
def Reg.hbmCastleSize (i : Nat) : Nat := 0x300010 + 4 * i

/-- HBM_SCRUB_STATUS (R281), 32 bits. -/
def Reg.hbmScrubStatus : Nat := 0x300020

/-- HBM_STATUS (R281), 32 bits. -/
def Reg.hbmStatus (s : Nat) : Nat := stackKey s 0x0000

/-- HBM_COUNT (R281), 32 bits. -/
def Reg.hbmCount (s : Nat) (i : Nat) : Nat := stackKey s (0x0010 + 4 * i)

/-- HBM_ECC_FIRST (R281), 64 bits. -/
def Reg.hbmEccFirst (s : Nat) : Nat := stackKey s 0x0040

/-- HBM_REPAIR (R281), 64 bits. -/
def Reg.hbmRepair (s : Nat) : Nat := stackKey s 0x0050

/-- HBM_CLEAR (R281), 32 bits. -/
def Reg.hbmClear (s : Nat) : Nat := stackKey s 0x0060

/-- PET_STATUS (R281), 32 bits. -/
def Reg.petStatus (s : Nat) : Nat := petalKey s 0x0000

/-- PET_COUNT (R281), 32 bits. -/
def Reg.petCount (s : Nat) (i : Nat) : Nat := petalKey s (0x0010 + 4 * i)

/-- PET_FIRST (R281), 64 bits. -/
def Reg.petFirst (s : Nat) : Nat := petalKey s 0x0040

/-- PET_CLEAR (R281), 32 bits. -/
def Reg.petClear (s : Nat) : Nat := petalKey s 0x0048

/-- HBM_OWN_INDEX (R281), 32 bits. -/
def Reg.hbmOwnIndex : Nat := 0x330000

/-- HBM_OWN_DATA (R281), 64 bits. -/
def Reg.hbmOwnData : Nat := 0x330008

/-- HBM_OWN_CMD (R281), 32 bits. -/
def Reg.hbmOwnCmd : Nat := 0x330010

/-- HBM_OWN_COUNT (R281), 32 bits. -/
def Reg.hbmOwnCount (i : Nat) : Nat := 0x330020 + 4 * i

/-- HBM_OWN_CLEAR (R281), 32 bits. -/
def Reg.hbmOwnClear : Nat := 0x330060

/-- TL_DMA_STATUS (R304), 32 bits. -/
def Reg.tlDmaStatus (p : Nat) : Nat := tileKey p 0x1200

/-- TL_DMA_COUNT (R304), 32 bits. -/
def Reg.tlDmaCount (p : Nat) (i : Nat) : Nat := tileKey p (0x1210 + 4 * i)

/-- TL_DMA_FIRST (R304), 64 bits. -/
def Reg.tlDmaFirst (p : Nat) : Nat := tileKey p 0x1240

/-- TL_DMA_CLEAR (R304), 32 bits. -/
def Reg.tlDmaClear (p : Nat) : Nat := tileKey p 0x1248

/-- TL_TRN_COUNT (R333), 32 bits. -/
def Reg.tlTrnCount (p : Nat) (i : Nat) : Nat := tileKey p (0x1300 + 4 * i)

/-- TL_TRN_CLEAR (R333), 32 bits. -/
def Reg.tlTrnClear (p : Nat) : Nat := tileKey p 0x1320

/-- DIE_STK_STATUS (R334), 64 bits. -/
def Reg.dieStkStatus (d : Nat) : Nat := dieKey d 0x1400

/-- DIE_STK_COUNT (R334), 32 bits. -/
def Reg.dieStkCount (d : Nat) (i : Nat) : Nat := dieKey d (0x1410 + 4 * i)

/-- DIE_STK_FRAME_SEL (R334), 32 bits. -/
def Reg.dieStkFrameSel (d : Nat) : Nat := dieKey d 0x1430

/-- DIE_STK_FRAME (R334), 32 bits. -/
def Reg.dieStkFrame (d : Nat) : Nat := dieKey d 0x1434

/-- DIE_STK_CLEAR (R334), 32 bits. -/
def Reg.dieStkClear (d : Nat) : Nat := dieKey d 0x1438

/-- DIE_TRN_NORM (R334), 32 bits. -/
def Reg.dieTrnNorm (d : Nat) (i : Nat) : Nat := dieKey d (0x1800 + 4 * i)

/-- NET_LOSS_CTL (R335), 32 bits. -/
def Reg.netLossCtl : Nat := 0x2200

/-- NET_LOSS_CLEAN (R335), 32 bits. -/
def Reg.netLossClean : Nat := 0x2204

/-- NET_VOTE_STATUS (R335), 32 bits. -/
def Reg.netVoteStatus : Nat := 0x2208

/-- NET_VOTE_FIRST (R335), 64 bits. -/
def Reg.netVoteFirst : Nat := 0x2210

/-- NET_VOTE_FIRST_TENSOR (R335), 64 bits. -/
def Reg.netVoteFirstTensor : Nat := 0x2218

/-- NET_TRN_UPDATES (R335), 64 bits. -/
def Reg.netTrnUpdates : Nat := 0x2220

/-- NET_TRN_COUNT (R335), 32 bits. -/
def Reg.netTrnCount (i : Nat) : Nat := 0x2230 + 4 * i

/-- NET_TRN_CLEAR (R335), 32 bits. -/
def Reg.netTrnClear : Nat := 0x2250

/-- TL_DYN_COUNT (R367), 32 bits. -/
def Reg.tlDynCount (p : Nat) (i : Nat) : Nat := tileKey p (0x1400 + 4 * i)

/-- TL_DYN_FIRST (R367), 64 bits. -/
def Reg.tlDynFirst (p : Nat) : Nat := tileKey p 0x1420

/-- TL_DYN_CLEAR (R367), 32 bits. -/
def Reg.tlDynClear (p : Nat) : Nat := tileKey p 0x1428

/-- NET_EXP_RUN (R368), 32 bits. -/
def Reg.netExpRun : Nat := 0x2400

/-- NET_EXP_SEL (R368), 32 bits. -/
def Reg.netExpSel : Nat := 0x2404

/-- NET_EXP_STATUS (R368), 32 bits. -/
def Reg.netExpStatus : Nat := 0x2408

/-- NET_EXP_COUNT (R368), 32 bits. -/
def Reg.netExpCount (i : Nat) : Nat := 0x2410 + 4 * i

/-- NET_EXP_CLEAR (R368), 32 bits. -/
def Reg.netExpClear : Nat := 0x2430

/-- NET_EXP_DROP (R368), 32 bits. -/
def Reg.netExpDrop (i : Nat) : Nat := 0x2800 + 4 * i

/-- NET_DEC_STATUS (R368), 64 bits. -/
def Reg.netDecStatus (i : Nat) : Nat := 0x2C00 + 8 * i

/-- NET_DEC_COUNT (R368), 32 bits. -/
def Reg.netDecCount (i : Nat) : Nat := 0x2E00 + 4 * i

/-- NET_DEC_CLEAR (R368), 32 bits. -/
def Reg.netDecClear : Nat := 0x2E10

/-- FRK_ADDR (R405), 32 bits. -/
def Reg.frkAddr : Nat := 0x200000

/-- FRK_AXES (R405), 32 bits. -/
def Reg.frkAxes : Nat := 0x200004

/-- FRK_UID (R405), 64 bits. -/
def Reg.frkUid : Nat := 0x200008

/-- FRK_XPORT_CTL (R405), 32 bits. -/
def Reg.frkXportCtl : Nat := 0x200010

/-- FRK_XPORT_STATUS (R405), 32 bits. -/
def Reg.frkXportStatus : Nat := 0x200014

/-- FRK_ROUTE_INDEX (R405), 32 bits. -/
def Reg.frkRouteIndex : Nat := 0x200020

/-- FRK_ROUTE_DATA (R405), 64 bits. -/
def Reg.frkRouteData : Nat := 0x200028

/-- FRK_ROUTE_CMD (R405), 32 bits. -/
def Reg.frkRouteCmd : Nat := 0x200030

/-- FRK_CONN_SEL (R405), 32 bits. -/
def Reg.frkConnSel : Nat := 0x200040

/-- FRK_CONN_STATE (R405), 64 bits. -/
def Reg.frkConnState : Nat := 0x200048

/-- FRK_CONN_INFO (R405), 64 bits. -/
def Reg.frkConnInfo : Nat := 0x200050

/-- FRK_MSG_COUNT (R405), 64 bits. -/
def Reg.frkMsgCount (i : Nat) : Nat := 0x200080 + 8 * i

/-- FRK_MSG_FIRST (R405), 64 bits. -/
def Reg.frkMsgFirst : Nat := 0x2000E0

/-- FRK_MSG_CLEAR (R405), 32 bits. -/
def Reg.frkMsgClear : Nat := 0x2000E8

/-- FRK_PORT_CTL (R406), 32 bits. -/
def Reg.frkPortCtl (p : Nat) : Nat := portKey p 0x0000

/-- FRK_PORT_STATUS (R406), 32 bits. -/
def Reg.frkPortStatus (p : Nat) : Nat := portKey p 0x0004

/-- FRK_PORT_PEER_UID (R406), 64 bits. -/
def Reg.frkPortPeerUid (p : Nat) : Nat := portKey p 0x0008

/-- FRK_PORT_PEER (R406), 32 bits. -/
def Reg.frkPortPeer (p : Nat) : Nat := portKey p 0x0010

/-- FRK_PORT_COUNT (R406), 64 bits. -/
def Reg.frkPortCount (p : Nat) (i : Nat) : Nat := portKey p (0x0040 + 8 * i)

/-- FRK_PORT_CLEAR (R406), 32 bits. -/
def Reg.frkPortClear (p : Nat) : Nat := portKey p 0x00A0

/-- FRK_COLL_SEL (R433), 32 bits. -/
def Reg.frkCollSel : Nat := 0x220000

/-- FRK_COLL_STATUS (R433), 32 bits. -/
def Reg.frkCollStatus : Nat := 0x220004

/-- FRK_COLL_COUNT (R433), 64 bits. -/
def Reg.frkCollCount (i : Nat) : Nat := 0x220010 + 8 * i

/-- FRK_COLL_CLEAR (R433), 32 bits. -/
def Reg.frkCollClear : Nat := 0x220040

/-- NET_LAYOUT (R434), 32 bits. -/
def Reg.netLayout : Nat := 0x3000

/-- NET_RESHARD_STATUS (R434), 64 bits. -/
def Reg.netReshardStatus : Nat := 0x3008

/-- NET_EXCH_COUNT (R434), 32 bits. -/
def Reg.netExchCount (i : Nat) : Nat := 0x3010 + 4 * i

/-- NET_EXCH_CLEAR (R434), 32 bits. -/
def Reg.netExchClear : Nat := 0x3020

/-- TL_RED_COUNT (R435), 32 bits. -/
def Reg.tlRedCount (p : Nat) (i : Nat) : Nat := tileKey p (0x1500 + 4 * i)

/-- TL_RED_CLEAR (R435), 32 bits. -/
def Reg.tlRedClear (p : Nat) : Nat := tileKey p 0x1520

/-- NET_RES_STATUS (R463), 32 bits. -/
def Reg.netResStatus : Nat := 0x3400

/-- NET_RES_LAST (R463), 64 bits. -/
def Reg.netResLast : Nat := 0x3408

/-- NET_RES_COUNT (R463), 32 bits. -/
def Reg.netResCount (i : Nat) : Nat := 0x3410 + 4 * i

/-- NET_RES_CLEAR (R463), 32 bits. -/
def Reg.netResClear : Nat := 0x3430

/-- NET_REPAIR_INDEX (R463), 32 bits. -/
def Reg.netRepairIndex : Nat := 0x3440

/-- NET_REPAIR_DATA (R463), 64 bits. -/
def Reg.netRepairData (i : Nat) : Nat := 0x3448 + 8 * i

/-- NET_REPAIR_CMD (R463), 32 bits. -/
def Reg.netRepairCmd : Nat := 0x3458

/-- NET_SNAP_CTL (R463), 32 bits. -/
def Reg.netSnapCtl : Nat := 0x3480

/-- NET_SNAP_STATUS (R463), 64 bits. -/
def Reg.netSnapStatus : Nat := 0x3488

/-- NET_SNAP_SLOT (R463), 64 bits. -/
def Reg.netSnapSlot (i : Nat) : Nat := 0x3490 + 8 * i

/-- NET_SNAP_STORED (R463), 64 bits. -/
def Reg.netSnapStored : Nat := 0x34B8

/-- NET_SNAP_HOLD (R463), 64 bits. -/
def Reg.netSnapHold : Nat := 0x34C0

/-- NET_SNAP_CMD (R463), 32 bits. -/
def Reg.netSnapCmd : Nat := 0x34C8

/-- HQ_ID (R485), 64 bits. -/
def Reg.hqId : Nat := 0x0000

/-- HQ_CAPS (R485), 64 bits. -/
def Reg.hqCaps : Nat := 0x0008

/-- HQ_DEV_STATUS (R485), 32 bits. -/
def Reg.hqDevStatus : Nat := 0x0010

/-- HQ_RESET (R485), 32 bits. -/
def Reg.hqReset : Nat := 0x0014

/-- HQ_INT_CTL (R485), 32 bits. -/
def Reg.hqIntCtl : Nat := 0x0018

/-- HQ_INT_CAUSE (R485), 32 bits. -/
def Reg.hqIntCause : Nat := 0x001C

/-- HQ_ERR_COUNT (R485), 32 bits. -/
def Reg.hqErrCount (i : Nat) : Nat := 0x0020 + 4 * i

/-- HQ_ERR_CLEAR (R485), 32 bits. -/
def Reg.hqErrClear : Nat := 0x0040

/-- HQ_SQ_BASE (R485), 64 bits. -/
def Reg.hqSqBase (i : Nat) : Nat := 0x100000 + 64 * i

/-- HQ_CQ_BASE (R485), 64 bits. -/
def Reg.hqCqBase (i : Nat) : Nat := 0x101000 + 64 * i

/-- HQ_SQ_CTL (R485), 32 bits. -/
def Reg.hqSqCtl (i : Nat) : Nat := 0x100008 + 64 * i

/-- HQ_SQ_STATUS (R485), 32 bits. -/
def Reg.hqSqStatus (i : Nat) : Nat := 0x10000C + 64 * i

/-- HQ_SQ_SEQ (R485), 32 bits. -/
def Reg.hqSqSeq (i : Nat) : Nat := 0x100010 + 64 * i

/-- HQ_CQ_CTL (R485), 32 bits. -/
def Reg.hqCqCtl (i : Nat) : Nat := 0x101008 + 64 * i

/-- HQ_CQ_STATUS (R485), 32 bits. -/
def Reg.hqCqStatus (i : Nat) : Nat := 0x10100C + 64 * i

/-- HQ_SQ_TAIL (R485), 32 bits. -/
def Reg.hqSqTail (i : Nat) : Nat := 0x110000 + 8 * i

/-- HQ_CQ_HEAD (R485), 32 bits. -/
def Reg.hqCqHead (i : Nat) : Nat := 0x110400 + 8 * i

/-- MGT_UID (R515), 64 bits. -/
def Reg.mgtUid : Nat := 0x400000

/-- MGT_TIME (R515), 64 bits. -/
def Reg.mgtTime : Nat := 0x400008

/-- MGT_TIME_STATUS (R515), 32 bits. -/
def Reg.mgtTimeStatus : Nat := 0x400010

/-- MGT_FW_STATUS (R515), 64 bits. -/
def Reg.mgtFwStatus (i : Nat) : Nat := 0x400020 + 8 * i

/-- MGT_MBOX_CTL (R515), 32 bits. -/
def Reg.mgtMboxCtl : Nat := 0x400100

/-- EVT_CTL (R515), 32 bits. -/
def Reg.evtCtl : Nat := 0x400200

/-- EVT_SEL (R515), 64 bits. -/
def Reg.evtSel : Nat := 0x400208

/-- EVT_HEAD (R515), 64 bits. -/
def Reg.evtHead : Nat := 0x400210

/-- EVT_READ_STATUS (R515), 32 bits. -/
def Reg.evtReadStatus : Nat := 0x400218

/-- EVT_REC (R515), 64 bits. -/
def Reg.evtRec (i : Nat) : Nat := 0x400240 + 8 * i

/-- EVT_COUNT (R515), 32 bits. -/
def Reg.evtCount (i : Nat) : Nat := 0x400280 + 4 * i

/-- EVT_CLEAR (R515), 32 bits. -/
def Reg.evtClear : Nat := 0x4002A0

/-- MTR_ID (R516), 64 bits. -/
def Reg.mtrId : Nat := 0x500000

/-- MTR_ENERGY (R516), 64 bits. -/
def Reg.mtrEnergy : Nat := 0x500008

/-- MTR_POWER (R516), 32 bits. -/
def Reg.mtrPower : Nat := 0x500010

/-- MTR_STATUS (R516), 32 bits. -/
def Reg.mtrStatus : Nat := 0x500014

/-- MTR_PASSES (R516), 64 bits. -/
def Reg.mtrPasses : Nat := 0x500018

/-- MTR_STEPS (R516), 64 bits. -/
def Reg.mtrSteps : Nat := 0x500020

/-- MTR_UPDATES (R516), 64 bits. -/
def Reg.mtrUpdates : Nat := 0x500028

/-- MGT_PWR_CTL (R535), 32 bits. -/
def Reg.mgtPwrCtl : Nat := 0x400300

/-- MGT_PWR_STATUS (R535), 64 bits. -/
def Reg.mgtPwrStatus : Nat := 0x400308

/-- MGT_TEMP (R535), 32 bits. -/
def Reg.mgtTemp (i : Nat) : Nat := 0x400310 + 4 * i

/-- MGT_FLOW (R535), 32 bits. -/
def Reg.mgtFlow : Nat := 0x400370

/-- MGT_PWR_COUNT (R535), 32 bits. -/
def Reg.mgtPwrCount (i : Nat) : Nat := 0x400380 + 4 * i

/-- MGT_PWR_CLEAR (R535), 32 bits. -/
def Reg.mgtPwrClear : Nat := 0x4003A0

def tileRegs0 : List RegDesc := [
  ⟨"TL_CVT_NAN_COUNT", 0x0400, 0, 1, false, [⟨31, 0, .ro, 0x0⟩]⟩,
  ⟨"TL_CVT_SAT_COUNT", 0x0404, 0, 1, false, [⟨31, 0, .ro, 0x0⟩]⟩,
  ⟨"TL_CVT_OVF_COUNT", 0x0408, 0, 1, false, [⟨31, 0, .ro, 0x0⟩]⟩,
  ⟨"TL_CVT_INTNAN_COUNT", 0x040C, 0, 1, false, [⟨31, 0, .ro, 0x0⟩]⟩,
  ⟨"TL_ACC_OVF_COUNT", 0x0410, 0, 1, false, [⟨31, 0, .ro, 0x0⟩]⟩,
  ⟨"TL_CVT_FIRST", 0x0418, 0, 1, true, [⟨63, 48, .ro, 0x0⟩, ⟨47, 32, .ro, 0x0⟩, ⟨14, 13, .ro, 0x0⟩, ⟨12, 12, .ro, 0x0⟩, ⟨11, 0, .ro, 0x0⟩]⟩,
  ⟨"TL_CVT_CLEAR", 0x0420, 0, 1, false, [⟨5, 5, .wo, 0x0⟩, ⟨4, 4, .wo, 0x0⟩, ⟨3, 3, .wo, 0x0⟩, ⟨2, 2, .wo, 0x0⟩, ⟨1, 1, .wo, 0x0⟩, ⟨0, 0, .wo, 0x0⟩]⟩,
  ⟨"TL_ARR_CTL", 0x0500, 0, 1, false, [⟨12, 8, .rw, 0x10⟩, ⟨0, 0, .rw, 0x1⟩]⟩,
  ⟨"TL_ARR_REPAIR", 0x0504, 0, 1, false, [⟨31, 16, .ro, 0x0⟩, ⟨9, 9, .rw, 0x0⟩, ⟨8, 8, .rw, 0x0⟩, ⟨6, 0, .rw, 0x7F⟩]⟩,
  ⟨"TL_ARR_STATUS", 0x0508, 0, 1, false, [⟨31, 16, .ro, 0x0⟩, ⟨6, 6, .ro, 0x0⟩, ⟨5, 5, .ro, 0x0⟩, ⟨4, 4, .ro, 0x0⟩, ⟨3, 1, .ro, 0x0⟩, ⟨0, 0, .ro, 0x0⟩]⟩,
  ⟨"TL_ARR_DLY", 0x0510, 4, 4, false, [⟨31, 0, .ro, 0x0⟩]⟩,
  ⟨"TL_ARR_COLSTALL_COUNT", 0x0530, 0, 1, false, [⟨31, 0, .ro, 0x0⟩]⟩,
  ⟨"TL_ARR_ROWSTALL_COUNT", 0x0534, 0, 1, false, [⟨31, 0, .ro, 0x0⟩]⟩,
  ⟨"TL_ARR_FREEZE_COUNT", 0x0538, 0, 1, false, [⟨31, 0, .ro, 0x0⟩]⟩,
  ⟨"TL_ARR_SKIP_COUNT", 0x053C, 0, 1, false, [⟨31, 0, .ro, 0x0⟩]⟩,
  ⟨"TL_ARR_CSPASS_COUNT", 0x0540, 0, 1, false, [⟨31, 0, .ro, 0x0⟩]⟩,
  ⟨"TL_ARR_CSUNCHK_COUNT", 0x0544, 0, 1, false, [⟨31, 0, .ro, 0x0⟩]⟩,
  ⟨"TL_ARR_CSFAIL", 0x0548, 0, 1, true, [⟨63, 32, .ro, 0x0⟩, ⟨31, 16, .ro, 0x0⟩, ⟨15, 15, .ro, 0x0⟩, ⟨5, 0, .ro, 0x0⟩]⟩,
  ⟨"TL_ARR_CLEAR", 0x0550, 0, 1, false, [⟨6, 6, .wo, 0x0⟩, ⟨5, 5, .wo, 0x0⟩, ⟨4, 4, .wo, 0x0⟩, ⟨3, 3, .wo, 0x0⟩, ⟨2, 2, .wo, 0x0⟩, ⟨1, 1, .wo, 0x0⟩, ⟨0, 0, .wo, 0x0⟩]⟩,
  ⟨"TL_QNT_CHAN_CTL", 0x0600, 0, 1, false, [⟨0, 0, .rw, 0x0⟩]⟩,
  ⟨"TL_QNT_CONST_COUNT", 0x0604, 0, 1, false, [⟨31, 0, .ro, 0x0⟩]⟩,
  ⟨"TL_QNT_CLEAR", 0x0608, 0, 1, false, [⟨17, 17, .wo, 0x0⟩, ⟨16, 16, .wo, 0x0⟩, ⟨15, 0, .wo, 0x0⟩]⟩,
  ⟨"TL_QNT_CH_SCALE", 0x0800, 4, 64, false, [⟨31, 0, .rw, 0x3F800000⟩]⟩,
  ⟨"TL_QNT_CH_BIAS", 0x0900, 4, 64, false, [⟨31, 0, .rw, 0x0⟩]⟩,
  ⟨"TL_QNT_CH_ZERO", 0x0A00, 4, 64, false, [⟨7, 0, .rw, 0x0⟩]⟩]

def tileRegs1 : List RegDesc := [
  ⟨"TL_QNT_CH_RSCALE", 0x0B00, 4, 64, false, [⟨31, 0, .ro, 0x3F800000⟩]⟩,
  ⟨"TL_QNT_CH_RBIAS", 0x0C00, 4, 64, false, [⟨31, 0, .ro, 0x0⟩]⟩,
  ⟨"TL_QNT_CH_MIN", 0x0D00, 4, 64, false, [⟨31, 0, .ro, 0x7F800000⟩]⟩,
  ⟨"TL_QNT_CH_MAX", 0x0E00, 4, 64, false, [⟨31, 0, .ro, 0xFF800000⟩]⟩,
  ⟨"TL_QNT_SLOT_CTL", 0x0F00, 16, 16, false, [⟨31, 24, .rw, 0x0⟩, ⟨23, 20, .rw, 0x1⟩, ⟨19, 16, .rw, 0x0⟩, ⟨13, 12, .rw, 0x0⟩, ⟨11, 10, .rw, 0x0⟩, ⟨9, 9, .rw, 0x0⟩, ⟨0, 0, .rw, 0x0⟩]⟩,
  ⟨"TL_QNT_SLOT_SAT", 0x0F04, 16, 16, false, [⟨31, 0, .ro, 0x0⟩]⟩,
  ⟨"TL_QNT_SLOT_UNDER", 0x0F08, 16, 16, false, [⟨31, 0, .ro, 0x0⟩]⟩,
  ⟨"TL_QNT_SLOT_AMAX", 0x0F0C, 16, 16, false, [⟨31, 24, .ro, 0x0⟩, ⟨23, 0, .ro, 0x0⟩]⟩,
  ⟨"TL_KN_STATUS", 0x1000, 0, 1, false, [⟨31, 16, .ro, 0x0⟩, ⟨7, 7, .ro, 0x0⟩, ⟨6, 6, .ro, 0x0⟩, ⟨5, 5, .ro, 0x0⟩, ⟨4, 1, .ro, 0x0⟩, ⟨0, 0, .ro, 0x0⟩]⟩,
  ⟨"TL_KN_COUNT", 0x1010, 4, 11, false, [⟨31, 0, .ro, 0x0⟩]⟩,
  ⟨"TL_KN_FIRST", 0x1040, 0, 1, true, [⟨63, 48, .ro, 0x0⟩, ⟨47, 32, .ro, 0x0⟩, ⟨31, 31, .ro, 0x0⟩, ⟨23, 0, .ro, 0x0⟩]⟩,
  ⟨"TL_KN_CLEAR", 0x1048, 0, 1, false, [⟨11, 11, .wo, 0x0⟩, ⟨10, 0, .wo, 0x0⟩]⟩,
  ⟨"TL_BANK_OWN", 0x1100, 4, 4, false, [⟨8, 8, .ro, 0x0⟩, ⟨2, 0, .rw, 0x6⟩]⟩,
  ⟨"TL_BANK_SUMMARY", 0x1110, 0, 1, false, [⟨11, 8, .ro, 0x0⟩, ⟨7, 4, .ro, 0xF⟩, ⟨3, 0, .ro, 0x0⟩]⟩,
  ⟨"TL_BANK_COUNT", 0x1120, 4, 16, false, [⟨31, 0, .ro, 0x0⟩]⟩,
  ⟨"TL_BANK_ECCFIRST", 0x1160, 0, 1, true, [⟨63, 48, .ro, 0x0⟩, ⟨32, 32, .ro, 0x0⟩, ⟨31, 30, .ro, 0x0⟩, ⟨29, 17, .ro, 0x0⟩, ⟨16, 14, .ro, 0x0⟩, ⟨13, 7, .ro, 0x0⟩, ⟨6, 6, .ro, 0x0⟩]⟩,
  ⟨"TL_BANK_CLEAR", 0x1168, 0, 1, false, [⟨16, 16, .wo, 0x0⟩, ⟨15, 0, .wo, 0x0⟩]⟩,
  ⟨"TL_DMA_STATUS", 0x1200, 0, 1, false, [⟨31, 16, .ro, 0x0⟩, ⟨12, 8, .ro, 0x0⟩, ⟨2, 2, .ro, 0x0⟩, ⟨1, 1, .ro, 0x0⟩, ⟨0, 0, .ro, 0x0⟩]⟩,
  ⟨"TL_DMA_COUNT", 0x1210, 4, 8, false, [⟨31, 0, .ro, 0x0⟩]⟩,
  ⟨"TL_DMA_FIRST", 0x1240, 0, 1, true, [⟨63, 48, .ro, 0x0⟩, ⟨47, 32, .ro, 0x0⟩, ⟨31, 31, .ro, 0x0⟩, ⟨7, 0, .ro, 0x0⟩]⟩,
  ⟨"TL_DMA_CLEAR", 0x1248, 0, 1, false, [⟨8, 8, .wo, 0x0⟩, ⟨7, 0, .wo, 0x0⟩]⟩,
  ⟨"TL_TRN_COUNT", 0x1300, 4, 4, false, [⟨31, 0, .ro, 0x0⟩]⟩,
  ⟨"TL_TRN_CLEAR", 0x1320, 0, 1, false, [⟨3, 0, .wo, 0x0⟩]⟩,
  ⟨"TL_DYN_COUNT", 0x1400, 4, 7, false, [⟨31, 0, .ro, 0x0⟩]⟩,
  ⟨"TL_DYN_FIRST", 0x1420, 0, 1, true, [⟨63, 48, .ro, 0x0⟩, ⟨47, 32, .ro, 0x0⟩, ⟨31, 31, .ro, 0x0⟩, ⟨15, 0, .ro, 0x0⟩]⟩]

def tileRegs2 : List RegDesc := [
  ⟨"TL_DYN_CLEAR", 0x1428, 0, 1, false, [⟨7, 7, .wo, 0x0⟩, ⟨6, 0, .wo, 0x0⟩]⟩,
  ⟨"TL_RED_COUNT", 0x1500, 4, 6, false, [⟨31, 0, .ro, 0x0⟩]⟩,
  ⟨"TL_RED_CLEAR", 0x1520, 0, 1, false, [⟨5, 0, .wo, 0x0⟩]⟩]

/-- The register maps of the tile window. -/
def tileRegs : List RegDesc := tileRegs0 ++ tileRegs1 ++ tileRegs2

def dieRegs0 : List RegDesc := [
  ⟨"DIE_ROW_REPAIR", 0x1000, 4, 16, false, [⟨9, 9, .rw, 0x0⟩, ⟨8, 8, .ro, 0x0⟩, ⟨4, 0, .rw, 0x1F⟩]⟩,
  ⟨"DIE_REPAIR_STATUS", 0x1040, 0, 1, false, [⟨31, 16, .ro, 0x0⟩, ⟨3, 0, .ro, 0x0⟩]⟩,
  ⟨"DIE_LIST_STATUS", 0x1100, 4, 64, false, [⟨31, 16, .ro, 0x0⟩, ⟨15, 8, .ro, 0x0⟩, ⟨2, 2, .ro, 0x0⟩, ⟨1, 1, .ro, 0x0⟩, ⟨0, 0, .ro, 0x0⟩]⟩,
  ⟨"DIE_NET_COUNT", 0x1200, 4, 10, false, [⟨31, 0, .ro, 0x0⟩]⟩,
  ⟨"DIE_NET_ECCFIRST", 0x1240, 0, 1, true, [⟨63, 48, .ro, 0x0⟩, ⟨32, 32, .ro, 0x0⟩, ⟨31, 27, .ro, 0x0⟩, ⟨26, 23, .ro, 0x0⟩, ⟨22, 19, .ro, 0x0⟩, ⟨18, 17, .ro, 0x0⟩, ⟨16, 8, .ro, 0x0⟩]⟩,
  ⟨"DIE_NET_CLEAR", 0x1248, 0, 1, false, [⟨10, 10, .wo, 0x0⟩, ⟨9, 0, .wo, 0x0⟩]⟩,
  ⟨"DIE_STK_STATUS", 0x1400, 0, 1, true, [⟨63, 56, .ro, 0x0⟩, ⟨55, 48, .ro, 0x0⟩, ⟨39, 0, .ro, 0x0⟩]⟩,
  ⟨"DIE_STK_COUNT", 0x1410, 4, 8, false, [⟨31, 0, .ro, 0x0⟩]⟩,
  ⟨"DIE_STK_FRAME_SEL", 0x1430, 0, 1, false, [⟨11, 0, .rw, 0x0⟩]⟩,
  ⟨"DIE_STK_FRAME", 0x1434, 0, 1, false, [⟨7, 7, .ro, 0x0⟩, ⟨6, 6, .ro, 0x0⟩, ⟨5, 4, .ro, 0x0⟩, ⟨2, 0, .ro, 0x0⟩]⟩,
  ⟨"DIE_STK_CLEAR", 0x1438, 0, 1, false, [⟨7, 0, .wo, 0x0⟩]⟩,
  ⟨"DIE_TRN_NORM", 0x1800, 4, 256, false, [⟨31, 0, .ro, 0x0⟩]⟩]

/-- The register maps of the die window. -/
def dieRegs : List RegDesc := dieRegs0

def globRegs0 : List RegDesc := [
  ⟨"NET_MOVE_CTL", 0x2000, 0, 1, false, [⟨4, 0, .ro, 0x0⟩]⟩,
  ⟨"NET_MOVE_NUMBER", 0x2008, 0, 1, true, [⟨63, 0, .ro, 0x0⟩]⟩,
  ⟨"NET_MOVE_OFFSET", 0x2010, 0, 1, false, [⟨31, 31, .ro, 0x0⟩, ⟨23, 0, .ro, 0x0⟩]⟩,
  ⟨"NET_HOLD_TOTAL", 0x2018, 0, 1, true, [⟨63, 0, .ro, 0x0⟩]⟩,
  ⟨"NET_HOLD_CAUSE", 0x2020, 8, 5, true, [⟨63, 0, .ro, 0x0⟩]⟩,
  ⟨"NET_HOLD_MOVES", 0x2048, 0, 1, true, [⟨63, 0, .ro, 0x0⟩]⟩,
  ⟨"NET_HOLD_LONGEST", 0x2050, 0, 1, true, [⟨63, 0, .ro, 0x0⟩]⟩,
  ⟨"NET_HOLD_LONGEST_MOVE", 0x2058, 0, 1, true, [⟨63, 0, .ro, 0x0⟩]⟩,
  ⟨"NET_HOLD_LIMIT", 0x2060, 0, 1, false, [⟨31, 0, .rw, 0x1000⟩]⟩,
  ⟨"NET_HOLD_CLEAR", 0x2068, 0, 1, false, [⟨7, 7, .wo, 0x0⟩, ⟨6, 6, .wo, 0x0⟩, ⟨5, 5, .wo, 0x0⟩, ⟨4, 0, .wo, 0x0⟩]⟩,
  ⟨"NET_JOB_STATE", 0x2100, 0, 1, false, [⟨19, 16, .ro, 0x0⟩, ⟨10, 8, .ro, 0x0⟩, ⟨2, 0, .ro, 0x0⟩]⟩,
  ⟨"NET_IMG_ID", 0x2108, 0, 1, true, [⟨63, 0, .ro, 0x0⟩]⟩,
  ⟨"NET_IMG_REJECT", 0x2110, 0, 1, true, [⟨63, 48, .ro, 0x0⟩, ⟨47, 32, .ro, 0x0⟩, ⟨31, 31, .ro, 0x0⟩, ⟨30, 28, .ro, 0x0⟩, ⟨23, 0, .ro, 0x0⟩]⟩,
  ⟨"NET_IMG_REJECT_WHERE", 0x2118, 0, 1, false, [⟨31, 24, .ro, 0x0⟩, ⟨17, 16, .ro, 0x0⟩, ⟨15, 12, .ro, 0x0⟩, ⟨11, 8, .ro, 0x0⟩, ⟨0, 0, .ro, 0x0⟩]⟩,
  ⟨"NET_IMG_SIZE", 0x2120, 0, 1, true, [⟨63, 0, .ro, 0x0⟩]⟩,
  ⟨"NET_STEP_LIMIT", 0x2128, 0, 1, true, [⟨63, 0, .rw, 0x0⟩]⟩,
  ⟨"NET_STEP_NUMBER", 0x2130, 0, 1, true, [⟨63, 0, .ro, 0x0⟩]⟩,
  ⟨"NET_STEP_MOVES", 0x2138, 0, 1, false, [⟨31, 0, .ro, 0x0⟩]⟩,
  ⟨"NET_SCALE_TICK", 0x213C, 0, 1, false, [⟨31, 0, .ro, 0xFFFFFFFF⟩]⟩,
  ⟨"NET_IMG_CAPS", 0x2140, 0, 1, true, [⟨63, 48, .ro, 0x100⟩, ⟨47, 32, .ro, 0x1000⟩, ⟨31, 16, .ro, 0x2000⟩]⟩,
  ⟨"HBM_MAP_INFO", 0x300000, 0, 1, true, [⟨63, 56, .ro, 0x10⟩, ⟨55, 48, .ro, 0x0⟩, ⟨39, 0, .ro, 0x0⟩]⟩,
  ⟨"HBM_CASTLE_SIZE", 0x300010, 4, 4, false, [⟨15, 0, .rw, 0x0⟩]⟩,
  ⟨"HBM_SCRUB_STATUS", 0x300020, 0, 1, false, [⟨1, 1, .ro, 0x0⟩, ⟨0, 0, .rw, 0x1⟩]⟩,
  ⟨"HBM_OWN_INDEX", 0x330000, 0, 1, false, [⟨20, 0, .rw, 0x0⟩]⟩,
  ⟨"HBM_OWN_DATA", 0x330008, 0, 1, true, [⟨63, 0, .rw, 0x0⟩]⟩]

def globRegs1 : List RegDesc := [
  ⟨"HBM_OWN_CMD", 0x330010, 0, 1, false, [⟨31, 16, .ro, 0x0⟩, ⟨2, 2, .ro, 0x0⟩, ⟨1, 1, .wo, 0x0⟩, ⟨0, 0, .wo, 0x0⟩]⟩,
  ⟨"HBM_OWN_COUNT", 0x330020, 4, 12, false, [⟨31, 0, .ro, 0x0⟩]⟩,
  ⟨"HBM_OWN_CLEAR", 0x330060, 0, 1, false, [⟨11, 0, .wo, 0x0⟩]⟩,
  ⟨"NET_LOSS_CTL", 0x2200, 0, 1, false, [⟨31, 16, .rw, 0x7D0⟩, ⟨7, 0, .rw, 0x10⟩]⟩,
  ⟨"NET_LOSS_CLEAN", 0x2204, 0, 1, false, [⟨15, 0, .rw, 0x0⟩]⟩,
  ⟨"NET_VOTE_STATUS", 0x2208, 0, 1, false, [⟨13, 8, .ro, 0x0⟩, ⟨1, 1, .ro, 0x0⟩, ⟨0, 0, .ro, 0x0⟩]⟩,
  ⟨"NET_VOTE_FIRST", 0x2210, 0, 1, true, [⟨63, 24, .ro, 0x0⟩, ⟨23, 14, .ro, 0x0⟩, ⟨0, 0, .ro, 0x0⟩]⟩,
  ⟨"NET_VOTE_FIRST_TENSOR", 0x2218, 0, 1, true, [⟨63, 32, .ro, 0x0⟩, ⟨31, 0, .ro, 0x0⟩]⟩,
  ⟨"NET_TRN_UPDATES", 0x2220, 0, 1, true, [⟨63, 0, .rw, 0x0⟩]⟩,
  ⟨"NET_TRN_COUNT", 0x2230, 4, 6, false, [⟨31, 0, .ro, 0x0⟩]⟩,
  ⟨"NET_TRN_CLEAR", 0x2250, 0, 1, false, [⟨6, 6, .wo, 0x0⟩, ⟨5, 0, .wo, 0x0⟩]⟩,
  ⟨"NET_EXP_RUN", 0x2400, 0, 1, false, [⟨3, 0, .rw, 0x0⟩]⟩,
  ⟨"NET_EXP_SEL", 0x2404, 0, 1, false, [⟨5, 0, .rw, 0x0⟩]⟩,
  ⟨"NET_EXP_STATUS", 0x2408, 0, 1, false, [⟨31, 24, .ro, 0x0⟩, ⟨5, 5, .ro, 0x0⟩, ⟨4, 4, .ro, 0x0⟩, ⟨3, 3, .ro, 0x0⟩, ⟨2, 2, .ro, 0x0⟩, ⟨1, 1, .ro, 0x0⟩, ⟨0, 0, .ro, 0x0⟩]⟩,
  ⟨"NET_EXP_COUNT", 0x2410, 4, 8, false, [⟨31, 0, .ro, 0x0⟩]⟩,
  ⟨"NET_EXP_CLEAR", 0x2430, 0, 1, false, [⟨8, 8, .wo, 0x0⟩, ⟨7, 0, .wo, 0x0⟩]⟩,
  ⟨"NET_EXP_DROP", 0x2800, 4, 256, false, [⟨31, 0, .ro, 0x0⟩]⟩,
  ⟨"NET_DEC_STATUS", 0x2C00, 8, 64, true, [⟨63, 32, .ro, 0x0⟩, ⟨4, 4, .ro, 0x0⟩, ⟨3, 3, .ro, 0x0⟩, ⟨2, 2, .ro, 0x0⟩, ⟨1, 1, .ro, 0x0⟩, ⟨0, 0, .ro, 0x0⟩]⟩,
  ⟨"NET_DEC_COUNT", 0x2E00, 4, 2, false, [⟨31, 0, .ro, 0x0⟩]⟩,
  ⟨"NET_DEC_CLEAR", 0x2E10, 0, 1, false, [⟨1, 0, .wo, 0x0⟩]⟩,
  ⟨"FRK_ADDR", 0x200000, 0, 1, false, [⟨31, 31, .rw, 0x0⟩, ⟨19, 0, .rw, 0x0⟩]⟩,
  ⟨"FRK_AXES", 0x200004, 0, 1, false, [⟨31, 24, .rw, 0x1⟩, ⟨23, 16, .rw, 0x1⟩, ⟨15, 8, .rw, 0x1⟩, ⟨7, 0, .rw, 0x1⟩]⟩,
  ⟨"FRK_UID", 0x200008, 0, 1, true, [⟨63, 0, .ro, 0x0⟩]⟩,
  ⟨"FRK_XPORT_CTL", 0x200010, 0, 1, false, [⟨31, 24, .rw, 0x0⟩, ⟨23, 16, .rw, 0x10⟩, ⟨15, 0, .rw, 0x64⟩]⟩,
  ⟨"FRK_XPORT_STATUS", 0x200014, 0, 1, false, [⟨31, 16, .ro, 0x0⟩, ⟨13, 0, .ro, 0x0⟩]⟩]

def globRegs2 : List RegDesc := [
  ⟨"FRK_ROUTE_INDEX", 0x200020, 0, 1, false, [⟨15, 0, .rw, 0x0⟩]⟩,
  ⟨"FRK_ROUTE_DATA", 0x200028, 0, 1, true, [⟨63, 0, .rw, 0x0⟩]⟩,
  ⟨"FRK_ROUTE_CMD", 0x200030, 0, 1, false, [⟨2, 2, .ro, 0x0⟩, ⟨1, 1, .wo, 0x0⟩, ⟨0, 0, .wo, 0x0⟩]⟩,
  ⟨"FRK_CONN_SEL", 0x200040, 0, 1, false, [⟨12, 0, .rw, 0x0⟩]⟩,
  ⟨"FRK_CONN_STATE", 0x200048, 0, 1, true, [⟨63, 32, .ro, 0x0⟩, ⟨31, 0, .ro, 0x0⟩]⟩,
  ⟨"FRK_CONN_INFO", 0x200050, 0, 1, true, [⟨63, 48, .ro, 0x0⟩, ⟨47, 32, .ro, 0x0⟩, ⟨31, 31, .ro, 0x0⟩, ⟨21, 20, .ro, 0x0⟩, ⟨19, 0, .ro, 0x0⟩]⟩,
  ⟨"FRK_MSG_COUNT", 0x200080, 8, 12, true, [⟨63, 0, .ro, 0x0⟩]⟩,
  ⟨"FRK_MSG_FIRST", 0x2000E0, 0, 1, true, [⟨63, 48, .ro, 0x0⟩, ⟨47, 40, .ro, 0x0⟩, ⟨32, 32, .ro, 0x0⟩, ⟨19, 0, .ro, 0x0⟩]⟩,
  ⟨"FRK_MSG_CLEAR", 0x2000E8, 0, 1, false, [⟨12, 12, .wo, 0x0⟩, ⟨11, 0, .wo, 0x0⟩]⟩,
  ⟨"FRK_COLL_SEL", 0x220000, 0, 1, false, [⟨7, 0, .rw, 0x0⟩]⟩,
  ⟨"FRK_COLL_STATUS", 0x220004, 0, 1, false, [⟨31, 24, .ro, 0x0⟩, ⟨3, 3, .ro, 0x0⟩, ⟨2, 2, .ro, 0x0⟩, ⟨1, 1, .ro, 0x0⟩, ⟨0, 0, .ro, 0x0⟩]⟩,
  ⟨"FRK_COLL_COUNT", 0x220010, 8, 6, true, [⟨63, 0, .ro, 0x0⟩]⟩,
  ⟨"FRK_COLL_CLEAR", 0x220040, 0, 1, false, [⟨5, 0, .wo, 0x0⟩]⟩,
  ⟨"NET_LAYOUT", 0x3000, 0, 1, false, [⟨19, 17, .ro, 0x0⟩, ⟨16, 16, .ro, 0x0⟩, ⟨15, 8, .ro, 0x0⟩, ⟨7, 0, .ro, 0x0⟩]⟩,
  ⟨"NET_RESHARD_STATUS", 0x3008, 0, 1, true, [⟨63, 48, .ro, 0x0⟩, ⟨47, 40, .ro, 0x0⟩, ⟨31, 0, .ro, 0x0⟩]⟩,
  ⟨"NET_EXCH_COUNT", 0x3010, 4, 4, false, [⟨31, 0, .ro, 0x0⟩]⟩,
  ⟨"NET_EXCH_CLEAR", 0x3020, 0, 1, false, [⟨3, 0, .wo, 0x0⟩]⟩,
  ⟨"NET_RES_STATUS", 0x3400, 0, 1, false, [⟨31, 16, .ro, 0x0⟩, ⟨0, 0, .ro, 0x0⟩]⟩,
  ⟨"NET_RES_LAST", 0x3408, 0, 1, true, [⟨63, 48, .ro, 0x0⟩, ⟨47, 46, .ro, 0x0⟩, ⟨45, 44, .ro, 0x0⟩, ⟨43, 40, .ro, 0x0⟩, ⟨39, 35, .ro, 0x0⟩, ⟨31, 31, .ro, 0x0⟩, ⟨23, 0, .ro, 0x0⟩]⟩,
  ⟨"NET_RES_COUNT", 0x3410, 4, 8, false, [⟨31, 0, .ro, 0x0⟩]⟩,
  ⟨"NET_RES_CLEAR", 0x3430, 0, 1, false, [⟨8, 8, .wo, 0x0⟩, ⟨7, 0, .wo, 0x0⟩]⟩,
  ⟨"NET_REPAIR_INDEX", 0x3440, 0, 1, false, [⟨31, 16, .ro, 0x0⟩, ⟨11, 0, .rw, 0x0⟩]⟩,
  ⟨"NET_REPAIR_DATA", 0x3448, 8, 2, true, [⟨63, 0, .ro, 0x0⟩]⟩,
  ⟨"NET_REPAIR_CMD", 0x3458, 0, 1, false, [⟨31, 16, .ro, 0x0⟩, ⟨2, 2, .ro, 0x0⟩, ⟨1, 1, .wo, 0x0⟩, ⟨0, 0, .wo, 0x0⟩]⟩,
  ⟨"NET_SNAP_CTL", 0x3480, 0, 1, false, [⟨15, 0, .rw, 0x0⟩]⟩]

def globRegs3 : List RegDesc := [
  ⟨"NET_SNAP_STATUS", 0x3488, 0, 1, true, [⟨63, 32, .ro, 0x0⟩, ⟨3, 3, .ro, 0x0⟩, ⟨2, 2, .ro, 0x0⟩, ⟨1, 1, .ro, 0x0⟩, ⟨0, 0, .ro, 0x0⟩]⟩,
  ⟨"NET_SNAP_SLOT", 0x3490, 8, 5, true, [⟨63, 32, .ro, 0x0⟩, ⟨0, 0, .ro, 0x0⟩]⟩,
  ⟨"NET_SNAP_STORED", 0x34B8, 0, 1, true, [⟨63, 32, .rw, 0x0⟩, ⟨0, 0, .rw, 0x0⟩]⟩,
  ⟨"NET_SNAP_HOLD", 0x34C0, 0, 1, true, [⟨63, 0, .ro, 0x0⟩]⟩,
  ⟨"NET_SNAP_CMD", 0x34C8, 0, 1, false, [⟨1, 1, .wo, 0x0⟩, ⟨0, 0, .wo, 0x0⟩]⟩,
  ⟨"HQ_ID", 0x0000, 0, 1, true, [⟨63, 48, .ro, 0x4⟩, ⟨47, 40, .ro, 0xB0⟩, ⟨39, 32, .ro, 0x0⟩, ⟨31, 24, .ro, 0x1⟩, ⟨23, 16, .ro, 0x0⟩]⟩,
  ⟨"HQ_CAPS", 0x0008, 0, 1, true, [⟨63, 48, .ro, 0x400⟩, ⟨47, 32, .ro, 0x514⟩, ⟨31, 16, .ro, 0x320⟩, ⟨15, 8, .ro, 0x40⟩]⟩,
  ⟨"HQ_DEV_STATUS", 0x0010, 0, 1, false, [⟨31, 24, .ro, 0x0⟩, ⟨23, 16, .ro, 0x0⟩, ⟨7, 4, .ro, 0x0⟩, ⟨2, 2, .ro, 0x0⟩, ⟨1, 1, .ro, 0x0⟩, ⟨0, 0, .ro, 0x0⟩]⟩,
  ⟨"HQ_RESET", 0x0014, 0, 1, false, [⟨2, 2, .wo, 0x0⟩, ⟨1, 1, .wo, 0x0⟩]⟩,
  ⟨"HQ_INT_CTL", 0x0018, 0, 1, false, [⟨18, 16, .rw, 0x4⟩, ⟨15, 9, .rw, 0x0⟩, ⟨8, 0, .rw, 0x0⟩]⟩,
  ⟨"HQ_INT_CAUSE", 0x001C, 0, 1, false, [⟨6, 0, .w1c, 0x0⟩]⟩,
  ⟨"HQ_ERR_COUNT", 0x0020, 4, 6, false, [⟨31, 0, .ro, 0x0⟩]⟩,
  ⟨"HQ_ERR_CLEAR", 0x0040, 0, 1, false, [⟨5, 0, .wo, 0x0⟩]⟩,
  ⟨"HQ_SQ_BASE", 0x100000, 64, 64, true, [⟨63, 6, .rw, 0x0⟩]⟩,
  ⟨"HQ_CQ_BASE", 0x101000, 64, 64, true, [⟨63, 6, .rw, 0x0⟩]⟩,
  ⟨"HQ_SQ_CTL", 0x100008, 64, 64, false, [⟨21, 16, .rw, 0x0⟩, ⟨12, 8, .rw, 0x4⟩, ⟨0, 0, .rw, 0x0⟩]⟩,
  ⟨"HQ_SQ_STATUS", 0x10000C, 64, 64, false, [⟨31, 16, .ro, 0x0⟩, ⟨0, 0, .ro, 0x0⟩]⟩,
  ⟨"HQ_SQ_SEQ", 0x100010, 64, 64, false, [⟨31, 0, .rw, 0x0⟩]⟩,
  ⟨"HQ_CQ_CTL", 0x101008, 64, 64, false, [⟨24, 16, .rw, 0x0⟩, ⟨12, 8, .rw, 0x4⟩, ⟨1, 1, .rw, 0x0⟩, ⟨0, 0, .rw, 0x0⟩]⟩,
  ⟨"HQ_CQ_STATUS", 0x10100C, 64, 64, false, [⟨31, 16, .ro, 0x0⟩, ⟨0, 0, .ro, 0x1⟩]⟩,
  ⟨"HQ_SQ_TAIL", 0x110000, 8, 64, false, [⟨15, 0, .rw, 0x0⟩]⟩,
  ⟨"HQ_CQ_HEAD", 0x110400, 8, 64, false, [⟨15, 0, .rw, 0x0⟩]⟩,
  ⟨"MGT_UID", 0x400000, 0, 1, true, [⟨63, 0, .ro, 0x0⟩]⟩,
  ⟨"MGT_TIME", 0x400008, 0, 1, true, [⟨63, 0, .rw, 0x0⟩]⟩,
  ⟨"MGT_TIME_STATUS", 0x400010, 0, 1, false, [⟨0, 0, .ro, 0x0⟩]⟩]

def globRegs4 : List RegDesc := [
  ⟨"MGT_FW_STATUS", 0x400020, 8, 2, true, [⟨63, 56, .ro, 0x0⟩, ⟨55, 48, .ro, 0x0⟩, ⟨47, 32, .ro, 0x100⟩, ⟨31, 16, .ro, 0x0⟩, ⟨15, 15, .ro, 0x1⟩, ⟨11, 8, .ro, 0x0⟩, ⟨7, 4, .ro, 0x4⟩, ⟨0, 0, .ro, 0x0⟩]⟩,
  ⟨"MGT_MBOX_CTL", 0x400100, 0, 1, false, [⟨31, 16, .ro, 0x0⟩, ⟨2, 2, .ro, 0x0⟩, ⟨1, 1, .w1c, 0x0⟩, ⟨0, 0, .w1s, 0x0⟩]⟩,
  ⟨"EVT_CTL", 0x400200, 0, 1, false, [⟨10, 8, .rw, 0x4⟩, ⟨0, 0, .rw, 0x0⟩]⟩,
  ⟨"EVT_SEL", 0x400208, 0, 1, true, [⟨63, 0, .rw, 0x0⟩]⟩,
  ⟨"EVT_HEAD", 0x400210, 0, 1, true, [⟨63, 0, .ro, 0x0⟩]⟩,
  ⟨"EVT_READ_STATUS", 0x400218, 0, 1, false, [⟨1, 1, .ro, 0x0⟩, ⟨0, 0, .ro, 0x0⟩]⟩,
  ⟨"EVT_REC", 0x400240, 8, 8, true, [⟨63, 0, .ro, 0x0⟩]⟩,
  ⟨"EVT_COUNT", 0x400280, 4, 5, false, [⟨31, 0, .ro, 0x0⟩]⟩,
  ⟨"EVT_CLEAR", 0x4002A0, 0, 1, false, [⟨4, 0, .wo, 0x0⟩]⟩,
  ⟨"MTR_ID", 0x500000, 0, 1, true, [⟨63, 0, .ro, 0x0⟩]⟩,
  ⟨"MTR_ENERGY", 0x500008, 0, 1, true, [⟨63, 0, .ro, 0x0⟩]⟩,
  ⟨"MTR_POWER", 0x500010, 0, 1, false, [⟨31, 0, .ro, 0x0⟩]⟩,
  ⟨"MTR_STATUS", 0x500014, 0, 1, false, [⟨4, 4, .ro, 0x0⟩, ⟨3, 3, .ro, 0x0⟩, ⟨2, 2, .ro, 0x0⟩, ⟨1, 1, .ro, 0x0⟩, ⟨0, 0, .ro, 0x1⟩]⟩,
  ⟨"MTR_PASSES", 0x500018, 0, 1, true, [⟨63, 0, .ro, 0x0⟩]⟩,
  ⟨"MTR_STEPS", 0x500020, 0, 1, true, [⟨63, 0, .ro, 0x0⟩]⟩,
  ⟨"MTR_UPDATES", 0x500028, 0, 1, true, [⟨63, 0, .ro, 0x0⟩]⟩,
  ⟨"MGT_PWR_CTL", 0x400300, 0, 1, false, [⟨27, 24, .rw, 0xA⟩, ⟨11, 0, .rw, 0xC80⟩]⟩,
  ⟨"MGT_PWR_STATUS", 0x400308, 0, 1, true, [⟨63, 48, .ro, 0x0⟩, ⟨47, 32, .ro, 0x0⟩, ⟨31, 28, .ro, 0xA⟩, ⟨22, 16, .ro, 0x0⟩, ⟨7, 0, .ro, 0x0⟩]⟩,
  ⟨"MGT_TEMP", 0x400310, 4, 23, false, [⟨31, 31, .ro, 0x0⟩, ⟨15, 0, .ro, 0x0⟩]⟩,
  ⟨"MGT_FLOW", 0x400370, 0, 1, false, [⟨31, 31, .ro, 0x0⟩, ⟨15, 0, .ro, 0x0⟩]⟩,
  ⟨"MGT_PWR_COUNT", 0x400380, 4, 8, false, [⟨31, 0, .ro, 0x0⟩]⟩,
  ⟨"MGT_PWR_CLEAR", 0x4003A0, 0, 1, false, [⟨7, 0, .wo, 0x0⟩]⟩]

/-- The register maps of the glob window. -/
def globRegs : List RegDesc := globRegs0 ++ globRegs1 ++ globRegs2 ++ globRegs3 ++ globRegs4

def hbmRegs0 : List RegDesc := [
  ⟨"HBM_STATUS", 0x0000, 0, 1, false, [⟨31, 24, .ro, 0x0⟩, ⟨9, 9, .ro, 0x0⟩, ⟨8, 8, .ro, 0x0⟩, ⟨2, 0, .ro, 0x0⟩]⟩,
  ⟨"HBM_COUNT", 0x0010, 4, 7, false, [⟨31, 0, .ro, 0x0⟩]⟩,
  ⟨"HBM_ECC_FIRST", 0x0040, 0, 1, true, [⟨63, 48, .ro, 0x0⟩, ⟨47, 42, .ro, 0x0⟩, ⟨41, 38, .ro, 0x0⟩, ⟨37, 20, .ro, 0x0⟩, ⟨19, 16, .ro, 0x0⟩, ⟨15, 9, .ro, 0x0⟩, ⟨8, 8, .ro, 0x0⟩, ⟨7, 7, .ro, 0x0⟩]⟩,
  ⟨"HBM_REPAIR", 0x0050, 0, 1, true, [⟨63, 48, .ro, 0x0⟩, ⟨47, 39, .ro, 0x0⟩, ⟨38, 38, .ro, 0x0⟩, ⟨37, 37, .ro, 0x0⟩, ⟨34, 34, .rw, 0x0⟩, ⟨32, 32, .wo, 0x0⟩, ⟨31, 26, .rw, 0x0⟩, ⟨25, 22, .rw, 0x0⟩, ⟨21, 4, .rw, 0x0⟩]⟩,
  ⟨"HBM_CLEAR", 0x0060, 0, 1, false, [⟨7, 7, .wo, 0x0⟩, ⟨6, 0, .wo, 0x0⟩]⟩]

/-- The register maps of the hbm window. -/
def hbmRegs : List RegDesc := hbmRegs0

def petRegs0 : List RegDesc := [
  ⟨"PET_STATUS", 0x0000, 0, 1, false, [⟨31, 24, .ro, 0x0⟩, ⟨11, 8, .ro, 0x0⟩, ⟨1, 1, .ro, 0x1⟩, ⟨0, 0, .ro, 0x0⟩]⟩,
  ⟨"PET_COUNT", 0x0010, 4, 12, false, [⟨31, 0, .ro, 0x0⟩]⟩,
  ⟨"PET_FIRST", 0x0040, 0, 1, true, [⟨63, 48, .ro, 0x0⟩, ⟨47, 38, .ro, 0x0⟩, ⟨37, 37, .ro, 0x0⟩, ⟨31, 31, .ro, 0x0⟩, ⟨23, 0, .ro, 0x0⟩]⟩,
  ⟨"PET_CLEAR", 0x0048, 0, 1, false, [⟨12, 12, .wo, 0x0⟩, ⟨11, 0, .wo, 0x0⟩]⟩]

/-- The register maps of the pet window. -/
def petRegs : List RegDesc := petRegs0

def portRegs0 : List RegDesc := [
  ⟨"FRK_PORT_CTL", 0x0000, 0, 1, false, [⟨8, 8, .wo, 0x0⟩, ⟨1, 1, .rw, 0x1⟩, ⟨0, 0, .rw, 0x1⟩]⟩,
  ⟨"FRK_PORT_STATUS", 0x0004, 0, 1, false, [⟨31, 16, .ro, 0x0⟩, ⟨15, 8, .ro, 0x0⟩, ⟨7, 6, .ro, 0x0⟩, ⟨2, 0, .ro, 0x1⟩]⟩,
  ⟨"FRK_PORT_PEER_UID", 0x0008, 0, 1, true, [⟨63, 0, .ro, 0x0⟩]⟩,
  ⟨"FRK_PORT_PEER", 0x0010, 0, 1, false, [⟨31, 31, .ro, 0x0⟩, ⟨30, 30, .ro, 0x0⟩, ⟨29, 27, .ro, 0x0⟩, ⟨19, 0, .ro, 0x0⟩]⟩,
  ⟨"FRK_PORT_COUNT", 0x0040, 8, 10, true, [⟨63, 0, .ro, 0x0⟩]⟩,
  ⟨"FRK_PORT_CLEAR", 0x00A0, 0, 1, false, [⟨9, 0, .wo, 0x0⟩]⟩]

/-- The register maps of the port window. -/
def portRegs : List RegDesc := portRegs0

/-- The row of a table that holds offset `off`. -/
def RegDesc.at (d : RegDesc) (off : Nat) : Bool :=
  decide (d.off ≤ off) && (if d.count == 1 then off == d.off
    else (off - d.off) % d.stride == 0 && decide ((off - d.off) / d.stride < d.count))

/-- The value of a register with every field at its reset value. -/
def RegDesc.resetValue (d : RegDesc) : Nat := d.fields.foldl (fun v f => v + f.reset * 2 ^ f.lo) 0

/-- The register map that governs a key. -/
def Reg.desc (k : Nat) : Option RegDesc :=
  if 0x11100000 ≤ k then none
  else if 0x10000000 ≤ k then tileRegs.find? (fun d => d.at ((k - 0x10000000) % 0x4000))
  else if 0x02000000 ≤ k then dieRegs.find? (fun d => d.at ((k - 0x02000000) % 0x00800000))
  else if 0x00320000 ≤ k && k < 0x00330000 then petRegs.find? (fun d => d.at (k % 0x1000))
  else if 0x00310000 ≤ k && k < 0x00320000 then hbmRegs.find? (fun d => d.at (k % 0x1000))
  else if 0x00210000 ≤ k && k < 0x00218000 then portRegs.find? (fun d => d.at (k % 0x1000))
  else globRegs.find? (fun d => d.at k)

/-- What a register that nothing has written since its reset holds. -/
def Reg.reset (k : Nat) : W64 :=
  match Reg.desc k with
  | some d => W64.of d.resetValue
  | none => 0

end Sys2Proof.Machine
end

