-- ==== Sys2Proof/Machine/State.lean ====
section
/-! DEFINITION. The state of the ZT4 as a block: the queue of waiting commands, every register of the register maps (a sparse
table), every memory, and the state of the units that no register map shows. Plain data throughout. -/

namespace Sys2Proof.Machine

/-- Reasons for which the machine would stop with a fault. No rule of the spec stops the device on a command: accesses it
does not allow are discarded, refused with a code, or handled as errors of the job, all of them next states. The one reason
listed is raised by nothing; it is safe. -/
inductive Fault where
  /-- Raised by nothing: the spec gives every command of the table an effect. Safe. -/
  | none
  deriving DecidableEq, Repr

/-- Reasons for which a command is refused by the model. -/
inductive Refusal where
  /-- Raised by an arm of exec whose command has no meaning yet. Safe: the model stops. -/
  | notModelled (mnemonic : String)
  deriving DecidableEq, Repr

/-! ### The tile (chapters 03 to 06, 10 to 12) -/

/-- What an accumulator set carries from move to move (R88, R91, R103): the mode it was last written in (0 none, 1 plain MMA,
2 compensated MMA, 3 DIST_ABS, 4 DIST_SQ, 5 MINPLUS), the held N, whether it is mixed, and its speculative mark. -/
structure AccSet where
  mode : Nat
  heldN : Nat
  mixed : Bool
  spec : Bool
  deriving DecidableEq, Repr

def AccSet.reset : AccSet := ⟨0, 0, false, false⟩

/-- One of the five metadata latches of R157: code, OP_INDEX and POSITION of the first offence of its code in the move, and the cycle in
which it was detected. -/
structure Latch where
  cycle : Nat
  code : Nat
  opIndex : Nat
  position : Nat
  deriving DecidableEq, Repr

/-- An open DMA transfer (R25, R301, R302): its word, the moves of issue and due, its direction, the checked descriptors, and
how far it has come. -/
structure DmaXfer where
  opIndex : Nat
  issue : Nat
  due : Nat
  /-- true for DMA_OUT -/
  out : Bool
  /-- line address and line count of the landing slot -/
  landLine : Nat
  landLines : Nat
  /-- the 128-byte descriptors of the chain, as read in the issue phase -/
  descs : List (List Byte)
  /-- the data has landed (DMA_IN), or every source byte has been read (DMA_OUT) -/
  landed : Bool
  /-- memory has acknowledged the last write (DMA_OUT) -/
  acked : Bool
  /-- the bytes that a DMA_OUT has read and memory has not acknowledged yet, by device address, in the order of their writes -/
  data : List (Nat × Byte)
  deriving DecidableEq, Repr

/-- A row on its way through the scheduled network: its route, its 128 bytes and its FIN bit (R184, R185). -/
structure NetRow where
  route : Nat
  bytes : List Byte
  fin : Bool
  deriving DecidableEq, Repr

/-- A row on a link: the logical position of the router it reaches, the input port and the cycle of its arrival there (R191). -/
structure Wire where
  router : Nat
  port : Nat
  cycle : Nat
  row : NetRow
  deriving DecidableEq, Repr

/-- A SEND or RECV under way (R238): its route, first line, rows and rows done, the format FIN is set from. -/
structure NetOpen where
  route : Nat
  line : Nat
  rows : Nat
  done : Nat
  fmt : Nat
  opIndex : Nat
  deriving DecidableEq, Repr

/-- A row in a return buffer (R204, R363): the list of its item, the tile-local byte address at the list's owner that it goes to,
and its bytes; a header row goes to no address. -/
structure RetRow where
  list : Nat
  addr : Nat
  bytes : List Byte
  header : Bool
  deriving DecidableEq, Repr

/-- A work item as it lies in an item queue: its 16 bytes and the list it came from (R149, R202, R361). -/
structure Item where
  list : Nat
  bytes : List Byte
  deriving DecidableEq, Repr

/-- An item that waits for the tile's PUBLISH slots: the cycle of the present move in which it was published, its list, its 16 bytes
(R148, R201). -/
structure PubItem where
  ready : Nat
  list : Nat
  bytes : List Byte
  deriving DecidableEq, Repr

/-- A CLAIM or PUBLISH row that a tile has presented and that has not reached its keeper: KIND, entry and slot it left in, its list, its items
(R200 to R202). -/
structure SentRow where
  kind : Nat
  entry : Nat
  slot : Nat
  list : Nat
  items : List (List Byte)
  deriving DecidableEq, Repr

/-- The dynamic window that a CLAIM opened (R238): its list, its offset and length, the record its items run under and the
engine that runs them; the move of the CLAIM. -/
structure Window where
  list : Nat
  start : Nat
  len : Nat
  param : Nat
  engine : Nat
  move : Nat
  deriving DecidableEq, Repr

/-- An operation of the present move that a unit of a tile has started: the unit (0 array, 1 drain, 2 Knight engine, 3 vector engine, 4
DMA issue port), whether it is a premove operation, whether a claimed item, OP_INDEX, its mode as the unit's status register gives it, its first cycle, the first cycle of its passes, its nominal last
cycle, its guard, rows and cycles per row of a DRAIN; the edge cycles of what its two feeder streams have lost, or in the first list the
cycles that a DRAIN's writes, or another unit's accesses, have lost (R93 to R96, R139, R172, R301). -/
structure OpRun where
  unit : Nat
  pre : Bool
  dyn : Bool
  opIndex : Nat
  mode : Nat
  first : Nat
  passes : Nat
  last : Nat
  guard : Nat
  rows : Nat
  beat : Nat
  lostA : List Nat
  lostB : List Nat
  deriving DecidableEq, Repr

/-- A handover of the present move (R168): the cycle of its BANK_GIVE, the bank, the state the bank leaves, and whether it was waking. -/
structure Give where
  cycle : Nat
  bank : Nat
  old : Nat
  waking : Bool
  deriving DecidableEq, Repr

/-- The hidden state of one physical tile. -/
structure TileState where
  /-- accumulators, key set × 4096 + m × 64 + n (R75) -/
  acc : Sparse W32
  /-- checksum pairs, key set × 64 + m: cs in the low half, abs_cs in the high half (R100) -/
  cs : Sparse W64
  set0 : AccSet
  set1 : AccSet
  /-- both copies of the stationary registers, key copy × 4096 + n × 64 + k (R76), as FP32 patterns -/
  stat : Sparse W32
  /-- merge buffers, key buffer × 4096 + m × 64 + n (R130), and their speculative marks (R159) -/
  buf : Sparse W32
  bufSpec0 : Bool
  bufSpec1 : Bool
  latches : List Latch
  shadowLatches : List Latch
  /-- exact AMAX of the tensor scale slots, FP32 magnitudes (R124), and their shadow copies -/
  amax : Sparse W32
  shadowAmax : Sparse W32
  /-- rotating-priority pointers: bank b read port at b, write port at 4 + b (R171, R172) -/
  ptr : Sparse Nat
  /-- operations of the move that have lost more cycles than their guard and whose report is due (R96, R139, R301) -/
  lateArray : Nat
  lateKnight : Nat
  lateDma : Nat
  /-- the operations the units have started in the present move, oldest first, and its handovers (R95, R168) -/
  ops : List OpRun
  gives : List Give
  /-- OP_INDEX of the next word the sequencer starts in the present move (R230) -/
  next : Nat
  dma : List DmaXfer
  /-- SENDs and RECVs of the present move, in the order they started (R238) -/
  sends : List NetOpen
  recvs : List NetOpen
  window : Option Window
  /-- OP_INDEX of the DYNAMIC Knight word that claimed items run under (R151) -/
  dynOp : Nat
  /-- items that wait for the tile's PUBLISH slots, oldest first (R148, R201) -/
  publish : List PubItem
  items : List Item
  /-- items the tile has requested and not yet received (R202) -/
  requested : Nat
  /-- the claim and PUBLISH slots of the move before this cycle have been gone through, and the rows that are on their way (R189, R201) -/
  shown : Nat
  sent : List SentRow
  /-- rows a dynamic operation left for the RETURN slots, oldest first (R204) -/
  returns : List RetRow
  /-- by list × 2: the place of the next item in its item queue's region; + 1: of the next row in its return buffer's (R202, R204) -/
  rings : Sparse Nat
  /-- array passes of the present move, and those of its premove (R512) -/
  passes : Nat
  specPasses : Nat
  deriving DecidableEq, Repr

/-- A tile after power-on, after every reset that reaches it, and on entry to EMPTY (R35, R104, R160, R303). -/
def TileState.reset : TileState where
  acc := []
  cs := []
  set0 := .reset
  set1 := .reset
  stat := []
  buf := []
  bufSpec0 := false
  bufSpec1 := false
  latches := []
  shadowLatches := []
  amax := []
  shadowAmax := []
  ptr := []
  lateArray := 0
  lateKnight := 0
  lateDma := 0
  ops := []
  gives := []
  next := 0
  dma := []
  sends := []
  recvs := []
  window := none
  dynOp := 0
  publish := []
  items := []
  requested := 0
  shown := 0
  sent := []
  returns := []
  rings := []
  passes := 0
  specPasses := 0

/-! ### The job (chapters 01 and 08) -/

/-- A selected section of the held image (R214, R215): its place in the section table, its type, plan and scope, its bytes. -/
structure Section where
  index : Nat
  typ : Nat
  plan : Nat
  die : Nat
  y : Nat
  x : Nat
  content : List Byte
  deriving DecidableEq, Repr

/-- The held image: what phase 5 of a load writes into sequencer stores, slot tables, constants and lists (R242). -/
structure Image where
  jobId : Nat
  moveExp : Nat
  size : Nat
  axes : Nat
  sections : List Section
  deriving DecidableEq, Repr

/-- A unit that reported an uncorrectable error and waits for, or undergoes, its self-test (R439 to R442). -/
structure TestJob where
  code : Nat
  die : Nat
  y : Nat
  physX : Nat
  location : Nat
  running : Bool
  /-- the record of this error is the one NET_RES_LAST holds -/
  first : Bool
  deriving DecidableEq, Repr

/-- Control state of the job that no register shows. -/
structure JobState where
  image : Option Image
  /-- an uncorrectable error was reported in the present move (R40) -/
  err : Bool
  /-- the last stop was one of R40: no start until a RESTORE or a load (R40) -/
  mustRestore : Bool
  /-- stops that wait for their tick (R36): driver, power manager, D3hot -/
  stopDriver : Bool
  stopPower : Bool
  stopD3 : Bool
  /-- held cycles of the present move (R29), those held against each cause, and what failed in the last of them (R206): the bitmap of
  causes, and the lowest tile (tile number, die) for SEQUENCER, SOURCE and WORK -/
  held : Nat
  heldBy : List Nat
  failed : Nat
  failTiles : List (Option (Nat × Nat))
  tests : List TestJob
  /-- the scale tick (R124) and the loss-scale update (R326) of the present move have been carried out -/
  scaleDone : Bool
  lossDone : Bool
  deriving DecidableEq, Repr

def JobState.reset : JobState := ⟨none, false, false, false, false, false, 0, [], 0, [], [], false, false⟩

/-! ### Events and interrupts (R481, R505 to R509) -/

/-- A record with its continuation records, kept or dropped together (R506): severity and the 64-byte records. -/
structure EvtGroup where
  sev : Nat
  seq : Nat
  records : List (List Byte)
  deriving DecidableEq, Repr

/-! ### Training support (chapter 11) -/

/-- The first non-finite element of a WEIGHT_GRAD drain in the present move (R324): the cycle it was met in, its tile, its position in the
drain's output, TENSOR, the element offset, and whether NET_VOTE_FIRST shows it. -/
structure GradFirst where
  cycle : Nat
  tile : Nat
  pos : Nat
  tensor : Nat
  offset : Nat
  shown : Bool
  deriving DecidableEq, Repr

/-- The finite vote and clipping of the present step (R322 to R327). -/
structure Training where
  /-- causes 0 to 3 of R322 that have occurred in the step -/
  causes : Nat
  /-- the device has formed its contribution and norms -/
  formed : Bool
  /-- the first non-finite element of the step has been recorded (R324) -/
  firstDone : Bool
  /-- the first one so far in the present move -/
  first : Option GradFirst
  /-- the lowest slot index that had saturated at the formation (R125) -/
  satSlot : Option Nat
  /-- the totals N_g, FP32 by group, once the exchange has landed (R323) -/
  totals : Sparse W32
  /-- the factors f_g by group, and the bias corrections by optimiser record (ĉ1 in the low half), once a true vote has landed (R327, R330) -/
  factors : Sparse W32
  corrs : Sparse W64
  deriving DecidableEq, Repr

def Training.reset : Training := ⟨0, false, false, none, none, [], [], []⟩

/-- One die's exact accumulator of a clip group's squared norm (R328): m × 2^e, or infinite, or NaN. -/
structure ExactSum where
  kind : Nat
  m : Nat
  e : Int
  deriving DecidableEq, Repr

def ExactSum.zero : ExactSum := ⟨0, 0, 0⟩

/-- A stack frame's state (R314): 0 EMPTY, 1 PUSHING, 2 RESIDENT, 3 OFFLOADING, 4 HOSTED, 5 PREFETCHING, 6 POPPING; whether a
push or pop of it has waited; whether its push and its pop have begun in the present step. -/
structure Frame where
  st : Nat
  waited : Bool
  pushed : Bool
  popped : Bool
  deriving DecidableEq, Repr

def Frame.reset : Frame := ⟨0, false, false, false⟩

/-- A record in flash (R508): its SEQ, the severity of its group, its 64 bytes. -/
structure EvtRec where
  seq : Nat
  sev : Nat
  bytes : List Byte
  deriving DecidableEq, Repr

/-- A written block of the flash partition (R508): its records in order, and how many of them were copied forward. -/
structure EvtBlock where
  records : List EvtRec
  copied : Nat
  deriving DecidableEq, Repr

/-- The event recorder (R505 to R508): its queue of 4,096 entries on the I/O die, the next SEQ, the records dropped since the
last report, and the written blocks of the flash partition, oldest first, the head block last. -/
structure Recorder where
  queue : List EvtGroup
  nextSeq : Nat
  dropped : Nat
  blocks : List EvtBlock
  deriving DecidableEq, Repr

def Recorder.reset : Recorder := ⟨[], 0, 0, []⟩

/-- What the device has sent out of the block, oldest first (the model's own trace of its outputs). -/
inductive Sent where
  /-- an MSI-X vector (R481, R477) -/
  | msix (vector : Nat)
  /-- a flit on a Frakel port (R372, R373): the bytes that each of its lanes carries -/
  | flit (port : Nat) (lanes : List (Nat × List Byte))
  /-- an MCTP message (R488) -/
  | mctp (bytes : List Byte)
  /-- the completion of a BAR2 read (R471) -/
  | bar2 (bytes : List Byte)
  /-- an error reported in AER (R466): 0 Poisoned TLP Received, 1 Completion Timeout, 2 another completion fault -/
  | aer (error : Nat)
  /-- Device Readiness Status and Function Readiness Status (R465) -/
  | drs
  | frs
  /-- MOD_READY changes (R522) -/
  | modReady (on : Bool)
  /-- THERMTRIP# changes (R522); true: asserted -/
  | thermtrip (on : Bool)
  deriving DecidableEq, Repr

/-- The place of a corrected error that its unit re-tests (R443): kind 0 a tile bank (unit: physical tile, place: line × 8 +
word), 1 an HBM atom (unit: stack, place: atom), 2 a router input (unit: physical tile, place: port). -/
structure Retest where
  kind : Nat
  unit : Nat
  place : Nat
  deriving DecidableEq, Repr

/-- A registered host region (R472): bus address and bytes; no bytes, not registered. -/
structure HostRegion where
  base : Nat
  bytes : Nat
  deriving DecidableEq, Repr

def HostRegion.none : HostRegion := ⟨0, 0⟩

/-- A remapped row of HBM (R260). -/
structure Remap where
  stack : Nat
  pc : Nat
  bank : Nat
  row : Nat
  deriving DecidableEq, Repr

/-- One copy of the repair record in flash (R447): its generation, its 16-byte entries, whether its CRC is valid. -/
structure RepairCopy where
  generation : Nat
  entries : List (List Byte)
  valid : Bool
  deriving DecidableEq, Repr

/-- A Petal command on its way (R261, R264): its 64 bytes; the issuing tile with the transfer and descriptor that carry it, or
the host with the ring and sequence number of its command; where its bags go or its rows come from; the rows read; its result;
and how far it has come: 0 at the dispatcher, 1 queued at its units, 2 carried out. -/
structure PetalCmd where
  cmd : List Byte
  host : Bool
  tile : Nat
  opIndex : Nat
  issue : Nat
  desc : Nat
  out : Bool
  due : Nat
  ring : Nat
  seq : Nat
  dest : Nat
  bytes : Nat
  rows : List Byte
  result : List Byte
  stage : Nat
  deriving DecidableEq, Repr

/-- A command taken from a submission ring (R478): its SEQ, the head after it was taken, its result once it has ended, and the
heads of the repeats that wait for it. -/
structure Taken where
  seq : Nat
  head : Nat
  result : Option (Nat × Nat × Nat)
  repeats : List Nat
  deriving DecidableEq, Repr

/-- A completion that is due (R477). -/
structure Completion where
  ring : Nat
  seq : Nat
  status : Nat
  again : Bool
  head : Nat
  result0 : Nat
  result1 : Nat
  deriving DecidableEq, Repr

/-- A work list in its keeper (R199): open, dealt since the last open, its items oldest first. -/
structure ListState where
  isOpen : Bool
  dealt : Bool
  items : List (List Byte)
  deriving DecidableEq, Repr

def ListState.reset : ListState := ⟨false, false, []⟩

/-- A GRANT or DEAL row on its way to a tile (R201, R203): the cycle of its arrival, the tile, the list, the status of a GRANT (3 for a
DEAL), its items. -/
structure GrantRow where
  due : Nat
  tile : Nat
  list : Nat
  status : Nat
  items : List (List Byte)
  deriving DecidableEq, Repr

/-- A sequenced flit in a replay buffer (R376): its SEQ, how often it has been resent (R380), and its first 248 bytes. -/
structure FlitRec where
  seq : Nat
  resent : Nat
  bytes : List Byte
  deriving DecidableEq, Repr

/-- A message that waits at an output port (R383): whether this device is its source, virtual channel, class, the payloads of its flits not
yet sent, and whether its first flit has been sent. -/
structure OutFlits where
  own : Bool
  vc : Nat
  cls : Nat
  rest : List (List Byte)
  started : Bool
  deriving DecidableEq, Repr

/-- The link-layer state of a Frakel port (R376 to R387). -/
structure PortState where
  /-- the port waits one second after a failed training -/
  retry : Bool
  /-- the training under way is a retrain, and the retrains that have failed in succession -/
  retraining : Bool
  fails : Nat
  /-- the receiver has accepted a sequenced flit; its next expected SEQ; the SEQ it has sent a NACK for; the frames it has seen -/
  accepted : Bool
  rxNext : Nat
  nack : Option Nat
  /-- next SEQ to assign; sequenced flits not covered by an ACK, oldest first; the next of them to resend, if any -/
  txNext : Nat
  replay : List FlitRec
  resend : Option Nat
  /-- LINK flits that wait: their bytes from byte 4 on -/
  linkQ : List (List Byte)
  /-- the fields of the peer's last IDENT -/
  ident : List Byte
  /-- slot of the frame, frame number, a marker that waits -/
  slot : Nat
  frame : Nat
  marker : Bool
  /-- by buffer (virtual channel × 4 + class): flits the peer has freed, flits sent into it, flits freed here; all mod 4,096 -/
  peerFreed : Sparse Nat
  used : Sparse Nat
  freed : Sparse Nat
  queue : List OutFlits
  /-- the last message finished on REDUCE or BULK was one of BULK -/
  lastBulk : Bool
  /-- messages under assembly, by buffer -/
  parts : Sparse (List Byte)
  deriving DecidableEq, Repr

def PortState.reset : PortState where
  retry := false
  retraining := false
  fails := 0
  accepted := false
  rxNext := 0
  nack := none
  txNext := 0
  replay := []
  resend := none
  linkQ := []
  ident := []
  slot := 0
  frame := 0
  marker := false
  peerFreed := []
  used := []
  freed := []
  queue := []
  lastBulk := false
  parts := []

/-- A message that has arrived whole (R393): the port and buffer it came through (port 8: sent by this device to itself), the flits
it took, its bytes. -/
structure NetMsg where
  port : Nat
  vc : Nat
  cls : Nat
  flits : Nat
  bytes : List Byte
  deriving DecidableEq, Repr

/-- A message on a connection (R393, R397): SEQ once sent, type, address, TAG, payload. -/
structure OutMsg where
  seq : Nat
  typ : Nat
  addr : Nat
  tag : Nat
  payload : List Byte
  deriving DecidableEq, Repr

/-- The state of a connection (R397, R398). -/
structure ConnState where
  /-- next SEQ; sent and not acknowledged; held for window and credit, oldest first -/
  next : Nat
  unacked : List OutMsg
  held : List OutMsg
  /-- credits spent, and credits the peer has returned -/
  spent : Nat
  returned : Nat
  /-- resends without progress -/
  retries : Nat
  /-- receiver: NEXT; SEQs above it received; credits returned to the peer; messages without an ACK; an ACK due at once -/
  recvNext : Nat
  recvBits : List Nat
  freed : Nat
  pendingAck : Nat
  ackNow : Bool
  deriving DecidableEq, Repr

def ConnState.reset : ConnState where
  next := 0
  unacked := []
  held := []
  spent := 0
  returned := 0
  retries := 0
  recvNext := 0
  recvBits := []
  freed := 0
  pendingAck := 0
  ackNow := false

/-- An exchange under way (R427): 0 the vote, d + 1 the sum of decision domain d; its step; the axis of its stage, 4 once it has
landed; whether this device has sent its partial in the stage; whether every VOTE received had its bit 1; the partial. -/
structure Exchange where
  kind : Nat
  step : Nat
  axis : Nat
  sent : Bool
  others : Bool
  bit : Bool
  sums : Sparse Nat
  norms : Sparse W32
  deriving DecidableEq, Repr

/-- An accepted re-shard (R429 to R431): its target step, new epoch and barrier; its entries (tensor, table index, new entry); the
phase, 0 before phase 1; the axis of the barrier stage and whether this device has sent its messages in it; the pieces of staged
units that have landed, by address. -/
structure Reshard where
  target : Nat
  epoch : Nat
  barrier : Nat
  entries : List (Nat × Nat × Nat)
  phase : Nat
  axis : Nat
  sent : Bool
  landed : List Nat
  deriving DecidableEq, Repr

/-- A collective in the present step (R420, R421): the staging copy made, the stages sent, and the blocks landed by stage. -/
structure CollState where
  copied : Bool
  stages : Nat
  landed : Sparse Nat
  deriving DecidableEq, Repr

def CollState.reset : CollState := ⟨false, 0, []⟩

/-- The header of a queue or answer region that has been taken (R350, R352): whether there is one, who sent it, its GEN, the rows kept of it,
and its COUNT. -/
structure RegionHead where
  known : Bool
  src : Nat
  gen : Nat
  count : Nat
  raw : Nat
  deriving DecidableEq, Repr

def RegionHead.none : RegionHead := ⟨false, 0, 0, 0, 0⟩

/-- Rows of a region that came in a message of their own: who sent it, its address and bytes (R348, R351). -/
structure RowPiece where
  src : Nat
  addr : Nat
  bytes : List Byte
  deriving DecidableEq, Repr

/-- One side of an expert layer's landings, the queues of owned experts or the answers of remote ones (R350, R352): the headers taken, by
region; the bytes of rows that have landed of each; pieces that wait for the headers that say whose rows they are; addresses of pieces
discarded since they went past what is kept; the headers dropped, as sender, base and COUNT. -/
structure Landings where
  heads : Sparse RegionHead
  landed : Sparse Nat
  pieces : List RowPiece
  beyond : List Nat
  dropped : List (Nat × Nat × Nat)
  deriving DecidableEq, Repr

def Landings.reset : Landings := ⟨[], [], [], [], []⟩

/-- An expert layer in the present batch (R346 to R354): the generation of its last dispatch; dispatched, returned and combined in
this step; the accepted choices (expert, slot, token, choice); the queues, by expert × 4,096 + source; the answers, by expert. -/
structure LayerState where
  gen : Nat
  dispatched : Bool
  returned : Bool
  combined : Bool
  slots : List (Nat × Nat × Nat × Nat)
  queues : Landings
  answers : Landings
  deriving DecidableEq, Repr

def LayerState.reset : LayerState := ⟨0, false, false, false, [], .reset, .reset⟩

/-- The snapshot engine beside its registers (R452, R453): NOW has been written since the last snapshot; a snapshot is due at the tick
that ended the last move; the step it secures. -/
structure Snap where
  now : Bool
  due : Bool
  step : Nat
  deriving DecidableEq, Repr

def Snap.reset : Snap := ⟨false, false, 0⟩

/-- A job-control command that waits or runs, in the order in which they were taken (R479): its ring, SEQ and 64 bytes, and whether
it has begun. -/
structure JobCmd where
  ring : Nat
  seq : Nat
  bytes : List Byte
  begun : Bool
  deriving DecidableEq, Repr

/-- A MEMCOPY or FLASH_READ under way (R479). -/
structure CopyCmd where
  flash : Bool
  ring : Nat
  seq : Nat
  bytes : List Byte
  deriving DecidableEq, Repr

/-- A firmware slot (R493, R494): 0 EMPTY, 1 STAGING, 2 STAGED, 3 TRIAL, 4 CONFIRMED, 5 REJECTED, 6 RETIRED, 7 INVALID; the length
of its image and its bytes; `factory`: written at manufacture, when the device holds only its header here (log entry 26). -/
structure FwSlot where
  st : Nat
  factory : Bool
  bytes : Nat
  image : Mem
  deriving DecidableEq, Repr

def FwSlot.empty : FwSlot := ⟨0, false, 0, []⟩

/-- A firmware component (R494 to R498): its slots, the active one (1: slot B), the floor, whether the active firmware's self-test has
passed, and the starts of a TRIAL slot. -/
structure FwComp where
  slotA : FwSlot
  slotB : FwSlot
  active : Nat
  floor : Nat
  selftest : Bool
  starts : Nat
  deriving DecidableEq, Repr

/-- The slot a component leaves manufacture with: version 1.0, settings format 1 (log entry 26). -/
def FwSlot.made (component : Nat) : FwSlot where
  st := 4
  factory := true
  bytes := 6400
  image := (List.zip [0, 1, 2, 3, 4, 5, 6, 7] [0x4E, 0x41, 0x52, 0x46, 0x57, 0x49, 0x4D, 0x47])
    ++ (if component = 1 then [(8, 1)] else []) ++ [(11, 1), (13, 1), (14, 1), (16, 64), (24, 4), (26, 0xB0)]

def FwComp.made (component : Nat) : FwComp := ⟨FwSlot.made component, .empty, 0, 0, true, 0⟩

/-- A record of the settings store (R499). -/
structure CfgRec where
  key : Nat
  format : Nat
  delete : Bool
  seq : Nat
  value : List Byte
  /-- its CRC holds; it is obsolete (R502) -/
  good : Bool
  obsolete : Bool
  deriving DecidableEq, Repr

/-- A half of the settings store (R499). -/
structure CfgHalf where
  valid : Bool
  generation : Nat
  records : List CfgRec
  deriving DecidableEq, Repr

/-- Who sent a management request (R488): MCTP or the mailbox, with its TAG. -/
structure MgmtPath where
  mctp : Bool
  tag : Nat
  command : Nat
  deriving DecidableEq, Repr

/-- The management controller (R487 to R504): standby power and the controller run; MOD_READY; the requester of a service pause, the
component it activates and whether it follows a fall-back; the mailbox buffer and the request it holds; the endpoint ID; the open
firmware session (component, bytes); the settings store; the highest settings SEQ; whether the module clock has ever been started;
the owner's clock-validity; whether the MCLK check fails; the registers of its range as a service pause found them (R495). -/
structure Mgmt where
  running : Bool
  modReady : Bool
  pause : Option (Nat × Option MgmtPath)
  frozen : Sparse W64
  mboxBuf : Mem
  mboxBusy : Bool
  eid : Nat
  fw0 : FwComp
  fw1 : FwComp
  session : Option (Nat × Nat)
  half0 : CfgHalf
  half1 : CfgHalf
  cfgSeq : Nat
  mclkBad : Bool
  fclkBad : Bool
  deriving DecidableEq, Repr

def Mgmt.reset : Mgmt where
  running := false
  modReady := false
  pause := none
  frozen := []
  mboxBuf := []
  mboxBusy := false
  eid := 0
  fw0 := FwComp.made 0
  fw1 := FwComp.made 1
  session := none
  half0 := ⟨true, 0, []⟩
  half1 := ⟨false, 0, []⟩
  cfgSeq := 0
  mclkBad := false
  fclkBad := false

/-- The metering chip and the work counts sent to it (R510 to R514): the counts of the I/O die since it last started, its run number;
the run and counts of the last message accepted, READING_SEQ, METER_SECONDS, input out of range in this second, seconds since the
last record of 0x0C02, energy below 1 mJ in pJ, MTR_ENERGY at the start of the second, and its log. -/
structure Meter where
  run : Nat
  passes : Nat
  steps : Nat
  updates : Nat
  lastRun : Nat
  lastPasses : Nat
  lastSteps : Nat
  lastUpdates : Nat
  readingSeq : Nat
  seconds : Nat
  range : Bool
  rangeWait : Nat
  picojoules : Nat
  secondStart : Nat
  log : List (Nat × Nat)
  deriving DecidableEq, Repr

def Meter.reset : Meter := ⟨0, 0, 0, 0, 0, 0, 0, 0, 0, 0, false, 0, 0, 0, []⟩

/-- The power manager (R525 to R531): whether the dies, I/O die and HBM have power; the targets of its loops as levels; FAST's count of
milliseconds and its stage (0 counting, 1 lowered once, 2 at 0.8 GHz, 3 stopped); seconds the 1 s mean has stood low; stop conditions
that stand (bit 0 voltage, 1 FAST, 2 thermal, 3 coolant); seconds since each trip of the last 24 h; power is off after an input fault,
after a trip, and stays off until the input has been removed (R531); samples of 10 ms with less than 1.0 L/min, and since the last
rise of THERMAL; the sensors whose warning, throttle and stop thresholds stand (bit i sensor i of MGT_TEMP, bit 23 the flow). -/
structure Power where
  on : Bool
  peak : Nat
  fast : Nat
  slow : Nat
  thermal : Nat
  coolant : Nat
  voltage : Nat
  fastMs : Nat
  fastStage : Nat
  lowSeconds : Nat
  stops : Nat
  trips : List Nat
  faulted : Bool
  tripped : Bool
  locked : Bool
  lowFlow : Nat
  cool : Nat
  warn : Nat
  throttle : Nat
  stopAt : Nat
  deriving DecidableEq, Repr

def Power.reset : Power := ⟨false, 10, 10, 10, 10, 10, 10, 0, 0, 0, 0, [], false, false, false, 0, 0, 0, 0, 0⟩

/-- The whole state. -/
structure State where
  /-- commands that wait, first in, first out -/
  pending : List Instr
  /-- true for a ZT4-0768-LQ (R2) -/
  small : Bool
  /-- the model's counter of free values used (log entry 2) -/
  freeCtr : Nat
  /-- every register, by its key -/
  regs : Sparse W64
  /-- events counted since the last report, by the key of their counter (R537) -/
  rises : Sparse Nat
  /-- shadow copies of counters and first records of premove operations (R70) -/
  shadow : Sparse Nat
  shadowFirst : Sparse W64
  /-- first records made in the present move: when each was met, as twice the offset, plus 1 for the vector engine (R69, R324) -/
  firstAt : Sparse Nat
  /-- the banks: byte address p × 2^21 + tile-local address; and the valid bits: line p × 2^15 + line address (R163, R178) -/
  sram : Mem
  lineValid : Sparse Bool
  tiles : Sparse TileState
  job : JobState
  retests : List Retest
  training : Training
  /-- exact norm accumulators, key die × 256 + group -/
  normAcc : Sparse ExactSum
  /-- survivors counted in the present move for each decision domain (R358) -/
  domSums : Sparse Nat
  /-- activation-stack frames, key die × 4096 + frame -/
  frames : Sparse Frame
  recorder : Recorder
  /-- HBM by device address (R251); the four owner-table copies, castle and image regions lie in it -/
  hbm : Mem
  /-- host memory by bus address, as the driver and the device wrote it -/
  hostMem : Mem
  /-- registered host regions by index (R472) -/
  regions : Sparse HostRegion
  /-- HBM rows redirected to the remap area -/
  remaps : List Remap
  /-- staged owner-table writes that lookups see, oldest first, and those presented in the present move (R276) -/
  staging : List (Nat × W64)
  /-- owner-table writes presented in the present move -/
  stagedNew : List (Nat × W64)
  /-- owner caches, key die × 4096 + set: entry indices, most recently used first (R276) -/
  ownerCache : Sparse (List Nat)
  /-- the repair record in flash: the copy written last, and the other (R447) -/
  repair0 : RepairCopy
  /-- the older copy of the repair record -/
  repair1 : RepairCopy
  /-- repair entries accepted but not yet durable (R445) -/
  repairsDue : List (List Byte)
  /-- Petal commands between the dispatcher and their last atom, oldest first (R261) -/
  petals : List PetalCmd
  /-- the last 256 executed commands of each submission ring, newest first (R478) -/
  taken : Sparse (List Taken)
  /-- completions that are due, in the order in which commands ended (R475, R477) -/
  completions : List Completion
  /-- rows on the links of the scheduled network -/
  wires : List Wire
  /-- work lists, key die × 64 + list -/
  lists : Sparse ListState
  /-- GRANT and DEAL rows on their way to tiles -/
  grants : List GrantRow
  /-- slots of the present move that have been used (R190): router, entry, slot -/
  slotsUsed : List (Nat × Nat × Nat)
  /-- by die: the row its keeper served last in the present move, 4 × cycle + port + 1 (R201) -/
  served : Sparse Nat
  /-- Frakel ports -/
  ports : Sparse PortState
  /-- messages that have arrived, oldest first -/
  arrived : List NetMsg
  /-- the routing table (R390) -/
  routes : Sparse W64
  /-- connections by index (R396) -/
  conns : Sparse ConnState
  /-- the exchange under way (R427) -/
  exch : Option Exchange
  /-- VOTE messages not yet processed, by source, in order of arrival (R428) -/
  votes : List (Nat × List Byte)
  /-- BARRIER messages not yet processed: source, BARRIER_ID, ROUND -/
  barriers : List (Nat × Nat × Nat)
  /-- the accepted re-shard (R431) -/
  reshard : Option Reshard
  /-- collectives by COLL (R419) -/
  colls : Sparse CollState
  /-- expert layers by LAYER (R343) -/
  layers : Sparse LayerState
  /-- the snapshot engine (R452) -/
  snap : Snap
  /-- the flash slots: slot × 2^41 + offset (R457) -/
  flash : Mem
  /-- job-control commands taken and not ended, oldest first (R479) -/
  jobCmds : List JobCmd
  /-- MEMCOPY and FLASH_READ commands under way (R479) -/
  copies : List CopyCmd
  /-- the HBM stacks have been trained and filled since power came (R278) -/
  trained : Bool
  /-- the function is in D3hot (R467) -/
  d3 : Bool
  /-- the management controller (R487) -/
  mgmt : Mgmt
  /-- the metering chip and its link (R510) -/
  meter : Meter
  /-- the power manager (R526) -/
  power : Power
  /-- the MSI-X table and pending bits, by byte from 0x0012_0000 (R465) -/
  msix : Mem
  /-- commands taken from rings that wait for READY: PETAL and MEMCOPY (R483 step 4) -/
  heldCmds : List JobCmd
  /-- lines that hold what a unit of the tile computed after an uncorrectable error of the present move (R40), by line key -/
  late : Sparse Bool
  sent : List Sent
  deriving DecidableEq, Repr

def State.reset : State where
  pending := []
  small := false
  freeCtr := 0
  regs := []
  rises := []
  shadow := []
  shadowFirst := []
  firstAt := []
  sram := []
  lineValid := []
  tiles := []
  job := .reset
  retests := []
  training := .reset
  normAcc := []
  domSums := []
  frames := []
  recorder := .reset
  hbm := []
  hostMem := []
  regions := []
  remaps := []
  staging := []
  stagedNew := []
  ownerCache := []
  repair0 := ⟨0, [], true⟩
  repair1 := ⟨0, [], true⟩
  repairsDue := []
  petals := []
  taken := []
  completions := []
  wires := []
  lists := []
  grants := []
  slotsUsed := []
  served := []
  ports := []
  arrived := []
  routes := []
  conns := []
  exch := none
  votes := []
  barriers := []
  reshard := none
  colls := []
  layers := []
  snap := .reset
  flash := []
  jobCmds := []
  copies := []
  trained := false
  d3 := false
  mgmt := .reset
  meter := .reset
  power := .reset
  msix := []
  heldCmds := []
  late := []
  sent := []

end Sys2Proof.Machine
end

