-- ==== Sys2Proof/Machine/Ops.lean ====
section
/-! DEFINITION. The named operations over registers, counters, memories and tiles that every meaning is written with. -/

namespace Sys2Proof.Machine

/-! ### Registers -/

/-- The stored value of a register. -/
def State.reg (s : State) (k : Nat) : Nat := (Sparse.get Reg.reset s.regs k).toNat

/-- Stores a register. -/
def State.setReg (s : State) (k v : Nat) : State :=
  { s with regs := Sparse.set Reg.reset s.regs k (W64.of v) }

/-- The field [hi:lo] of a register. -/
def State.fld (s : State) (k hi lo : Nat) : Nat := bits (s.reg k) hi lo

/-- Writes the field [hi:lo] of a register. -/
def State.setFld (s : State) (k hi lo v : Nat) : State := s.setReg k (setBits (s.reg k) hi lo v)

/-- Returns every register whose key `p` marks to its reset value (R14). -/
def State.resetRegs (s : State) (p : Nat → Bool) : State := { s with regs := Sparse.clearIf s.regs p }

/-! ### Counters and first records (R68, R70, R537) -/

/-- Counters kept for each collective and each expert layer, which a selected register shows (R368, R436): keys above the windows. -/
def collKey (coll i : Nat) : Nat := 0x20000000 + coll * 64 + i
def layerKey (layer i : Nat) : Nat := 0x21000000 + layer * 512 + i

/-- Counters whose rise during a move is reported at the tick that ends it (R537): tiles, dies, stacks, Petal units, collectives, layers,
exchanges. -/
def tickRise (k : Nat) : Bool :=
  decide (0x02000000 ≤ k) || ((decide (0x310000 ≤ k) && decide (k < 0x330000)) || (decide (0x3010 ≤ k) && decide (k < 0x3020)))

/-- A move begins: no event has been counted in it (R537). -/
def State.dropRises (s : State) : State := { s with rises := Sparse.clearIf s.rises tickRise }

/-- The width a counter saturates at: 64 bits in the Frakel port, message, collective and hold counters, else 32. -/
def counterWidth (k : Nat) : Nat :=
  if 0x20000000 ≤ k && k < 0x21000000 then 64
  else match Reg.desc k with
  | some d => if d.wide then 64 else 32
  | none => 32

/-- Counts `n` events: the counter saturates, and the rise since the last report is kept beside it (R68, R537). -/
def State.count (s : State) (k n : Nat) : State :=
  if n = 0 then s
  else
    { s with
      regs := Sparse.set Reg.reset s.regs k (W64.of (satAdd (counterWidth k) (s.reg k) n))
      rises := Sparse.set (fun _ => 0) s.rises k (Sparse.get (fun _ => 0) s.rises k + n) }

/-- The rise of a counter since its last report. -/
def State.rise (s : State) (k : Nat) : Nat := Sparse.get (fun _ => 0) s.rises k

/-- Forgets the rise of a counter, as a report has carried it. -/
def State.clearRise (s : State) (k : Nat) : State :=
  { s with rises := Sparse.set (fun _ => 0) s.rises k 0 }

/-- Counts into the shadow copy of a counter (R70). -/
def State.countShadow (s : State) (k n : Nat) : State :=
  if n = 0 then s else { s with shadow := Sparse.set (fun _ => 0) s.shadow k (Sparse.get (fun _ => 0) s.shadow k + n) }

/-- Counts visibly, or into the shadow copy when `spec`. -/
def State.countS (s : State) (spec : Bool) (k n : Nat) : State :=
  if spec then s.countShadow k n else s.count k n

/-- Writes a first record unless one is held: `valid` is the position of the VALID bit (R69). -/
def State.first (s : State) (k valid v : Nat) : State :=
  if isBit (s.reg k) valid then s else s.setReg k v

/-- A first record, visible or shadow (R70). -/
def State.firstS (s : State) (spec : Bool) (k valid v : Nat) : State :=
  if spec then
    (if isBit (Sparse.get (fun _ => (0 : W64)) s.shadowFirst k).toNat valid then s
     else { s with shadowFirst := Sparse.set (fun _ => 0) s.shadowFirst k (W64.of v) })
  else s.first k valid v

/-! ### Free values -/

/-- A fresh free value: nothing constrains it (log entry 2). -/
def State.freeValue (s : State) : Nat := (Config.free s.freeCtr).toNat

/-- The state once a free value has been taken. -/
def State.useFree (s : State) : State := { s with freeCtr := s.freeCtr + 1 }

/-! ### Tiles: logical and physical (R5, R192) -/

/-- Die, row and column of a logical tile number. -/
def tDie (t : Nat) : Nat := t / 256
def tY (t : Nat) : Nat := t / 16 % 16
def tX (t : Nat) : Nat := t % 16
/-- The tile number within its die, y × 16 + x. -/
def tNum (t : Nat) : Nat := t % 256
/-- The 16-bit tile reference of R220. -/
def tRef (t : Nat) : Nat := t

/-- Die, row and physical column of a physical tile number. -/
def pDie (p : Nat) : Nat := p / 272
def pY (p : Nat) : Nat := p % 272 / 17
def pX (p : Nat) : Nat := p % 17

/-- The physical column that carries logical column `x` of a row (R192). -/
def State.physX (s : State) (d y x : Nat) : Nat :=
  let f := s.fld (Reg.dieRowRepair d y) 4 0
  if f ≤ x then x + 1 else x

/-- The physical tile that carries a logical tile. -/
def State.phys (s : State) (t : Nat) : Nat := tDie t * 272 + tY t * 17 + s.physX (tDie t) (tY t) (tX t)

/-- The unassigned physical column of a row (R192, R196). -/
def State.spareX (s : State) (d y : Nat) : Nat :=
  let f := s.fld (Reg.dieRowRepair d y) 4 0
  if f ≤ 15 then f else 16

/-- The logical tile that a physical tile carries, if any. -/
def State.logical (s : State) (p : Nat) : Option Nat :=
  let f := s.fld (Reg.dieRowRepair (pDie p) (pY p)) 4 0
  let base := pDie p * 256 + pY p * 16
  if 15 < f then (if pX p < 16 then some (base + pX p) else none)
  else if pX p < f then some (base + pX p)
  else if pX p = f then none
  else some (base + pX p - 1)

/-- The hidden state of a physical tile. -/
def State.tile (s : State) (p : Nat) : TileState := Sparse.get (fun _ => TileState.reset) s.tiles p

def State.setTile (s : State) (p : Nat) (t : TileState) : State :=
  { s with tiles := Sparse.set (fun _ => TileState.reset) s.tiles p t }

def State.modTile (s : State) (p : Nat) (f : TileState → TileState) : State := s.setTile p (f (s.tile p))

/-- Changes the hidden state of every tile that differs from its reset state. -/
def State.mapTiles (s : State) (f : TileState → TileState) : State := s.tiles.foldl (fun s e => s.setTile e.1 (f e.2)) s

/-! ### Job state (R35, R247) -/

def jobEMPTY : Nat := 0
def jobLOADING : Nat := 1
def jobLOADED : Nat := 2
def jobRUNNING : Nat := 3
def jobSTOPPED : Nat := 4

/-- NET_JOB_STATE.STATE. -/
def State.jobState (s : State) : Nat := s.fld Reg.netJobState 2 0

def State.running (s : State) : Bool := s.jobState == jobRUNNING

/-- The move number (R24) and the offset within the move. -/
def State.move (s : State) : Nat := s.reg Reg.netMoveNumber
def State.offset (s : State) : Nat := s.fld Reg.netMoveOffset 23 0
def State.held (s : State) : Bool := isBit (s.reg Reg.netMoveOffset) 31

/-- The cycles of a move, 2^k (R21). -/
def State.moveCycles (s : State) : Nat := 2 ^ (s.fld Reg.netMoveCtl 4 0)

/-- The step-relative move and the step number (R218). -/
def State.stepMoves (s : State) : Nat := s.reg Reg.netStepMoves
def State.stepMove (s : State) : Nat := if s.stepMoves = 0 then 0 else s.move % s.stepMoves
def State.stepNumber (s : State) : Nat := if s.stepMoves = 0 then 0 else s.move / s.stepMoves

/-- UTC in seconds, 0 while the clock is not valid (R504). -/
def State.utcSeconds (s : State) : Nat := if s.fld Reg.mgtTimeStatus 0 0 = 1 then s.reg Reg.mgtTime / 1000000 else 0

/-! ### Interrupt causes (R481) and event records (R505 to R507) -/

/-- Sends an MSI-X vector. -/
def State.sendMsix (s : State) (v : Nat) : State := { s with sent := s.sent ++ [.msix v] }

/-- Sets cause bit `i` of HQ_INT_CAUSE; a change from 0 to 1 with its enable bit set sends the vector (R481). -/
def State.cause (s : State) (i : Nat) : State :=
  if isBit (s.reg Reg.hqIntCause) i then s
  else
    let s1 := s.setReg Reg.hqIntCause (s.reg Reg.hqIntCause + 2 ^ i)
    if isBit (s.reg Reg.hqIntCtl) (9 + i) then s1.sendMsix (s.fld Reg.hqIntCtl 8 0) else s1

/-- Severities of R20. -/
def sevDEBUG : Nat := 0
def sevINFO : Nat := 1
def sevNOTICE : Nat := 2
def sevWARNING : Nat := 3
def sevERROR : Nat := 4
def sevCRITICAL : Nat := 5
def sevFATAL : Nat := 6

/-- Sources of R505. -/
def srcDevice : Nat := 0
def srcDie : Nat := 1
def srcTile : Nat := 2
def srcHbm : Nat := 3
def srcFrakel : Nat := 4
def srcHost : Nat := 5
def srcMgmt : Nat := 6
def srcMeter : Nat := 7

/-- An item of a record: its width in bytes and its value (R506). -/
abbrev EvtItem := Nat × Nat
/-- A count, sum, length, step number or cycle count: 8 bytes. -/
def it8 (v : Nat) : EvtItem := (8, v)
/-- A code, OP_INDEX, tile, die, stack or port number: 2 bytes. -/
def it2 (v : Nat) : EvtItem := (2, v)
/-- A position or bitmap of a register field of `w` bytes. -/
def itN (w v : Nat) : EvtItem := (w, v)

/-- Cuts the data of a record into continuation records of 52 bytes (R506). -/
def contRecords : Nat → Nat → List Byte → List (List Byte)
  | 0, _, _ => []
  | fuel + 1, seq, data =>
    if data.isEmpty then []
    else
      let body := leBytes 8 seq ++ padTo 52 data
      (body ++ leBytes 4 (crc32c body)) :: contRecords fuel (seq + 1) (data.drop 52)

/-- The 64-byte records of one event (R505, R506), the first with SEQ `seq`. Continuation records hold bytes 8 to 59 as data
(CONT is bit 5 of byte 34 of a first record only: DEDUCED, log entry 9). -/
def State.evtBytes (s : State) (seq code sev src wher : Nat) (driver : Bool) (move : Nat) (data : List Byte) : List (List Byte) :=
  let flags := sev + 8 * (s.fld Reg.mgtTimeStatus 0 0) + 16 * b2n driver
  let head := leBytes 8 seq ++ leBytes 8 (s.reg Reg.mgtTime) ++ leBytes 8 move ++ leBytes 8 (s.reg Reg.netImgId)
    ++ leBytes 2 code ++ leBytes 1 flags ++ leBytes 1 src ++ leBytes 2 wher ++ leBytes 2 0 ++ padTo 20 data
  (head ++ leBytes 4 (crc32c head)) :: contRecords (data.length / 52 + 1) (seq + 1) (data.drop 20)

/-- Queue entries in use. -/
def Recorder.used (r : Recorder) : Nat := (r.queue.map (fun g => g.records.length)).foldl (· + ·) 0

/-- Removes the newest queued group of severity below `sev`, if there is one (the queue is given newest first). -/
def dropNewestBelow (sev : Nat) : List EvtGroup → Option (EvtGroup × List EvtGroup)
  | [] => none
  | g :: rest =>
    if g.sev < sev then some (g, rest)
    else match dropNewestBelow sev rest with
      | none => none
      | some (d, r) => some (d, g :: r)

/-- Displaces queued groups of lower severity until `need` entries fit in the 4,096 (R507): the queue, newest first, and the
records dropped; none when no lower group is left. -/
def makeRoom : Nat → Nat → Nat → List EvtGroup → Option (List EvtGroup × Nat)
  | 0, _, _, _ => none
  | fuel + 1, sev, need, q =>
    if (q.map (fun g => g.records.length)).foldl (· + ·) 0 + need ≤ 4096 then some (q, 0)
    else match dropNewestBelow sev q with
      | none => none
      | some (g, q') =>
        match makeRoom fuel sev need q' with
        | none => none
        | some (q'', n) => some (q'', n + g.records.length)

/-- Hands a record to the recorder's queue, which assigns SEQ (R507). -/
def Recorder.push (r : Recorder) (sev : Nat) (recs : List (List Byte)) : Recorder × Bool :=
  let g : EvtGroup := ⟨sev, r.nextSeq, recs⟩
  if r.used + recs.length ≤ 4096 then
    ({ r with queue := r.queue ++ [g], nextSeq := r.nextSeq + recs.length }, true)
  else if sev ≤ sevNOTICE then ({ r with dropped := r.dropped + recs.length }, false)
  else
    match makeRoom 4097 sev recs.length r.queue.reverse with
    | none => ({ r with dropped := r.dropped + recs.length }, false)
    | some (q, n) =>
      ({ r with queue := q.reverse ++ [g], nextSeq := r.nextSeq + recs.length, dropped := r.dropped + n }, true)

/-- The bytes of a record's items, in order (R506). -/
def itemBytes (items : List EvtItem) : List Byte := items.flatMap (fun i => leBytes i.1 i.2)

/-- Writes an event record (R505 to R507): a DEBUG record only while EVT_CTL.DEBUG_EN is 1; cause EVENT when the severity is
HQ_INT_CTL.SEV or higher (R481). -/
def State.eventRaw (s : State) (code sev src wher : Nat) (driver : Bool) (move : Nat) (data : List Byte) : State :=
  if sev = sevDEBUG ∧ s.fld Reg.evtCtl 0 0 = 0 then s
  else
    let r := s.recorder.push sev (s.evtBytes s.recorder.nextSeq code sev src wher driver move data)
    let s1 := { s with recorder := r.1 }.count (Reg.evtCount 1) (r.1.dropped - s.recorder.dropped)
    if r.2 && decide (s.fld Reg.hqIntCtl 18 16 ≤ sev) then s1.cause 2 else s1

/-- The MOVE field of a record: the present move, 0 outside a job (R505). -/
def State.evtMove (s : State) : Nat :=
  if s.jobState = jobRUNNING ∨ s.jobState = jobSTOPPED then s.move else 0

/-- A record with items, at the present move. -/
def State.event (s : State) (code sev src wher : Nat) (items : List EvtItem) : State :=
  s.eventRaw code sev src wher false s.evtMove (itemBytes items)

/-- A record at a tick: it carries the number of the move that ended. -/
def State.eventAt (s : State) (move code sev src wher : Nat) (items : List EvtItem) : State :=
  s.eventRaw code sev src wher false move (itemBytes items)

/-- Enters a job state; a change raises cause JOB_STATE (R481). -/
def State.setJobState (s : State) (st : Nat) : State :=
  if s.jobState = st then s else (s.setFld Reg.netJobState 2 0 st).cause 1

/-! ### Uncorrectable errors (R40, R437 to R440) -/

/-- An uncorrectable error before a capture completes abandons the snapshot (R459). -/
def State.snapAbandon (s : State) : State :=
  if s.snap.due || isBit (s.reg Reg.netSnapStatus) 0 then
    ((({ s with snap := { s.snap with due := false } }.setFld Reg.netSnapStatus 0 0 0).setFld (Reg.netSnapSlot 0) 0 0 0).count
      (Reg.netResCount 7) 1).event 0x0906 sevERROR srcDevice 0 []
  else s

/-- A unit reports an uncorrectable error: its record, which carries no items since its rule names none (R506), NET_RES_LAST when it is the first held, and its self-test,
which waits until the device is STOPPED. In RUNNING the job stops under R40. -/
def State.reportAt (s : State) (sev code die y physX loc src wher : Nat) : State :=
  let s1 := (s.event code sev src wher []).snapAbandon
  let isFirst := !isBit (s1.reg Reg.netResLast) 31
  let s2 := if isFirst then
      s1.setReg Reg.netResLast (code * 2 ^ 48 + die * 2 ^ 44 + y * 2 ^ 40 + physX * 2 ^ 35 + 2 ^ 31 + loc % 2 ^ 24)
    else s1
  { s2 with job := { s2.job with
      err := s2.job.err || (s2.running && sev == sevCRITICAL)
      tests := s2.job.tests ++ [⟨code, die, y, physX, loc, false, isFirst⟩] } }

/-- An uncorrectable error with severity CRITICAL. -/
def State.reportError (s : State) (code die y physX loc src wher : Nat) : State :=
  s.reportAt sevCRITICAL code die y physX loc src wher

/-- An uncorrectable error of a unit of physical tile `p`. -/
def State.tileError (s : State) (p code loc : Nat) : State :=
  s.reportError code (pDie p) (pY p) (pX p) loc srcTile ((s.logical p).getD 0)

/-! ### Tile banks (R163, R178) -/

/-- The byte key of a tile-local address. -/
def sramKey (p a : Nat) : Nat := p * 2 ^ 21 + a

/-- The line key of a line address. -/
def lineKey (p line : Nat) : Nat := p * 2 ^ 15 + line

def State.lineIsValid (s : State) (p line : Nat) : Bool := Sparse.get (fun _ => false) s.lineValid (lineKey p line)

/-- Reads `n` bytes at a tile-local address; bytes of invalid lines are kept at zero, so they read as zero (R178). -/
def State.bankRead (s : State) (p a n : Nat) : List Byte := Mem.read s.sram (sramKey p a) n

/-- Marks the lines of [a, a + n) valid. -/
def State.markLines (s : State) (p a n : Nat) : State :=
  if n = 0 then s
  else
    let l0 := a / 64
    let k := (a + n - 1) / 64 + 1 - l0
    { s with lineValid := (List.range k).foldl (fun m i => Sparse.set (fun _ => false) m (lineKey p (l0 + i)) true) s.lineValid }

/-- Writes bytes at a tile-local address: bytes the mask leaves out keep their values, zero in a line that was invalid (R178). A tile has
2 MiB: nothing is written past them. -/
def State.bankWrite (s : State) (p a : Nat) (bs : List Byte) : State :=
  let n := min bs.length (2 ^ 21 - a)
  ({ s with sram := Mem.write s.sram (sramKey p a) (bs.take n) }).markLines p a n

/-- Invalidates every line of a bank (R176, R181). -/
def State.bankClear (s : State) (p b : Nat) : State :=
  let k0 := sramKey p (b * 2 ^ 19)
  let l0 := lineKey p (b * 2 ^ 13)
  { s with sram := Mem.zero s.sram k0 (k0 + 2 ^ 19), lineValid := Sparse.clearRange s.lineValid l0 (l0 + 2 ^ 13) }

/-- Owner states (R166). -/
def ownFEEDER : Nat := 0
def ownKNIGHT : Nat := 1
def ownVECTOR : Nat := 2
def ownDMA : Nat := 3
def ownSHARED : Nat := 4
def ownSPEC : Nat := 5
def ownRETAINED : Nat := 6

def State.bankState (s : State) (p b : Nat) : Nat := s.fld (Reg.tlBankOwn p b) 2 0
def State.bankWaking (s : State) (p b : Nat) : Bool := isBit (s.reg (Reg.tlBankOwn p b)) 8

/-- The bank of a tile-local address, and of a line address. -/
def bankOf (a : Nat) : Nat := a / 2 ^ 19 % 4
def bankOfLine (l : Nat) : Nat := l / 2 ^ 13 % 4

/-- The units that reach a bank (R166). -/
inductive BankUnit where
  | feeder | drainParam | drain | knight | vector | dma
  deriving DecidableEq, Repr

/-- Whether owner state `st` admits a read by the unit; `pre` for a premove operation (R166). -/
def admitsRead (st : Nat) (u : BankUnit) (pre : Bool) : Bool :=
  match u with
  | .feeder => st == ownFEEDER || st == ownSHARED || (st == ownSPEC && pre)
  | .drainParam => st == ownFEEDER || st == ownSHARED
  | .drain => false
  | .knight => st == ownKNIGHT || st == ownSHARED || (st == ownSPEC && pre)
  | .vector => st == ownVECTOR || st == ownSHARED || (st == ownSPEC && pre)
  | .dma => st == ownDMA || st == ownSHARED

/-- Whether owner state `st` admits a write by the unit (R166); a premove operation writes only to SPECULATIVE banks (R39, R103, R131). -/
def admitsWrite (st : Nat) (u : BankUnit) (pre : Bool) : Bool :=
  match u with
  | .feeder => false
  | .drainParam => false
  | .drain => if pre then st == ownSPEC else st == ownVECTOR || st == ownDMA
  | .knight => if pre then st == ownSPEC else st == ownKNIGHT
  | .vector => if pre then st == ownSPEC else st == ownVECTOR
  | .dma => st == ownDMA

def State.readOk (s : State) (p b : Nat) (u : BankUnit) (pre : Bool) : Bool :=
  admitsRead (s.bankState p b) u pre && !s.bankWaking p b

def State.writeOk (s : State) (p b : Nat) (u : BankUnit) (pre : Bool) : Bool :=
  admitsWrite (s.bankState p b) u pre && !s.bankWaking p b

/-! ### The management controller (R487, R495) -/

/-- The management controller answers: it runs, and no service pause of MGT lasts (R495). -/
def State.pauseMgt (s : State) : Bool :=
  match s.mgmt.pause with
  | none => false
  | some x => x.1 % 2 == 0

def State.mgmtUp (s : State) : Bool := s.mgmt.running && !s.pauseMgt

end Sys2Proof.Machine
end

