-- ==== Sys2Proof/Machine/Operands.lean ====
section
/-! DEFINITION. What the held image holds for a tile (R214 to R239): the governing sections, operation words and their
fields, parameter records, constants, landing slots, extents; and how the sequencer starts its next word. -/

namespace Sys2Proof.Machine

/-! ### Governing sections (R214 to R216) -/

/-- Whether a section covers tile (y, x) of die d. -/
def Section.covers (c : Section) (d y x : Nat) : Bool :=
  (c.die == 0xFF || c.die == d) && (c.y == 0xFF || c.y == y) && (c.x == 0xFF || c.x == x)

/-- The width of a section: the positions it covers (R216). -/
def Section.width (c : Section) : Nat :=
  (if c.die == 0xFF then 4 else 1) * (if c.y == 0xFF then 16 else 1) * (if c.x == 0xFF then 16 else 1)

/-- The narrowest of two sections. -/
def narrower (a : Option Section) (b : Section) : Option Section :=
  match a with
  | none => some b
  | some c => if b.width < c.width then some b else some c

/-- The section of a type and plan that governs a position (R216). -/
def Image.governing (im : Image) (typ plan d y x : Nat) : Option Section :=
  (im.sections.filter (fun c => c.typ == typ && (c.plan == plan && c.covers d y x))).foldl narrower none

/-- The bytes of the governing section; empty content where none covers the position. -/
def State.sectionBytes (s : State) (typ plan d y x : Nat) : List Byte :=
  match s.job.image with
  | none => []
  | some im => match im.governing typ plan d y x with
    | none => []
    | some c => c.content

/-- The bytes of the section of a type that governs a logical tile. -/
def State.tileSection (s : State) (typ plan t : Nat) : List Byte := s.sectionBytes typ plan (tDie t) (tY t) (tX t)

/-- The bytes of the section of device scope of a type. -/
def State.devSection (s : State) (typ : Nat) : List Byte := s.sectionBytes typ 0 0 0 0

/-- The bytes of the die-scope section of a type for a die. -/
def State.dieSection (s : State) (typ d : Nat) : List Byte := s.sectionBytes typ 0 d 0 0

/-- Section type numbers. -/
def secTARGET : Nat := 1
def secSEQUENCE : Nat := 2
def secROUTES : Nat := 3
def secGROUPS : Nat := 4
def secSLOTS : Nat := 5
def secLISTS : Nat := 6
def secBANKS : Nat := 7
def secMODES : Nat := 8
def secBODY : Nat := 9
def secPARAMS : Nat := 10
def secCONSTANTS : Nat := 11
def secQUANT : Nat := 12
def secLANDINGS : Nat := 13
def secTENSORS : Nat := 14
def secEXTENTS : Nat := 0x20

/-! ### Plans (R218) -/

/-- The plan of step-relative move `m`, from the entries of a SEQUENCE section. -/
def planScan : Nat → List Byte → Nat → Nat
  | 0, _, _ => 0
  | fuel + 1, bs, m =>
    let rep := leAt bs 1 3
    if m < rep then leAt bs 0 1 else planScan fuel (bs.drop 4) (m - rep)

/-- The plan that move `n` of the job runs. -/
def State.planOf (s : State) (n : Nat) : Nat :=
  let bs := s.devSection secSEQUENCE
  planScan (leAt bs 2 2) (bs.drop 16) (if s.stepMoves = 0 then 0 else n % s.stepMoves)

/-- The plan of the present move. -/
def State.plan (s : State) : Nat := s.planOf s.move

/-! ### Operation words (R230 to R238) -/

/-- The body of a tile under a plan: its words as 128-bit numbers, end marker included. -/
def bodyWords : Nat → List Byte → List Nat
  | 0, _ => []
  | n + 1, bs => leAt bs 0 16 :: bodyWords n (bs.drop 16)

/-- The body that governs a logical tile in a plan; a tile no BODY covers has only the end marker (R216). -/
def State.body (s : State) (t plan : Nat) : List Nat :=
  let bs := s.tileSection secBODY plan t
  if bs.isEmpty then [0] else bodyWords (leAt bs 0 4) (bs.drop 16)

/-- Fields every word shares (R231). -/
def wOpcode (w : Nat) : Nat := bits w 7 0
def wPre (w : Nat) : Bool := isBit w 8
def wClass (w : Nat) : Nat := bit w 9
def wGuard (w : Nat) : Nat := bits w 22 10
def wOffset (w : Nat) : Nat := bits w 47 24

/-- The word that tile `t`'s sequencer starts next, unless only the end marker is left (R230). -/
def State.nextWord (s : State) (t : Nat) : Option Nat :=
  match (s.body t s.plan)[(s.tile (s.phys t)).next]? with
  | none => none
  | some w => if w = 0 then none else some w

/-- The sequencer of tile `t` starts a word whose opcode `ok` admits: the device is RUNNING and not held, the offset has not
passed. The state has the offset at the word's and the sequencer past it (R22, R230). -/
def State.start (s : State) (t : Nat) (ok : Nat → Bool) : Option (Nat × Nat × State) :=
  if s.running && !s.held then
    match s.nextWord t with
    | none => none
    | some w =>
      if ok w && decide (s.offset ≤ wOffset w) then
        let p := s.phys t
        let i := (s.tile p).next
        some (w, i, (s.setFld Reg.netMoveOffset 23 0 (wOffset w)).modTile p (fun ts => { ts with next := i + 1 }))
      else none
  else none

/-! ### Parameter records, constants, landing slots, extents (R225, R227, R228, R285) -/

/-- Parameter record `i` of a tile (32 bytes). -/
def State.param (s : State) (t i : Nat) : List Byte := ((s.tileSection secPARAMS 0 t).drop (64 + 32 * i)).take 32

/-- Constant `i` of a tile, an FP32 pattern. -/
def State.constant (s : State) (t i : Nat) : Nat := leAt (s.tileSection secCONSTANTS 0 t) (4 + 4 * i) 4

/-- Landing slot `i` of a tile: line address and line count. -/
def State.landing (s : State) (t i : Nat) : Nat × Nat :=
  let bs := s.tileSection secLANDINGS 0 t
  (leAt bs (8 + 8 * i) 2, leAt bs (8 + 8 * i + 2) 2)

/-- An extent record (R285). -/
structure Extent where
  line : Nat
  fmt : Nat
  pad : Nat
  rows : Nat
  panels : Nat
  validRows : Nat
  validCols : Nat
  deriving DecidableEq, Repr

def extentsOf : Nat → List Byte → List Extent
  | 0, _ => []
  | n + 1, bs =>
    ⟨leAt bs 0 2, bits (leAt bs 2 1) 3 0, leAt bs 3 1, leAt bs 4 2, leAt bs 6 2, leAt bs 8 2, leAt bs 10 2⟩
      :: extentsOf n (bs.drop 16)

def State.extents (s : State) (t : Nat) : List Extent :=
  let bs := s.tileSection secEXTENTS 0 t
  extentsOf (leAt bs 0 2) (bs.drop 8)

/-- The row pitch of a format in lines (R283). -/
def pitchLines (fmt : Nat) : Nat :=
  match fmt with
  | 0 => 4
  | 1 => 2
  | 2 => 2
  | 7 => 8
  | _ => 1

/-- The row pitch of a format in bytes. -/
def pitch (fmt : Nat) : Nat := 64 * pitchLines fmt

/-- Lines of an extent's footprint. -/
def Extent.lines (e : Extent) : Nat := e.panels * e.rows * pitchLines e.fmt

/-- The extent whose footprint holds a line. -/
def State.extentAt (s : State) (t line : Nat) : Option Extent :=
  (s.extents t).find? (fun e => decide (e.line ≤ line) && decide (line < e.line + e.lines))

/-- Whether column `c` of the panel row that starts at `line` is valid (R286). -/
def Extent.validAt (e : Extent) (line c : Nat) : Bool :=
  let r := (line - e.line) / pitchLines e.fmt
  decide (r % e.rows < e.validRows) && decide (64 * (r / e.rows) + c < e.validCols)

/-- The pad value of a floating-point format (R286). -/
def padValue (pad : Nat) : Num := if pad = 1 then .inf false else if pad = 2 then .inf true else .fin false 0 0

/-- One panel row of `n` stored elements at a line address: element patterns, with padding marked `none` (R286). -/
def State.rowElems (s : State) (t p line fmt n : Nat) : List (Option Nat) :=
  let bs := s.bankRead p (64 * line) (pitch fmt)
  match s.extentAt t line with
  | none => (List.range n).map (fun c => some (elemAt fmt bs c))
  | some e => (List.range n).map (fun c => if e.validAt line c then some (elemAt fmt bs c) else none)

/-- One row of `n` stored elements at a line address, as values, whatever an extent record says of it. -/
def State.storedVals (s : State) (p line fmt n : Nat) : List Num :=
  let bs := s.bankRead p (64 * line) (pitch fmt)
  (List.range n).map (fun c => fmtDecode fmt (elemAt fmt bs c))

/-- One panel row as values; padding takes the pad value of its record (R286). -/
def State.rowVals (s : State) (t p line fmt n : Nat) : List Num :=
  let pv := match s.extentAt t line with
    | none => Num.fin false 0 0
    | some e => padValue e.pad
  (s.rowElems t p line fmt n).map (fun o => match o with
    | some v => fmtDecode fmt v
    | none => pv)

end Sys2Proof.Machine
end

