-- ==== Sys2Proof/Machine/Flags.lean ====
section
/-! DEFINITION. What the reads, writes and conversions of a tile count, record and report: bank ECC (R179), port contention
(R171, R172), owner checks (R167), conversion outcomes (R68 to R70), Knight metadata latches (R157). -/

namespace Sys2Proof.Machine

/-! ### Bank ECC (R179, R183) -/

/-- A run of lines that an operation reads. -/
structure LineRun where
  line : Nat
  count : Nat
  deriving DecidableEq, Repr

/-- The run of lines that bytes [a, a + n) touch. -/
def byteRun (a n : Nat) : LineRun := if n = 0 then ⟨a / 64, 0⟩ else ⟨a / 64, (a + n - 1) / 64 + 1 - a / 64⟩

def LineRun.has (r : LineRun) (l : Nat) : Bool := decide (r.line ≤ l) && decide (l < r.line + r.count)

/-- The line address of a flip. -/
def flipLine (f : BankFlip) : Nat := f.bank % 4 * 2 ^ 13 + f.line % 2 ^ 13

/-- The flips that reads of the given runs meet: an invalid line runs no ECC check (R178). -/
def State.flipsIn (s : State) (p : Nat) (flips : List BankFlip) (runs : List LineRun) : List BankFlip :=
  flips.filter (fun f => runs.any (fun r => r.has (flipLine f)) && s.lineIsValid p (flipLine f))

/-- TL_BANK_ECCFIRST keeps its first record, but one of 0x0914 replaces one of 0x0915 (R183). -/
def State.eccFirst (s : State) (p code : Nat) (f : BankFlip) : State :=
  let k := Reg.tlBankEccfirst p
  let b := f.bank % 4
  let v := code * 2 ^ 48 + 2 ^ 32 + b * 2 ^ 30 + f.line % 2 ^ 13 * 2 ^ 17 + f.word % 8 * 2 ^ 14
    + (if code = 0x0914 then 0x7F else f.bit % 128) * 2 ^ 7 + b2n (s.bankState p b == ownSPEC) * 2 ^ 6
  if isBit (s.reg k) 32 && !(s.fld k 63 48 == 0x0915 && code == 0x0914) then s else s.setReg k v

/-- One corrected codeword: counted, recorded; the written-back codeword holds the corrected data. -/
def State.correctFlip (s : State) (p : Nat) (f : BankFlip) : State :=
  let s1 := (s.count (Reg.tlBankCount p (f.bank % 4)) 1).eccFirst p 0x0915 f
  { s1 with retests := s1.retests ++ [⟨0, p, flipLine f * 8 + f.word % 8⟩] }

/-- One uncorrectable codeword: counted; it reads as zeros (R438). -/
def State.spoilFlip (s : State) (p : Nat) (f : BankFlip) : State :=
  let s1 := s.count (Reg.tlBankCount p (4 + f.bank % 4)) 1
  { s1 with sram := Mem.write s1.sram (sramKey p (64 * flipLine f + 8 * (f.word % 8))) (List.replicate 8 0) }

/-- Whether flip `a` names a lower codeword than `b`. -/
def flipLt (a b : BankFlip) : Bool :=
  decide (flipLine a < flipLine b) || (flipLine a == flipLine b && decide (a.word % 8 < b.word % 8))

/-- The flip of the lowest codeword. -/
def lowestFlip : List BankFlip → Option BankFlip
  | [] => none
  | f :: rest => match lowestFlip rest with
    | none => some f
    | some g => if flipLt g f then some g else some f

/-- A run of lines as the accesses that carry it, `n` lines each (R164). -/
def LineRun.cut (n : Nat) (r : LineRun) : List LineRun :=
  (List.range ((r.count + n - 1) / n)).map (fun i => ⟨r.line + n * i, min n (r.count - n * i)⟩)

/-- The accesses of up to 256 bytes that carry runs (R164). -/
def accesses (runs : List LineRun) : List LineRun := runs.flatMap (LineRun.cut 4)

/-- Reports the uncorrectable codewords of one access after another: an access is reported once, at its lowest bad codeword; a codeword that an
earlier access reported is not met again (R179, log entry 11). -/
def State.reportBad (s : State) (p : Nat) : List BankFlip → List LineRun → State
  | _, [] => s
  | bad, r :: rs =>
    match lowestFlip (bad.filter (fun f => r.has (flipLine f))) with
    | none => s.reportBad p bad rs
    | some f => ((s.eccFirst p 0x0914 f).tileError p 0x0914 (flipLine f)).reportBad p (bad.filter (fun f => !r.has (flipLine f))) rs

/-- The ECC check of every codeword of the accesses that an operation reads (R179): the state, and the codewords corrected. -/
def State.bankEcc (s : State) (p : Nat) (flips : List BankFlip) (accs : List LineRun) : State × List BankFlip :=
  let fs := s.flipsIn p flips accs
  let single := fs.filter (fun f => !f.double)
  let bad := fs.filter (fun f => f.double)
  let s1 := single.foldl (fun s f => s.correctFlip p f) s
  let s2 := bad.foldl (fun s f => s.spoilFlip p f) s1
  (if bad.isEmpty then s2 else s2.reportBad p bad accs, single)

/-! ### Operations under way, and the cycles they lose (R93 to R96, R139, R172, R301) -/

/-- The losses of a feeder stream beyond the 8 cycles of lead, by their edge cycles (R94). -/
def beyondLead (l : List Nat) : List Nat := (sortNat l).drop 8

/-- The freeze cycles of an array operation whose streams have lost the given edge cycles: a cycle in which rows of both streams are late is
one freeze, and each freeze postpones the rows after it (R94). -/
def arrayFreezes (lostA lostB : List Nat) : List Nat :=
  let a := beyondLead lostA
  let b := beyondLead lostB
  let at_ := fun (c : Nat) => max (a.filter (fun x => x == c)).length (b.filter (fun x => x == c)).length
  let late := ((sortNat (a ++ b)).eraseDups).flatMap (fun c => List.replicate (at_ c) c)
  List.zipWith (fun c i => c + i) late (List.range late.length)

/-- The drain's elastic link from cycle `c` on: rows that have entered it and rows in it, cycles the oldest has been written for, and the
freezes so far. Each cycle the bank takes a beat of the oldest row, unless the write waits; then the next row enters, into a link of 16 rows,
or freezes the drain (R90, R93, R94, log entry 110). -/
def linkFreezes (first rows beat : Nat) (waits : List Nat) : Nat → Nat → Nat → Nat → Nat → List Nat → List Nat
  | 0, _, _, _, _, frz => frz
  | fuel + 1, c, inn, held, beats, frz =>
    if rows ≤ inn then frz
    else
      let write := decide (0 < held) && !waits.contains c
      let gone := write && decide (beat ≤ beats + 1)
      let held1 := if gone then held - 1 else held
      let beats1 := if gone then 0 else if write then beats + 1 else beats
      if c < first + inn * beat + frz.length then linkFreezes first rows beat waits fuel (c + 1) inn held1 beats1 frz
      else if 16 ≤ held1 then linkFreezes first rows beat waits fuel (c + 1) inn held1 beats1 (frz ++ [c])
      else if held = 0 ∧ !waits.contains c then
        -- the link is empty: the row is written as it enters
        (if beat = 1 then linkFreezes first rows beat waits fuel (c + 1) (inn + 1) 0 0 frz
          else linkFreezes first rows beat waits fuel (c + 1) (inn + 1) 1 1 frz)
      else linkFreezes first rows beat waits fuel (c + 1) (inn + 1) (held1 + 1) beats1 frz

/-- The freeze cycles of an array operation or a DRAIN. -/
def OpRun.freezes (o : OpRun) : List Nat :=
  if o.unit = 0 then arrayFreezes o.lostA o.lostB
  else if o.unit = 1 then
    (if o.lostA.isEmpty then []
      else linkFreezes (o.first + 9) o.rows o.beat o.lostA (o.beat * o.rows + o.lostA.length + 1) (o.first + 9) 0 0 0 [])
  else []

/-- Cycles by which the operation has been postponed: the freezes of the array and the drain, the lost cycles of the other units. -/
def OpRun.lost (o : OpRun) : Nat := if o.unit ≤ 1 then o.freezes.length else o.lostA.length

/-- The operation is under way in cycle `c`. -/
def OpRun.runsAt (o : OpRun) (c : Nat) : Bool := decide (o.first ≤ c) && decide (c ≤ o.last + o.lost)

/-- The freeze cycles of the array and the drain of a tile: a cycle in which both freeze is one (R94). -/
def freezeCycles (ops : List OpRun) : List Nat := (ops.flatMap OpRun.freezes).eraseDups

/-- A unit starts an operation. -/
def State.beginOp (s : State) (p : Nat) (o : OpRun) : State := s.modTile p (fun t => { t with ops := t.ops ++ [o] })

/-- Replaces the operation at position `k` of a tile by one that has lost more: freezes are counted, and an operation that now exceeds its
guard is noted once (R94 to R96, R139, R301). A vector operation has no report (R172). -/
def State.delayOp (s : State) (p k : Nat) (o : OpRun) : State :=
  let t := s.tile p
  match t.ops[k]? with
  | none => s
  | some old =>
    let ops := t.ops.set k o
    let late := b2n (decide (old.lost ≤ o.guard) && decide (o.guard < o.lost))
    let s1 := s.count (Reg.tlArrFreezeCount p) ((freezeCycles ops).length - (freezeCycles t.ops).length)
    s1.modTile p (fun t => { t with
      ops := ops
      lateArray := t.lateArray + (if o.unit ≤ 1 then late else 0)
      lateKnight := t.lateKnight + (if o.unit = 2 then late else 0)
      lateDma := t.lateDma + (if o.unit = 4 then late else 0) })

/-- The position of the newest operation of a unit that cycle `c` belongs to, its lead and its guard included. -/
def opAt (ops : List OpRun) (unit c : Nat) : Option Nat :=
  (((List.range ops.length).zip ops).reverse.find? (fun q =>
    q.2.unit == unit && (decide (q.2.first ≤ c + 8) && decide (c ≤ q.2.last + q.2.guard)))).map (fun q => q.1)

/-- The unit of a requester: reads 0 to 5, writes 6 to 9 (R171, R172). -/
def placeUnit (place : Nat) : Nat :=
  match place with
  | 0 => 0 | 1 => 0 | 2 => 1 | 6 => 1 | 3 => 2 | 7 => 2 | 4 => 3 | 8 => 3 | _ => 4

/-- A requester loses cycle `c` (R172). A feeder stream loses lead for the row that reaches the edge 16 cycles later; a lost drain write, or a
lost read of a saved row (R309), is a row stall; a lost Knight access is a Knight stall; a vector access postpones its operation, a descriptor
read its issue phase, a DMA write only its transfer (R301). A lost read of VECTOR parameters, before t0, has no effect that a rule names (log entry 111). -/
def State.lose (s : State) (p : Nat) (s0 : List OpRun) (place c : Nat) : State :=
  match opAt s0 (placeUnit place) c with
  | none => s
  | some k =>
    match (s.tile p).ops[k]? with
    | none => s
    | some o =>
      if place = 0 then s.delayOp p k { o with lostA := o.lostA ++ [c + 16] }
      else if place = 1 then s.delayOp p k { o with lostB := o.lostB ++ [c + 16] }
      else if place = 2 then
        (if c < o.first then s
          else (((s.count (Reg.tlArrRowstallCount p) 1).count (Reg.tlTrnCount p 3) 1).delayOp p k { o with lostA := o.lostA ++ [c] }))
      else if place = 6 then (s.count (Reg.tlArrRowstallCount p) 1).delayOp p k { o with lostA := o.lostA ++ [c] }
      else if place = 3 ∨ place = 7 then (s.countS o.pre (Reg.tlKnCount p 10) 1).delayOp p k { o with lostA := o.lostA ++ [c] }
      else if place = 9 then s
      else if place = 5 then (s.count (Reg.tlDmaCount p 7) 1).delayOp p k { o with lostA := o.lostA ++ [c] }
      else s.delayOp p k { o with lostA := o.lostA ++ [c] }

/-! ### Port contention (R171, R172) -/

/-- The first requester at or after the pointer, among `n` places. -/
def grant : Nat → Nat → Nat → List Nat → Nat
  | 0, _, ptr, _ => ptr
  | fuel + 1, n, ptr, who => if who.contains (ptr % n) then ptr % n else grant fuel n (ptr + 1) who

/-- One cycle of contention at a port: the state, and the requesters that lost it. A correction write-back (place 4 of a
write port) always goes first. -/
def State.clash (s : State) (p : Nat) (c : Clash) : State × List Nat :=
  let b := c.bank % 4
  let n := if c.write then 4 else 6
  let who := (c.who.filter (fun r => decide (r < n))).eraseDups
  let port := if c.write then 4 + b else b
  let ptr := Sparse.get (fun _ => 0) (s.tile p).ptr port
  if c.write && c.who.contains 4 then (s.count (Reg.tlBankCount p (8 + b)) who.length, who)
  else if who.isEmpty then (s, [])
  else
    let g := grant n n ptr who
    let lost := who.filter (fun r => r != g)
    let s1 := s.modTile p (fun t => { t with ptr := Sparse.set (fun _ => 0) t.ptr port ((g + 1) % n) })
    (s1.count (Reg.tlBankCount p (8 + b)) lost.length, lost)

/-- All contention that an operation meets, in turn: each loser bears its loss, whichever unit's it is. -/
def State.clashes (s : State) (p : Nat) (cs : List Clash) : State :=
  cs.foldl (fun s c =>
    let r := s.clash p c
    r.2.foldl (fun q w => q.lose p (r.1.tile p).ops (if c.write then 6 + w else w) c.cycle) r.1) s

/-! ### Owner checks at run time (R167) -/

/-- What one BANK_GIVE makes of a bank's state and wake, for an access in cycle `c` after it (R168, R173). -/
def giveStep (b c : Nat) (x : Nat × Bool) (w : Nat) : Nat × Bool :=
  let new := bits w 52 50
  if wOpcode w = 0x48 ∧ bits w 49 48 = b ∧ wOffset w < c ∧ x.1 ≠ ownSPEC ∧ x.1 ≠ new then
    (new, if x.1 = ownRETAINED then decide (c ≤ wOffset w + 520) else x.2 && new != ownRETAINED)
  else x

/-- The owner state of a bank, and whether it wakes, for an access in cycle `c` of the present move: in a cycle that has passed, what held
before the handovers since; in one to come, what the handovers left in the tile's body make of it (R168). -/
def State.bankAt (s : State) (p b c : Nat) : Nat × Bool :=
  let t := s.tile p
  let now := (s.bankState p b, s.bankWaking p b)
  match t.gives.find? (fun g => g.bank == b && decide (c ≤ g.cycle)) with
  | some g => (g.old, g.waking)
  | none =>
    if c ≤ s.offset then now
    else match s.logical p with
      | none => now
      | some l => ((s.body l s.plan).drop t.next).foldl (giveStep b c) now

/-- A bank admits a read, or a write, by a unit in cycle `c` (R166, R168, R173). -/
def State.readOkAt (s : State) (p b : Nat) (u : BankUnit) (pre : Bool) (c : Nat) : Bool :=
  let x := s.bankAt p b c
  admitsRead x.1 u pre && !x.2
def State.writeOkAt (s : State) (p b : Nat) (u : BankUnit) (pre : Bool) (c : Nat) : Bool :=
  let x := s.bankAt p b c
  admitsWrite x.1 u pre && !x.2

/-- The state as a unit reads it in cycle `c`: banks that do not allow it read as zeros (R167). -/
def State.viewAt (s : State) (p : Nat) (u : BankUnit) (pre : Bool) (c : Nat) : State :=
  (List.range 4).foldl (fun v b => if s.readOkAt p b u pre c then v else v.bankClear p b) s

/-- The same now. -/
def State.view (s : State) (p : Nat) (u : BankUnit) (pre : Bool) : State := s.viewAt p u pre s.offset

/-- A violation is reported once for an operation, at its first blocked line (R167). -/
def State.ownerCheck (s : State) (p : Nat) (blocked : List Nat) : State :=
  match blocked with
  | [] => s
  | l :: _ => s.tileError p 0x0916 l

/-- The runs that a unit may read in cycle `c`, and the first lines of those that it may not. -/
def State.openReads (s : State) (p : Nat) (u : BankUnit) (pre : Bool) (c : Nat) (runs : List LineRun) : List LineRun :=
  runs.filter (fun r => s.readOkAt p (bankOfLine r.line) u pre c)
def State.blockedReadsAt (s : State) (p : Nat) (u : BankUnit) (pre : Bool) (c : Nat) (runs : List LineRun) : List Nat :=
  (runs.filter (fun r => decide (0 < r.count) && !s.readOkAt p (bankOfLine r.line) u pre c)).map (fun r => r.line)

/-- The first lines of the runs that a unit may not write in cycle `c`. -/
def State.blockedWritesAt (s : State) (p : Nat) (u : BankUnit) (pre : Bool) (c : Nat) (runs : List LineRun) : List Nat :=
  (runs.filter (fun r => decide (0 < r.count) && !s.writeOkAt p (bankOfLine r.line) u pre c)).map (fun r => r.line)

/-- The same now. -/
def State.blockedReads (s : State) (p : Nat) (u : BankUnit) (pre : Bool) (runs : List LineRun) : List Nat :=
  s.blockedReadsAt p u pre s.offset runs
def State.blockedWrites (s : State) (p : Nat) (u : BankUnit) (pre : Bool) (runs : List LineRun) : List Nat :=
  s.blockedWritesAt p u pre s.offset runs

/-- The lines of [a, a + n), by line key. -/
def lineKeys (p a n : Nat) : List Nat := (List.range (if n = 0 then 0 else (a + n - 1) / 64 + 1 - a / 64)).map (fun i => lineKey p (a / 64 + i))

/-- Marks what a computing unit writes after an uncorrectable error of the move (R40). -/
def State.markLate (s : State) (p : Nat) (u : BankUnit) (a n : Nat) : State :=
  if s.job.err && u != .dma then { s with late := (lineKeys p a n).foldl (fun m k => Sparse.set (fun _ => false) m k true) s.late } else s

/-- Some line of [a, a + n) holds what was computed after an uncorrectable error of the move. -/
def State.isLate (s : State) (p a n : Nat) : Bool := (lineKeys p a n).any (fun k => Sparse.get (fun _ => false) s.late k)

/-- A write by a unit in cycle `c`: blocked, and changing nothing, where the bank does not allow it (R167). -/
def State.unitWriteAt (s : State) (p : Nat) (u : BankUnit) (pre : Bool) (c a : Nat) (bs : List Byte) : State :=
  if s.writeOkAt p (bankOf a) u pre c then (s.bankWrite p a bs).markLate p u a bs.length else s

/-- The same now. -/
def State.unitWrite (s : State) (p : Nat) (u : BankUnit) (pre : Bool) (a : Nat) (bs : List Byte) : State :=
  s.unitWriteAt p u pre s.offset a bs

/-- Accesses of up to 256 bytes that a misaligned run of `n` bytes at `a` takes through the byte-lane rotator (R164). -/
def rotatorAccesses (a n : Nat) : Nat := if a % 64 = 0 then 0 else (n + 255) / 256

/-- Counts misaligned accesses in TL_BANK_COUNT (R164). -/
def State.countRotator (s : State) (p a n : Nat) : State :=
  s.count (Reg.tlBankCount p (12 + bankOf a)) (rotatorAccesses a n)

/-! ### Conversion outcomes (R68 to R70) -/

/-- The counter of a conversion event. -/
def cvtCounter (p : Nat) : CvtEvent → Nat
  | .none => Reg.tlCvtNanCount p
  | .nan => Reg.tlCvtNanCount p
  | .sat => Reg.tlCvtSatCount p
  | .ovf => Reg.tlCvtOvfCount p
  | .intNan => Reg.tlCvtIntnanCount p

/-- A first record of the present move that was met at `at_`: it is kept unless the one held was met no later (R69, R324). -/
def State.firstMet (s : State) (k valid at_ v : Nat) : State :=
  if isBit (s.reg k) valid && decide (Sparse.get (fun _ => 0) s.firstAt k ≤ at_) then s
  else { s.setReg k v with firstAt := Sparse.set (fun _ => 0) s.firstAt k at_ }

/-- The same, visible or in the shadow copy (R70). -/
def State.firstMetS (s : State) (spec : Bool) (k valid at_ v : Nat) : State :=
  if spec then
    (if isBit (Sparse.get (fun _ => (0 : W64)) s.shadowFirst k).toNat valid && decide (Sparse.get (fun _ => 0) s.firstAt (2 ^ 32 + k) ≤ at_) then s
     else { s with
      shadowFirst := Sparse.set (fun _ => 0) s.shadowFirst k (W64.of v)
      firstAt := Sparse.set (fun _ => 0) s.firstAt (2 ^ 32 + k) at_ })
  else s.firstMet k valid at_ v

/-- Counts a conversion event of element `el` (row high part `hi`) of operation `op`, met at `at_`, visibly or into the shadow copies. -/
def State.cvt (s : State) (p : Nat) (spec : Bool) (op at_ hi el : Nat) (e : CvtEvent) : State :=
  match e with
  | .none => s
  | e => (s.countS spec (cvtCounter p e) 1).firstMetS spec (Reg.tlCvtFirst p) 12 at_
      (e.code * 2 ^ 48 + op * 2 ^ 32 + hi % 4 * 2 ^ 13 + 2 ^ 12 + el % 2 ^ 12)

/-! ### Knight metadata latches (R156, R157) -/

/-- Offence `a` is detected before `b`: in an earlier cycle, else at a lower POSITION (R157). -/
def Latch.before (a b : Latch) : Bool := decide (a.cycle < b.cycle) || (a.cycle == b.cycle && decide (a.position < b.position))

/-- Latches the offence of a code that the move detects first (R157). -/
def addLatch (l : List Latch) (e : Latch) : List Latch :=
  if l.any (fun x => x.code == e.code) then l.map (fun x => if x.code == e.code && e.before x then e else x) else l ++ [e]

/-- Of a move's latches, the one detected earliest, and within one cycle that of the lowest code (R157). -/
def firstLatch : List Latch → Option Latch
  | [] => none
  | e :: l => match firstLatch l with
    | none => some e
    | some x => if x.cycle < e.cycle ∨ (x.cycle = e.cycle ∧ x.code < e.code) then some x else some e

/-- Counts one malformed item of metadata, detected in cycle `cyc`, and latches its position: counter `code − 0x0301`. -/
def State.malformed (s : State) (p : Nat) (pre : Bool) (code op cyc pos : Nat) : State :=
  let s1 := s.countS pre (Reg.tlKnCount p (code - 0x0301)) 1
  s1.modTile p (fun t =>
    if pre then { t with shadowLatches := addLatch t.shadowLatches ⟨cyc, code, op, pos % 2 ^ 24⟩ }
    else { t with latches := addLatch t.latches ⟨cyc, code, op, pos % 2 ^ 24⟩ })

end Sys2Proof.Machine
end

