-- ==== Sys2Proof/Machine/Array.lean ====
section
/-! DEFINITION. The dense array: MMA, DIST_ABS, DIST_SQ, MINPLUS and the report of a late operation (R73 to R103, R107 to
R112). An operation acts whole in the step that starts it; what it loses to stalls is counted (R93 to R96). -/

namespace Sys2Proof.Machine

/-- The five modes of an accumulator set (R88). -/
inductive ArrMode where
  | plain | comp | distAbs | distSq | minplus
  deriving DecidableEq, Repr

/-- The code of a mode, as TL_ARR_STATUS.MODE and AccSet.mode give it. -/
def ArrMode.code : ArrMode → Nat
  | .plain => 1
  | .comp => 2
  | .distAbs => 3
  | .distSq => 4
  | .minplus => 5

/-- The fields of an array operation's word (R233). -/
structure ArrWord where
  pen : Bool
  param : Nat
  zpEn : Bool
  scaleFmt : Nat
  group : Nat
  rot : Nat
  fmtB : Nat
  fmtA : Nat
  kc : Nat
  n : Nat
  m : Nat
  clear : Bool
  set : Nat
  bLine : Nat
  aLine : Nat
  deriving DecidableEq, Repr

def arrWord (w : Nat) : ArrWord where
  pen := isBit w 125
  param := bits w 124 117
  zpEn := isBit w 116
  scaleFmt := bits w 115 114
  group := bits w 113 112
  rot := bits w 111 109
  fmtB := bits w 108 105
  fmtA := bits w 104 101
  kc := bits w 100 94
  n := bits w 93 87
  m := bits w 86 80
  clear := isBit w 79
  set := bit w 78
  bLine := bits w 77 63
  aLine := bits w 62 48

/-! ### Accumulators and checksum pairs (R75) -/

def accKey (set m n : Nat) : Nat := set * 4096 + m * 64 + n
def csKey (set m : Nat) : Nat := set * 64 + m

def TileState.accAt (t : TileState) (set m n : Nat) : Nat := (Sparse.get (fun _ => (0 : W32)) t.acc (accKey set m n)).toNat
def TileState.setAcc (t : TileState) (set m n v : Nat) : TileState :=
  { t with acc := Sparse.set (fun _ => 0) t.acc (accKey set m n) (W32.of v) }

def TileState.csAt (t : TileState) (set m : Nat) : Nat := (Sparse.get (fun _ => (0 : W64)) t.cs (csKey set m)).toNat % 2 ^ 32
def TileState.absAt (t : TileState) (set m : Nat) : Nat := (Sparse.get (fun _ => (0 : W64)) t.cs (csKey set m)).toNat / 2 ^ 32
def TileState.setCs (t : TileState) (set m c a : Nat) : TileState :=
  { t with cs := Sparse.set (fun _ => 0) t.cs (csKey set m) (W64.of (c % 2 ^ 32 + a * 2 ^ 32)) }

/-- The record of an accumulator set. -/
def TileState.accSet (t : TileState) (set : Nat) : AccSet := if set = 0 then t.set0 else t.set1
def TileState.putSet (t : TileState) (set : Nat) (a : AccSet) : TileState :=
  if set = 0 then { t with set0 := a } else { t with set1 := a }

/-- Writes a row of accumulators from column `n` upward. -/
def TileState.setAccRow (t : TileState) (set m n : Nat) : List Nat → TileState
  | [] => t
  | v :: vs => TileState.setAccRow (t.setAcc set m n v) set m (n + 1) vs

/-- The accumulators of row `m` in columns below `n`. -/
def TileState.accRow (t : TileState) (set m n : Nat) : List Nat := (List.range n).map (fun c => t.accAt set m c)

/-! ### The rotator (R111, R112) -/

/-- The block size that a rotation code names (0: off). -/
def rotBlock (rot : Nat) : Nat := if rot = 1 then 16 else if rot = 2 then 32 else if rot = 3 then 64 else 0

/-- log2 of the block size. -/
def rotLog (rot : Nat) : Int := if rot = 1 then 4 else if rot = 2 then 5 else 6

/-- The signed terms of output `j` of a block. -/
def rotTerms (xs : List Num) (j : Nat) : List Num :=
  (List.range xs.length).map (fun i => let x := xs.getD i .nan; if popCount 6 (i &&& j) % 2 = 1 then x.neg else x)

/-- The exact sum of terms; a zero sum is −0 only when every term is −0. -/
def exactSum (xs : List Num) : Num :=
  if xs.all (fun x => x.isZero && x.isNeg) then .fin true 0 0 else xs.foldl Num.add (.fin false 0 0)

/-- Output `j` of a block of size 2^lg: the exact sum divided by the size, rounded to an 11-bit significand. -/
def rotOut (lg : Int) (xs : List Num) (j : Nat) : Num :=
  match exactSum (rotTerms xs j) with
  | .fin n m e => round11 (.fin n m (e - lg))
  | y => y

/-- A chunk of 64 broadcast values after the rotator. -/
def rotate (rot : Nat) (xs : List Num) : List Num :=
  let b := rotBlock rot
  if b = 0 then xs
  else (List.range 64).map (fun k => rotOut (rotLog rot) ((xs.drop (k / b * b)).take b) (k % b))

/-! ### Operands (R81 to R84, R284) -/

/-- Broadcast row `m` of chunk `j`, rotated (R284, R112): padding enters the rotator's blocks as zeros. -/
def State.bcastRow (s : State) (t p : Nat) (f : ArrWord) (j m : Nat) : List Num :=
  let line := f.aLine + (64 * j + m) * pitchLines f.fmtA
  if rotBlock f.rot = 0 then s.rowVals t p line f.fmtA 64
  else rotate f.rot ((s.rowElems t p line f.fmtA 64).map (fun o => match o with
    | some v => fmtDecode f.fmtA v
    | none => .fin false 0 0))

/-- Stationary row `k` of chunk `j`, columns below N (R284). -/
def State.statRow (s : State) (t p : Nat) (f : ArrWord) (j k : Nat) : List Num :=
  s.rowVals t p (f.bLine + (64 * j + k) * pitchLines f.fmtB) f.fmtB f.n

/-- Column `n` of a list of rows. -/
def column (rows : List (List Num)) (n : Nat) : List Num := rows.map (fun r => r.getD n (.fin false 0 0))

/-- The pairwise terms of one pass for one array row (R52, R86, R87). -/
def pairTerms (mode : ArrMode) (a b : List Num) : List Num :=
  match mode with
  | .plain => List.zipWith Num.mul a b
  | .comp => List.zipWith Num.mul a b
  | .distAbs => List.zipWith (fun x y => (Num.sub x y).abs) a b
  | .distSq => List.zipWith (fun x y => let d := Num.sub x y; Num.mul d d) a b
  | .minplus => List.zipWith Num.add a b

/-- Whether x precedes y in the order of R87, −0 below +0. -/
def numBelow (x y : Num) : Bool :=
  Num.lt x y || (x.isZero && (y.isZero && (x.isNeg && !y.isNeg)))

/-- The least of a list of terms and a start value; NaN if any is NaN (R87). -/
def leastOf (x : Num) (xs : List Num) : Num :=
  if x.isNan || xs.any Num.isNan then .nan
  else xs.foldl (fun a b => if numBelow b a then b else a) x

/-- One pass of one array row: the new accumulator, and whether it overflowed from finite addends. -/
def passOne (mode : ArrMode) (acc : Nat) (terms : List Num) : Nat × Bool :=
  match mode with
  | .minplus =>
    let l := leastOf (f32 acc) terms
    let r := toF32 l
    (r, l.isFin && !f32Finite r)
  | _ => treePlain (f32 acc :: terms)

/-! ### De-quantisation (R107 to R110) -/

/-- The group size of a GROUP code. -/
def groupSize (g : Nat) : Nat := if g = 0 then 32 else if g = 1 then 64 else 128

/-- The width of a scale in bytes and its format code. -/
def scaleWidth (sf : Nat) : Nat := if sf = 0 then 4 else 2
def scaleCode (sf : Nat) : Nat := if sf = 0 then 0 else if sf = 1 then 1 else 2

/-- Scale of group g and column n (R108). -/
def State.groupScale (s : State) (p base : Nat) (f : ArrWord) (g n : Nat) : Num :=
  let w := scaleWidth f.scaleFmt
  fmtDecode (scaleCode f.scaleFmt) (leNat (s.bankRead p (64 * base + (g * 64 + n) * w) w))

/-- Zero point of group g and column n; 0 with ZP_EN 0 (R107). -/
def State.groupZero (s : State) (p base : Nat) (f : ArrWord) (g n : Nat) : Int :=
  if f.zpEn then signed 8 (leNat (s.bankRead p (64 * base + g * 64 + n) 1)) else 0

/-- One segment's value V = s × P (R110). -/
def segmentV (sigma : Nat) (scale : Num) (z : Int) (a q : List Num) : Num :=
  let prods := List.zipWith Num.mul a q
  let c := if z = 0 then Num.fin false 0 0 else Num.mul (Num.int (-z)) (f32 sigma)
  Num.mul scale (windowSum 47 (c :: prods))

/-- Segments of chunk j as (first k in the chunk, length, group) (R110). -/
def segmentsOf (g j : Nat) : List (Nat × Nat × Nat) :=
  if groupSize g = 32 then [(0, 32, 2 * j), (32, 32, 2 * j + 1)]
  else if groupSize g = 64 then [(0, 64, j)]
  else [(0, 64, j / 2)]

/-- The integer stationary value: a padding element holds its group's zero point (R286). -/
def quantVal (fmt : Nat) (z : Int) (o : Option Nat) : Num :=
  match o with
  | some v => fmtDecode fmt v
  | none => Num.int z

/-! ### The effect of one operation -/

/-- What an array operation accumulates over its chunks: the accumulators of its output rows (s and c in compensated mode),
the checksum pairs, the overflows counted. -/
structure ArrAcc where
  rows : List (List Nat)
  rows2 : List (List Nat)
  cs : List (Nat × Nat)
  ovf : Nat
  deriving DecidableEq, Repr

/-- A pass over one output row in the single-tree modes: new accumulators and overflows. -/
def passRow (mode : ArrMode) (a : List Num) (bcols : List (List Num)) (acc : List Nat) : List Nat × Nat :=
  let rs := List.zipWith (fun b v => passOne mode v (pairTerms mode a b)) bcols acc
  (rs.map (fun r => r.1), (rs.filter (fun r => r.2)).length)

/-- A compensated pass over one output row: new s, new c, overflows (R66). -/
def passRowPair (a : List Num) (bcols : List (List Num)) (sv cv : List Nat) : List Nat × List Nat × Nat :=
  let rs := List.zipWith (fun b (v : Nat × Nat) => treePair (f32 v.1 :: f32 v.2 :: List.zipWith Num.mul a b)) bcols (sv.zip cv)
  (rs.map (fun r => r.1), rs.map (fun r => r.2.1), (rs.filter (fun r => r.2.2)).length)

/-- A checksum pass over one output row (R100): the pair, and the overflows of its two sums (R53 step 4). -/
def csPass (a w wabs : List Num) (c : Nat × Nat) : (Nat × Nat) × Nat :=
  let x := treePlain (f32 c.1 :: List.zipWith Num.mul a w)
  let y := treePlain (f32 c.2 :: List.zipWith (fun x y => Num.mul x.abs y) a wabs)
  ((x.1, y.1), b2n x.2 + b2n y.2)

/-- The checksum passes of one chunk over the output rows: the pairs, and the overflows. -/
def csRows (arows : List (List Num)) (w wabs : List Num) (cs : List (Nat × Nat)) : List (Nat × Nat) × Nat :=
  let rs := List.zipWith (fun a c => csPass a w wabs c) arows cs
  (rs.map (fun r => r.1), (rs.map (fun r => r.2)).foldl (· + ·) 0)

/-- w[k] and w_abs[k] of the stationary rows of a chunk (R100). -/
def rowSums (brows : List (List Num)) : List Num := brows.map (fun r => f32 (toF32 (exactSum r)))
def rowAbsSums (brows : List (List Num)) : List Num := brows.map (fun r => f32 (toF32 (exactSum (r.map Num.abs))))

/-- One chunk in a mode with one tree: `bcols` are the columns of the stationary chunk. -/
def chunkPlain (mode : ArrMode) (arows : List (List Num)) (brows : List (List Num)) (n : Nat) (x : ArrAcc) : ArrAcc :=
  let bcols := (List.range n).map (column brows)
  let rs := List.zipWith (fun a v => passRow mode a bcols v) arows x.rows
  let c := if mode = .plain then csRows arows (rowSums brows) (rowAbsSums brows) x.cs else (x.cs, 0)
  { x with
    rows := rs.map (fun r => r.1)
    cs := c.1
    ovf := x.ovf + (rs.map (fun r => r.2)).foldl (· + ·) 0 + c.2 }

/-- One sub-chunk of a compensated MMA. -/
def subComp (arows : List (List Num)) (bcols : List (List Num)) (x : ArrAcc) : ArrAcc :=
  let rs := List.zipWith (fun a (v : List Nat × List Nat) => passRowPair a bcols v.1 v.2) arows (x.rows.zip x.rows2)
  { x with
    rows := rs.map (fun r => r.1)
    rows2 := rs.map (fun r => r.2.1)
    ovf := x.ovf + (rs.map (fun r => r.2.2)).foldl (· + ·) 0 }

/-- One chunk of a compensated MMA: three sub-chunks (R65), and one checksum pass on the unsplit operands (R100). -/
def chunkComp (arows : List (List Num)) (brows : List (List Num)) (n : Nat) (x : ArrAcc) : ArrAcc :=
  let hiA := arows.map (fun r => r.map splitHi)
  let loA := arows.map (fun r => r.map splitLo)
  let bc := (List.range n).map (column brows)
  let hiB := bc.map (fun r => r.map splitHi)
  let loB := bc.map (fun r => r.map splitLo)
  let y := subComp loA hiB (subComp hiA loB (subComp hiA hiB x))
  let c := csRows arows (rowSums brows) (rowAbsSums brows) x.cs
  { y with cs := c.1, ovf := y.ovf + c.2 }

/-- One output row of a de-quantising pass: new accumulators and overflows, the overflow of each σ counted once. -/
def passRowQ (segs : List (List Num × Nat × List Num × List Int × List (List Num))) (acc : List Nat) (sovf : Nat) :
    List Nat × Nat :=
  let rs := (List.range acc.length).map (fun n =>
    treePlain (f32 (acc.getD n 0) :: segs.map (fun g =>
      segmentV g.2.1 (g.2.2.1.getD n .nan) (g.2.2.2.1.getD n 0) g.1 (g.2.2.2.2.getD n []))))
  (rs.map (fun r => r.1), (rs.filter (fun r => r.2)).length + sovf)

/-- One chunk of a de-quantising MMA (R110). -/
def State.chunkQuant (s : State) (t p : Nat) (f : ArrWord) (scaleBase zpBase j : Nat) (arows : List (List Num))
    (x : ArrAcc) : ArrAcc :=
  let elems := (List.range 64).map (fun k => s.rowElems t p (f.bLine + 64 * j + k) f.fmtB f.n)
  let segs := segmentsOf f.group j
  let info := segs.map (fun g =>
    ((List.range f.n).map (fun n => s.groupScale p scaleBase f g.2.2 n),
     (List.range f.n).map (fun n => s.groupZero p zpBase f g.2.2 n)))
  let cols := List.zipWith (fun g (i : List Num × List Int) =>
    (List.range f.n).map (fun n => ((elems.drop g.1).take g.2.1).map (fun row =>
      quantVal f.fmtB (i.2.getD n 0) (row.getD n none)))) segs info
  let rowOf := fun (a : List Num) =>
    List.zipWith (fun (g : Nat × Nat × Nat) (ic : (List Num × List Int) × List (List Num)) =>
      let seg := (a.drop g.1).take g.2.1
      let sg := treePlain seg
      ((seg, sg.1, ic.1.1, ic.1.2, ic.2), sg.2)) segs (info.zip cols)
  let rs := List.zipWith (fun a v =>
    let g := rowOf a
    passRowQ (g.map (fun q => q.1)) v ((g.filter (fun q => q.2)).length)) arows x.rows
  -- the de-quantised stationary values s × (q − z), for the checksum row
  let brows := (List.range 64).map (fun k =>
    (List.range f.n).map (fun n =>
      let gi := if segs.length = 2 then k / 32 else 0
      let i := info.getD gi ([], [])
      let z := i.2.getD n 0
      Num.mul (i.1.getD n .nan) (Num.sub (quantVal f.fmtB z ((elems.getD k []).getD n none)) (Num.int z))))
  let c := csRows arows (rowSums brows) (rowAbsSums brows) x.cs
  { x with
    rows := rs.map (fun r => r.1)
    cs := c.1
    ovf := x.ovf + (rs.map (fun r => r.2)).foldl (· + ·) 0 + c.2 }

/-- The presence bits of an operation's chunks (R98): all present without a mask. -/
def maskBits (mask : Option Nat) (kc : Nat) : List Bool :=
  (List.range kc).map (fun j => match mask with
    | none => true
    | some m => isBit m j)

/-- Runs one chunk of an operation. -/
def State.chunk (s : State) (t p : Nat) (f : ArrWord) (mode : ArrMode) (sb zb j : Nat) (x : ArrAcc) : ArrAcc :=
  let arows := (List.range f.m).map (fun m => s.bcastRow t p f j m)
  if fmtIsInt f.fmtB then s.chunkQuant t p f sb zb j arows x
  else
    let brows := (List.range 64).map (fun k => s.statRow t p f j k)
    if mode = .comp then chunkComp arows brows f.n x else chunkPlain mode arows brows f.n x

/-- The accumulators an operation starts from (R83, R87): cleared, or the set's present values. -/
def startAcc (ts : TileState) (f : ArrWord) (mode : ArrMode) : ArrAcc :=
  let z := if mode = .minplus then f32PInf else 0
  let rows := (List.range f.m).map (fun m => if f.clear then List.replicate f.n z else ts.accRow f.set m f.n)
  let rows2 := (List.range f.m).map (fun m => if f.clear then List.replicate f.n 0 else ts.accRow 1 m f.n)
  let cs := (List.range f.m).map (fun m => if f.clear then (0, 0) else (ts.csAt f.set m, ts.absAt f.set m))
  ⟨rows, rows2, cs, 0⟩

/-- The set's record after an operation (R88, R91, R103). -/
def nextSet (a : AccSet) (f : ArrWord) (mode : ArrMode) (pre : Bool) : AccSet :=
  if f.clear then ⟨mode.code, f.n, false, a.spec || pre⟩
  else { a with mode := mode.code, mixed := a.mixed || f.n != a.heldN, spec := a.spec || pre }

/-- Writes rows of accumulators back. -/
def putRows (ts : TileState) (set m : Nat) : List (List Nat) → TileState
  | [] => ts
  | r :: rs => putRows (ts.setAccRow set m 0 r) set (m + 1) rs

def putCs (ts : TileState) (set m : Nat) : List (Nat × Nat) → TileState
  | [] => ts
  | c :: cs => putCs (ts.setCs set m c.1 c.2) set (m + 1) cs

/-- Stationary values of sub-chunk q (counted over the operation's sub-chunks), as FP32 patterns (R76). -/
def State.statLoad (s : State) (t p : Nat) (f : ArrWord) (mode : ArrMode) (q : Nat) : List (List Nat) :=
  let u := if mode = .comp then 3 else 1
  (List.range 64).map (fun k => (s.statRow t p f (q / u) k).map (fun v =>
    if mode = .comp then toF32 (if q % 3 = 1 then splitLo v else splitHi v) else toF32 v))

/-- Loads copy q mod 2 of the stationary registers, row n element k (R76). DESIGN CHOICE, log entry 112: an operation starts at copy 0, the
copies change at every sub-chunk, and values are kept as FP32 patterns. -/
def loadStat (ts : TileState) (q : Nat) (rows : List (List Nat)) : TileState :=
  { ts with stat := (List.range 64).foldl (fun m k =>
      (List.range (rows.getD k []).length).foldl (fun m n =>
        Sparse.set (fun _ => 0) m (q % 2 * 4096 + n * 64 + k) (W32.of ((rows.getD k []).getD n 0))) m) ts.stat }

/-- The lines that an array operation reads: broadcast rows, stationary rows, tables and mask. -/
def arrRunsA (f : ArrWord) (present : List Bool) : List LineRun :=
  (List.range f.kc).filterMap (fun j =>
    if present.getD j false then some ⟨f.aLine + 64 * j * pitchLines f.fmtA, f.m * pitchLines f.fmtA⟩ else none)
def arrRunsB (f : ArrWord) (present : List Bool) : List LineRun :=
  (List.range f.kc).filterMap (fun j =>
    if present.getD j false then some ⟨f.bLine + 64 * j * pitchLines f.fmtB, 64 * pitchLines f.fmtB⟩ else none)
def arrRunsT (f : ArrWord) (sb zb : Nat) : List LineRun :=
  if fmtIsInt f.fmtB then
    let groups := (64 * f.kc + groupSize f.group - 1) / groupSize f.group
    byteRun (64 * sb) (groups * 64 * scaleWidth f.scaleFmt) :: (if f.zpEn then [byteRun (64 * zb) (groups * 64)] else [])
  else []

/-- The rows of a feeder stream in nominal order: line of each and the cycle in which it reaches the edge (R82, R84). Sub-chunk q = u × j is the
first to read chunk j: its broadcast row m enters in cycle t0 + 80 + q × P + m, its stationary row k loads in t0 + 16 + k for the first
chunk, and 64 cycles or more before its passes for a later one. -/
def arrRowsA (f : ArrWord) (mode : ArrMode) (t0 : Nat) (present : List Bool) : List (Nat × Nat) :=
  let u := if mode = .comp then 3 else 1
  (List.range f.kc).flatMap (fun j => if present.getD j false then
    (List.range f.m).map (fun m => (f.aLine + (64 * j + m) * pitchLines f.fmtA, t0 + 80 + u * j * 64 + m)) else [])
def arrRowsB (f : ArrWord) (mode : ArrMode) (t0 : Nat) (present : List Bool) : List (Nat × Nat) :=
  let u := if mode = .comp then 3 else 1
  (List.range f.kc).flatMap (fun j => if present.getD j false then
    (List.range 64).map (fun k => (f.bLine + (64 * j + k) * pitchLines f.fmtB, t0 + 16 + u * j * 64 + k)) else [])

/-- The column groups of 8 elements, of row of a format at `line`, that a corrected codeword holds (R93): an INT4 codeword holds two groups,
and the line's codewords past the row's 64 elements hold none. -/
def flipGroups (fmt line : Nat) (x : BankFlip) : List Nat :=
  let at_ := 64 * (flipLine x - line) + 8 * (x.word % 8)
  if flipLine x < line ∨ line + pitchLines fmt ≤ flipLine x ∨ fmtBytes fmt 64 ≤ at_ then []
  else
    let g := at_ * 8 / fmtBits fmt / 8
    if fmt = 6 then [g, g + 1] else [g]

/-- The edge cycles of the column stalls of a stream: one for each column group of a row in which a codeword was corrected (R93). -/
def colStalls (fmt : Nat) (rows : List (Nat × Nat)) (fixed : List BankFlip) : List Nat :=
  if fixed.isEmpty then []
  else rows.flatMap (fun r => ((fixed.flatMap (flipGroups fmt r.1)).eraseDups).map (fun _ => r.2))

/-- The mode an opcode names; an MMA of two FP32 operands runs compensated (R51, R233). -/
def arrMode (opcode : Nat) (f : ArrWord) : ArrMode :=
  if opcode = 2 then .distAbs else if opcode = 3 then .distSq else if opcode = 4 then .minplus
  else if f.fmtA = 0 && f.fmtB = 0 then .comp else .plain

/-- The mask word of an inference MMA (R98); the faulty bits are counted apart. -/
def State.maskOf (s : State) (p : Nat) (f : ArrWord) (prm : List Byte) : Option Nat :=
  if f.pen && isBit (leAt prm 1 1) 0 then some (leNat (s.bankRead p (64 * (leAt prm 6 2 % 2 ^ 15)) 8)) else none

/-- Counts the mask bits at j ≥ KC (R99), as the mask is read in cycle `cyc`. -/
def State.maskFaults (s : State) (p : Nat) (pre : Bool) (op kc cyc : Nat) (mask : Option Nat) : State :=
  match mask with
  | none => s
  | some m => ((bitList 64 m).filter (fun j => decide (kc ≤ j))).foldl (fun s j => s.malformed p pre 0x0305 op cyc j) s

/-- A hardware fault leaves its pattern in accumulators the operation wrote. -/
def applyHits (ts : TileState) (set : Nat) (hits : List ArrayHit) : TileState :=
  hits.foldl (fun ts h => ts.setAcc set (h.m % 64) (h.n % 64) h.value) ts

/-- An array operation under way: word w at OP_INDEX i, from the offset t0 on (R84, R95). -/
def arrayRun (f : ArrWord) (mode : ArrMode) (pre dyn : Bool) (i t0 guard : Nat) : OpRun :=
  let u := if mode = .comp then 3 else 1
  ⟨0, pre, dyn, i, mode.code, t0, t0 + 80, t0 + (f.kc * u - 1) * 64 + f.m + 102, guard, f.m, 1, [], []⟩

/-- An array operation once started: word w at OP_INDEX i of logical tile t (R83 to R103). One that starts after an error of R40 is not
finished (R105). DESIGN CHOICE, log entry 113: an overflow of an accumulator is counted in TL_ACC_OVF_COUNT and enters no first record; R68 lists
0x020A among the codes of TL_CVT_FIRST's chapter and does not say whether it enters there. -/
def State.runArray (s : State) (t i w : Nat) (env : OpEnv) : State :=
  let f := arrWord w
  let p := s.phys t
  let mode := arrMode (wOpcode w) f
  let pre := wPre w
  let t0 := wOffset w
  if f.m = 0 ∨ f.n = 0 ∨ f.kc = 0 ∨ s.job.err then s
  else
    let prm := s.param t f.param
    let sb := leAt prm 2 2 % 2 ^ 15
    let zb := leAt prm 4 2 % 2 ^ 15
    let mask0 := (s.viewAt p .feeder pre (t0 - 4)).maskOf p f prm
    let present := maskBits mask0 f.kc
    let runsM := if mask0.isSome then [⟨leAt prm 6 2 % 2 ^ 15, 1⟩] else []
    let runsA := arrRunsA f present
    let runsB := arrRunsB f present
    let runsT := arrRunsT f sb zb
    let s1 := (s.maskFaults p pre i f.kc (t0 - 4) mask0).countS pre (Reg.tlArrSkipCount p) ((present.filter (fun b => !b)).length)
    let em := s1.bankEcc p env.flips (accesses (s.openReads p .feeder pre (t0 - 4) runsM))
    let left := fun (fs : List BankFlip) (rs : List LineRun) => fs.filter (fun x => !(rs.any (fun r => r.has (flipLine x))))
    let ea := em.1.bankEcc p (left env.flips runsM) ((s.openReads p .feeder pre t0 runsA).flatMap (LineRun.cut (pitchLines f.fmtA)))
    let eb := ea.1.bankEcc p (left env.flips (runsM ++ runsA)) ((s.openReads p .feeder pre t0 runsB).flatMap (LineRun.cut (pitchLines f.fmtB)))
    let et := eb.1.bankEcc p (left env.flips (runsM ++ runsA ++ runsB)) ((s.openReads p .feeder pre t0 runsT).flatMap (LineRun.cut 1))
    let colA := colStalls f.fmtA (arrRowsA f mode t0 present) ea.2
    let colB := colStalls f.fmtB (arrRowsB f mode t0 present) eb.2
    let dyn := i == 0xFFFF
    let o := arrayRun f mode pre dyn i t0 (if dyn then 2 ^ 32 else wGuard w)
    let s2 := (et.1.count (Reg.tlArrColstallCount p) (colA.length + colB.length)).beginOp p o
    let s3 := (s2.delayOp p ((s2.tile p).ops.length - 1) { o with lostA := colA, lostB := colB }).clashes p env.clashes
    let s4 := s3.ownerCheck p (s.blockedReadsAt p .feeder pre (t0 - 4) runsM ++ s.blockedReadsAt p .feeder pre t0 (runsA ++ runsB ++ runsT))
    let v := s4.viewAt p .feeder pre t0
    let ts := s4.tile p
    let x := (List.range f.kc).foldl (fun x j =>
      if present.getD j false then v.chunk t p f mode sb zb j x else x) (startAcc ts f mode)
    let ts1 := putCs (putRows ts f.set 0 x.rows) f.set 0 x.cs
    let ts2 := if mode = .comp then putRows ts1 1 0 x.rows2 else ts1
    let ts3 := applyHits ts2 f.set env.hits
    let ts4 := ts3.putSet f.set (nextSet (ts.accSet f.set) f mode pre)
    let ts5 := if mode = .comp then { ts4 with set1 := nextSet ts.set1 f mode pre } else ts4
    let u := if mode = .comp then 3 else 1
    let lastOf := fun (c : Nat) => (List.range (u * f.kc)).reverse.find? (fun q => q % 2 == c && present.getD (q / u) false)
    let ts6 := [lastOf 0, lastOf 1].foldl (fun ts q => match q with
      | none => ts
      | some q => loadStat ts q (v.statLoad t p f mode q)) ts5
    let n := (present.filter (fun b => b)).length * u * f.m
    let s5 := s4.setTile p { ts6 with
      passes := ts.passes + (if pre then 0 else n)
      specPasses := ts.specPasses + (if pre then n else 0) }
    s5.countS pre (Reg.tlAccOvfCount p) x.ovf

/-- Starts an array operation whose opcode is `op`. -/
def State.arrayOp (s : State) (op t : Nat) (env : OpEnv) : State :=
  match s.start t (fun w => wOpcode w == op) with
  | none => s
  | some (w, i, s1) => s1.runArray t i w env

/-- MMA (R83). -/
def execMma (t : Tile) (env : OpEnv) (s : State) : Host.Outcome State Fault Refusal := .next (s.arrayOp 1 t.val env)

/-- DIST_ABS (R86). -/
def execDistAbs (t : Tile) (env : OpEnv) (s : State) : Host.Outcome State Fault Refusal := .next (s.arrayOp 2 t.val env)

/-- DIST_SQ (R86). -/
def execDistSq (t : Tile) (env : OpEnv) (s : State) : Host.Outcome State Fault Refusal := .next (s.arrayOp 3 t.val env)

/-- MINPLUS (R87). -/
def execMinplus (t : Tile) (env : OpEnv) (s : State) : Host.Outcome State Fault Refusal := .next (s.arrayOp 4 t.val env)

/-- One report of an array operation whose freezes exceeded its guard (R96): each such operation has its own. -/
def State.reportArrayLate (s : State) (p : Nat) : State :=
  if 0 < (s.tile p).lateArray then (s.modTile p (fun ts => { ts with lateArray := ts.lateArray - 1 })).tileError p 0x0911 0 else s

/-- ARRAY_LATE (R96). -/
def execArrayLate (t : Tile) (s : State) : Host.Outcome State Fault Refusal := .next (s.reportArrayLate (s.phys t.val))

end Sys2Proof.Machine
end

