-- ==== Sys2Proof/Machine/Knight.lean ====
section
/-! DEFINITION. The Knight engine (R130 to R162): COPY, ACCUMULATE, EXPAND, PLAN, SEGMENT, PRUNE, COMPRESS, the two merges, and
the report of a late operation. -/

namespace Sys2Proof.Machine

/-- The word and the TYPE 3 record of a Knight operation (R235, R228). -/
structure KnWord where
  t : Nat
  dynamic : Bool
  clear : Bool
  buf : Nat
  vfmt : Nat
  ifmt : Nat
  sfmt : Nat
  mode : Nat
  pre : Bool
  inference : Bool
  guard : Nat
  kc : Nat
  m : Nat
  n : Nat
  rowptr : Nat
  index : Nat
  value : Nat
  src : Nat
  dst : Nat
  aux : Nat
  nnzMax : Nat
  sRows : Nat
  nr : Nat
  l : Nat
  list : Nat
  deriving DecidableEq, Repr

def knWord (w : Nat) (r : List Byte) : KnWord where
  t := bits w 70 64
  dynamic := isBit w 63
  clear := isBit w 62
  buf := bit w 61
  vfmt := bits w 60 57
  ifmt := bit w 56
  sfmt := bits w 55 52
  mode := bits w 51 48
  pre := wPre w
  inference := wClass w == 1
  guard := wGuard w
  kc := leAt r 1 1
  m := leAt r 2 1
  n := leAt r 3 1
  rowptr := leAt r 4 2 % 2 ^ 15
  index := leAt r 6 2 % 2 ^ 15
  value := leAt r 8 2 % 2 ^ 15
  src := leAt r 10 2 % 2 ^ 15
  dst := leAt r 12 2 % 2 ^ 15
  aux := leAt r 14 2 % 2 ^ 15
  nnzMax := leAt r 16 4
  sRows := leAt r 20 4
  nr := leAt r 24 2
  l := leAt r 26 2
  list := leAt r 30 1

/-- The word is an ACCUMULATE that claimed items run under (R151); in any other word DYNAMIC changes nothing. -/
def KnWord.isDyn (f : KnWord) (opcode : Nat) : Bool := f.dynamic && (opcode == 0x10 && f.mode == 1)

/-- A count that the operation uses is zero: no operation is requested (R16, R138). An L of 0 is the bitmap form of COPY (log entry 12). -/
def KnWord.idle (f : KnWord) (opcode : Nat) : Bool :=
  if opcode = 0x10 then
    (if f.mode = 0 then f.sRows == 0
    else if f.mode = 1 then f.n == 0 || (if f.sfmt = 2 then f.kc == 0 else f.nr == 0 || f.nnzMax == 0 || f.sRows == 0)
    else if f.sfmt = 2 then f.kc == 0 else f.nr == 0)
  else if opcode = 0x12 then (if f.mode = 0 then f.kc == 0 else if f.mode = 1 then f.nr == 0 || f.nnzMax == 0 else f.nr == 0)
  else if f.mode = 0 then f.m == 0 else f.nr == 0 || f.nnzMax == 0

/-- 128-byte beats of a row of 64 elements (R139). -/
def KnWord.beats (f : KnWord) : Nat := if f.vfmt = 0 then 2 else 1

/-! ### Merge buffers (R130, R159) -/

def TileState.bufAt (t : TileState) (b m n : Nat) : Nat := (Sparse.get (fun _ => (0 : W32)) t.buf (accKey b m n)).toNat
def TileState.setBuf (t : TileState) (b m n v : Nat) : TileState :=
  { t with buf := Sparse.set (fun _ => 0) t.buf (accKey b m n) (W32.of v) }
def TileState.clearBuf (t : TileState) (b : Nat) : TileState :=
  { t with buf := Sparse.clearRange t.buf (b * 4096) ((b + 1) * 4096) }
def TileState.setBufRow (t : TileState) (b m n : Nat) : List Nat → TileState
  | [] => t
  | v :: vs => TileState.setBufRow (t.setBuf b m n v) b m (n + 1) vs
def TileState.bufRow (t : TileState) (b m n : Nat) : List Nat := (List.range n).map (fun c => t.bufAt b m c)
def TileState.bufSpec (t : TileState) (b : Nat) : Bool := if b = 0 then t.bufSpec0 else t.bufSpec1
def TileState.markBuf (t : TileState) (b : Nat) : TileState :=
  if b = 0 then { t with bufSpec0 := true } else { t with bufSpec1 := true }

/-! ### Metadata (R134 to R136, R156) -/

/-- The bytes of one element of format `fmt` in a packed array. -/
def State.arrElem (s : State) (p line fmt i : Nat) : Nat :=
  if fmt = 6 then bits (leNat (s.bankRead p (64 * line + i / 2) 1)) (4 * (i % 2) + 3) (4 * (i % 2))
  else leNat (s.bankRead p (64 * line + i * (fmtBits fmt / 8)) (fmtBits fmt / 8))

/-- The 32-bit row pointers of an array, `n + 1` of them. -/
def State.rawPtrs (v : State) (p line n : Nat) : List Nat :=
  (List.range (n + 1)).map (fun r => leNat (v.bankRead p (64 * line + 4 * r) 4))

/-- Rows as (start, length): a pointer above the bound is taken as the bound, a descending pair gives an empty row. -/
def rowSpans (bound : Nat) (ptrs : List Nat) : List (Nat × Nat) :=
  let c := ptrs.map (fun q => min q bound)
  List.zipWith (fun a b => (a, b - a)) c (c.drop 1)

/-- The cycles in which the engine takes up rows, from cycle `c` on: a row lasts one cycle for each non-zero, an empty one lasts one (R139). -/
def rowCycles : Nat → List (Nat × Nat) → List Nat
  | _, [] => []
  | c, q :: rest => c :: rowCycles (c + max 1 q.2) rest

/-- Counts the faults of a row-pointer array (R156). Pointer r is read with row r, the last one with the last row, in the cycles `cyc`;
POSITION is the row (log entry 121). -/
def State.ptrFaults (s : State) (p : Nat) (pre : Bool) (op bound : Nat) (cyc : Nat → Nat) (ptrs : List Nat) : State :=
  let c := ptrs.map (fun q => min q bound)
  let row := fun r => min r (ptrs.length - 2)
  (List.range ptrs.length).foldl (fun s r =>
    let s1 := if bound < ptrs.getD r 0 then s.malformed p pre 0x0304 op (cyc (row r)) (row r) else s
    if r + 1 < ptrs.length ∧ c.getD (r + 1) 0 < c.getD r 0 then s1.malformed p pre 0x0303 op (cyc r) r else s1) s

/-- A block header (R136). -/
structure BlkHdr where
  nnz : Nat
  rows : Nat
  ptr : Nat
  idx : Nat
  val : Nat
  deriving DecidableEq, Repr

def State.blkHdr (v : State) (p base j : Nat) : BlkHdr :=
  let bs := v.bankRead p (64 * base + 16 * j) 16
  ⟨leAt bs 0 2, leAt bs 2 1, leAt bs 4 4, leAt bs 8 4, leAt bs 12 4⟩

/-- Whether `n` bytes at line `line + off` (in lines) stay in the bank of `line`. -/
def inBank (line off n : Nat) : Bool := decide (64 * (line % 2 ^ 13 + off) + n ≤ 2 ^ 19)

/-- A block header beyond its bounds (R156). -/
def BlkHdr.bad (h : BlkHdr) (base fmt : Nat) : Bool :=
  decide (4096 < h.nnz) || decide (64 < h.rows) || !inBank base h.ptr (4 * (h.rows + 1))
    || !inBank base h.idx (2 * h.nnz) || !inBank base h.val (fmtBytes fmt h.nnz)

/-- One non-zero: its index, its value, whether it contributes. -/
structure NonZero where
  index : Nat
  value : Num
  ok : Bool
  deriving DecidableEq, Repr

/-- The non-zeros of one SEGMENTED span (R134). -/
def State.segRow (v : State) (p : Nat) (f : KnWord) (start len : Nat) : List NonZero :=
  (List.range len).map (fun i =>
    let k := v.arrElem p f.index (if f.ifmt = 0 then 1 else 0) (start + i)
    ⟨k, fmtDecode f.vfmt (v.arrElem p f.value f.vfmt (start + i)), decide (k < f.sRows)⟩)

/-- The non-zeros of one row of a block (R136): local indices strictly ascending and at most 63. -/
def blkRow (v : State) (p base fmt : Nat) (h : BlkHdr) : Nat → Nat → Option Nat → List NonZero
  | 0, _, _ => []
  | len + 1, pos, prev =>
    let k := v.arrElem p (base + h.idx) 1 pos
    let asc := match prev with
      | none => true
      | some q => decide (q < k)
    ⟨k, fmtDecode fmt (v.arrElem p (base + h.val) fmt pos), asc && decide (k ≤ 63)⟩ :: blkRow v p base fmt h len (pos + 1) (some k)

/-- Counts the faulty indices of a row whose first position is `pos`, checked in cycle `cyc` (R140, R156): one that lies beyond its bound and one
that does not ascend are two cases, and an index can be both. -/
def State.idxFaults (s : State) (p : Nat) (pre blocked : Bool) (op bound : Nat) : Nat → Nat → Option Nat → List NonZero → State
  | _, _, _, [] => s
  | cyc, pos, prev, z :: zs =>
    let s1 := if bound ≤ z.index then s.malformed p pre 0x0305 op cyc pos else s
    let s2 := if blocked && (match prev with
        | none => false
        | some q => decide (z.index ≤ q)) then s1.malformed p pre 0x0302 op cyc pos else s1
    State.idxFaults s2 p pre blocked op bound (cyc + 1) (pos + 1) (some z.index) zs

/-! ### ACCUMULATE (R140, R141) -/

/-- One bundle into one element: the new value and whether it overflowed. -/
def bundleOne (zs : List (NonZero × List Num)) (n old : Nat) : Nat × Bool :=
  treePlain (f32 old :: zs.map (fun z => if z.1.ok then Num.mul z.1.value (z.2.getD n (.fin false 0 0)) else .fin false 0 0))

/-- The bundles of one row, 16 non-zeros each, into a destination row (R141). -/
def bundles : Nat → List (NonZero × List Num) → List Nat → List Nat × Nat
  | 0, _, old => (old, 0)
  | fuel + 1, zs, old =>
    if zs.isEmpty then (old, 0)
    else
      let b := zs.take 16
      let rs := (List.range old.length).map (fun n => bundleOne b n (old.getD n 0))
      let r := bundles fuel (zs.drop 16) (rs.map (fun x => x.1))
      (r.1, r.2 + (rs.filter (fun x => x.2)).length)

/-- Pairs each non-zero with the dense source row that its index selects (`base` is the first row's number). -/
def State.withRows (v : State) (p : Nat) (f : KnWord) (base : Nat) (zs : List NonZero) : List (NonZero × List Num) :=
  zs.map (fun z => (z, if z.ok then v.storedVals p (f.src + (base + z.index) * pitchLines f.vfmt) f.vfmt 64 else []))

/-- Accumulates a row of non-zeros into row m of merge buffer b: the tile and the overflows. -/
def accRow (f : KnWord) (m : Nat) (zs : List (NonZero × List Num)) (x : TileState × Nat) : TileState × Nat :=
  let r := bundles (zs.length + 1) zs (x.1.bufRow f.buf m (min f.n 64))
  (x.1.setBufRow f.buf m 0 r.1, x.2 + r.2)

/-- The path map of a BLOCKED operand (R144, R145). -/
def State.pathMap (v : State) (p : Nat) (f : KnWord) : Nat := leNat (v.bankRead p (64 * f.aux) 8)

/-- Rows of a block as lists of non-zeros with the first position of each; none where the block is malformed or empty. -/
def State.blkRows (v : State) (p : Nat) (f : KnWord) (j : Nat) : List (Nat × List NonZero) :=
  let h := v.blkHdr p f.rowptr j
  if h.bad f.rowptr f.vfmt || h.nnz == 0 || h.rows == 0 then []
  else (rowSpans h.nnz (v.rawPtrs p (f.rowptr + h.ptr) h.rows)).map (fun q => (q.1, blkRow v p f.rowptr f.vfmt h q.2 q.1 none))

/-- The cycles that the rows of block `j` take (R139). -/
def State.blkCycles (v : State) (p : Nat) (f : KnWord) (j : Nat) : Nat :=
  ((v.blkRows p f j).map (fun q => max 1 q.2.length)).foldl (· + ·) 0

/-- Counts the faults of a block that the engine takes up in cycle `cyc` (R156, R157). POSITION is the row, or the index position, within the
block, and for a faulty header the block number (log entry 121). -/
def State.blkFaults (s v : State) (p : Nat) (f : KnWord) (op j cyc : Nat) : State :=
  let h := v.blkHdr p f.rowptr j
  if h.bad f.rowptr f.vfmt then s.malformed p f.pre 0x0304 op cyc j
  else if h.nnz = 0 ∨ h.rows = 0 then s
  else
    let rows := v.blkRows p f j
    let cs := rowCycles cyc (rows.map (fun q => (q.1, q.2.length)))
    let s1 := s.ptrFaults p f.pre op h.nnz (fun r => cs.getD r cyc) (v.rawPtrs p (f.rowptr + h.ptr) h.rows)
    (List.range rows.length).foldl (fun s r =>
      let q := rows.getD r (0, [])
      s.idxFaults p f.pre true op 64 (cs.getD r cyc + 1) q.1 none q.2) s1

/-- The blocks of a BLOCKED operand on the dense, or the sparse, path of its map (R144 to R147). -/
def State.pathBlocks (v : State) (p : Nat) (f : KnWord) (dense : Bool) : List Nat :=
  (List.range f.kc).filter (fun j => isBit (v.pathMap p f) j == dense)

/-- The effect of a static ACCUMULATE, from cycle t0 on, on the tile and the counts. -/
def State.knAccumulate (s v : State) (p i t0 : Nat) (f : KnWord) : State :=
  let s0 := if f.clear then s.modTile p (fun ts => ts.clearBuf f.buf) else s
  if f.sfmt = 2 then
    let js := v.pathBlocks p f false
    let s1 := (js.foldl (fun (x : State × Nat) j => (x.1.blkFaults v p f i j x.2, x.2 + v.blkCycles p f j)) (s0, t0)).1
    let x := js.foldl (fun x j =>
      let rows := v.blkRows p f j
      (List.range rows.length).foldl (fun x m => accRow f m (v.withRows p f (64 * j) (rows.getD m (0, [])).2) x) x)
      (s1.tile p, 0)
    (s1.setTile p (if f.pre then x.1.markBuf f.buf else x.1)).countS f.pre (Reg.tlAccOvfCount p) x.2
  else
    let ptrs := v.rawPtrs p f.rowptr f.nr
    let spans := rowSpans f.nnzMax ptrs
    let cs := rowCycles t0 spans
    let s1 := s0.ptrFaults p f.pre i f.nnzMax (fun r => cs.getD r t0) ptrs
    let s2 := (List.range spans.length).foldl (fun s r =>
      let q := spans.getD r (0, 0)
      s.idxFaults p f.pre false i f.sRows (cs.getD r t0 + 1) q.1 none (v.segRow p f q.1 q.2)) s1
    let x := (List.range spans.length).foldl (fun x r =>
      let q := spans.getD r (0, 0)
      accRow f r (v.withRows p f 0 (v.segRow p f q.1 q.2)) x) (s2.tile p, 0)
    (s2.setTile p (if f.pre then x.1.markBuf f.buf else x.1)).countS f.pre (Reg.tlAccOvfCount p) x.2

/-! ### COPY (R142) -/

/-- The bytes of one row of 64 elements that hold data. -/
def rowData (fmt : Nat) : Nat := fmtBytes fmt 64

/-- The bit of source row `k` in a COPY's row bitmap. -/
def State.copyBit (v : State) (p : Nat) (f : KnWord) (k : Nat) : Bool :=
  isBit (leNat (v.bankRead p (64 * f.index + k / 8) 1)) (k % 8)

/-- The source rows that a COPY gathers: by its index list, none for an index out of range, or by its row bitmap (R142). -/
def State.copyRows (v : State) (p : Nat) (f : KnWord) : List (Option Nat) :=
  if f.l ≠ 0 then (List.range f.l).map (fun r =>
    let k := v.arrElem p f.index (if f.ifmt = 0 then 1 else 0) r
    if k < f.sRows then some k else none)
  else ((List.range f.sRows).filter (v.copyBit p f)).map some

/-- COPY: with L above 0 an index list of L entries, with L 0 a row bitmap over S_ROWS rows (log entry 12). -/
def State.knCopy (s v : State) (p i t0 : Nat) (f : KnWord) : State :=
  let pl := pitchLines f.vfmt
  let rows := v.copyRows p f
  let s1 := (List.range rows.length).foldl (fun s r =>
    s.unitWrite p .knight f.pre (64 * (f.dst + r * pl)) (match rows.getD r none with
      | some k => v.bankRead p (64 * (f.src + k * pl)) (rowData f.vfmt)
      | none => List.replicate (rowData f.vfmt) 0)) s
  if f.l ≠ 0 then
    ((List.range rows.length).filter (fun r => (rows.getD r none).isNone)).foldl
      (fun s r => s.malformed p f.pre 0x0305 i (t0 + r * f.beats) r) s1
  else
    let rest := (List.range (8 * ((f.sRows + 7) / 8) - f.sRows)).map (fun k => f.sRows + k)
    ((rest.filter (v.copyBit p f)).foldl (fun s k => s.malformed p f.pre 0x0305 i (t0 + k / 512) k) s1).unitWrite p .knight f.pre
      (64 * f.aux) (leBytes 4 rows.length)

/-! ### TWO_OF_FOUR (R135, R153 to R155) -/

/-- Lines of a value row of 32 kept elements. -/
def keptLines (fmt : Nat) : Nat := (fmtBytes fmt 32 + 63) / 64

/-- EXPAND of one group: its four element patterns, and whether its nibble names one slot twice. -/
def expandGroup (nib a b : Nat) : List Nat × Bool :=
  let x := nib % 4
  let y := nib / 4 % 4
  if x = y then ([0, 0, 0, 0], true)
  else ((List.range 4).map (fun k => if k = x then a else if k = y then b else 0), false)

/-- EXPAND of NR TWO_OF_FOUR rows (R155). DESIGN CHOICE, log entry 120: POSITION counts the groups through the rows, 16 to a row. -/
def State.expandTwo (s v : State) (p i t0 : Nat) (f : KnWord) : State :=
  (List.range f.nr).foldl (fun s r =>
    let meta_ := v.bankRead p (64 * f.index + 8 * r) 8
    let vals := v.bankRead p (64 * (f.value + r * keptLines f.vfmt)) (fmtBytes f.vfmt 32)
    let gs := (List.range 16).map (fun g =>
      expandGroup (leNat [meta_.getD (g / 2) 0] / (if g % 2 = 0 then 1 else 16) % 16) (elemAt f.vfmt vals (2 * g))
        (elemAt f.vfmt vals (2 * g + 1)))
    let s1 := s.unitWrite p .knight f.pre (64 * (f.dst + r * pitchLines f.vfmt)) (elemBytes f.vfmt (gs.flatMap (fun g => g.1)))
    (List.range 16).foldl (fun s g =>
      if (gs.getD g ([], false)).2 then s.malformed p f.pre 0x0302 i (t0 + r * f.beats) (16 * r + g) else s) s1) s

/-- The dense row of a block row: each contributing non-zero's pattern at its column. -/
def State.denseRow (v : State) (p : Nat) (f : KnWord) (h : BlkHdr) (start : Nat) (zs : List NonZero) : List Nat :=
  (List.range 64).map (fun c =>
    ((List.range zs.length).foldl (fun acc k =>
      let z := zs.getD k ⟨64, .nan, false⟩
      if z.ok && z.index == c then v.arrElem p (f.rowptr + h.val) f.vfmt (start + k) else acc) 0))

/-- EXPAND of a BLOCKED operand (R145, R146): dense rows for dense-path blocks; zero rows for sparse-path blocks in the
training class, nothing in the inference class. -/
def State.expandBlocked (s v : State) (p i t0 : Nat) (f : KnWord) : State :=
  let pl := pitchLines f.vfmt
  let map := v.pathMap p f
  (List.range f.kc).foldl (fun s j =>
    if isBit map j then
      let h := v.blkHdr p f.rowptr j
      let rows := v.blkRows p f j
      (List.range 64).foldl (fun s m =>
        let q := rows.getD m (0, [])
        s.unitWrite p .knight f.pre (64 * (f.dst + (64 * j + m) * pl)) (elemBytes f.vfmt (v.denseRow p f h q.1 q.2)))
        (s.blkFaults v p f i j (t0 + 64 * j * f.beats))
    else if f.inference then s
    else (List.range 64).foldl (fun s m =>
      s.unitWrite p .knight f.pre (64 * (f.dst + (64 * j + m) * pl)) (List.replicate (rowData f.vfmt) 0)) s) s

/-- The rank of an element of a group (R153): NaN, then infinity, then finite values by magnitude, zeros last. -/
def rankAbove (a b : Num) : Bool :=
  match a, b with
  | .nan, .nan => false
  | .nan, _ => true
  | _, .nan => false
  | x, y => Num.lt y.abs x.abs

/-- The slot of the highest-ranked element among `slots`; equal ranks go to the lower slot. -/
def bestSlot (vals : List Num) : List Nat → Option Nat
  | [] => none
  | k :: ks => match bestSlot vals ks with
    | none => some k
    | some q => if rankAbove (vals.getD q .nan) (vals.getD k .nan) then some q else some k

/-- The two kept slots of a group in ascending order. -/
def keepTwo (vals : List Num) : Nat × Nat :=
  let a := (bestSlot vals [0, 1, 2, 3]).getD 0
  let b := (bestSlot vals ([0, 1, 2, 3].filter (fun k => k != a))).getD 0
  (min a b, max a b)

/-- PRUNE and COMPRESS of NR rows (R153, R154): the dropped non-zeros are counted by `drop`, which gets the row and the group, 16 to a row (log
entry 120). -/
def State.twoOfFour (s v : State) (p : Nat) (f : KnWord) (drop : State → Nat → Nat → State) : State :=
  (List.range f.nr).foldl (fun s r =>
    let bs := v.bankRead p (64 * (f.src + r * pitchLines f.vfmt)) (rowData f.vfmt)
    let pats := (List.range 64).map (elemAt f.vfmt bs)
    let canon := fun k => let x := pats.getD k 0
      if (fmtDecode f.vfmt x).isNan then (match fmtOf f.vfmt with
        | some q => q.nan
        | none => x) else x
    let kept := (List.range 16).map (fun g => keepTwo (((pats.drop (4 * g)).take 4).map (fmtDecode f.vfmt)))
    let vals := (List.range 16).flatMap (fun g => let q := kept.getD g (0, 1); [canon (4 * g + q.1), canon (4 * g + q.2)])
    let nibs := kept.map (fun q => q.1 + 4 * q.2)
    let s1 := s.unitWrite p .knight f.pre (64 * (f.value + r * keptLines f.vfmt)) (elemBytes f.vfmt vals)
    let s2 := s1.unitWrite p .knight f.pre (64 * f.index + 8 * r) (elemBytes 6 nibs)
    (List.range 16).foldl (fun s g =>
      let q := kept.getD g (0, 1)
      ([0, 1, 2, 3].filter (fun k => k != q.1 && (k != q.2 && !(fmtDecode f.vfmt (pats.getD (4 * g + k) 0)).isZero))).foldl
        (fun s _ => drop s r (16 * r + g)) s) s2) s

/-! ### PLAN, SEGMENT and the merges (R143, R144, R148, R152) -/

/-- PLAN (R144). -/
def State.knPlan (s v : State) (p i t0 : Nat) (f : KnWord) : State :=
  let hs := (List.range f.kc).map (fun j => v.blkHdr p f.rowptr j)
  let dense := hs.map (fun h => !(h.bad f.rowptr f.vfmt) && decide (f.t < h.nnz))
  let map := (List.range f.kc).foldl (fun a j => a + b2n (dense.getD j false) * 2 ^ j) 0
  let s1 := (List.range f.kc).foldl (fun s j =>
    if (hs.getD j ⟨0, 0, 0, 0, 0⟩).bad f.rowptr f.vfmt then s.malformed p f.pre 0x0304 i (t0 + j) j else s) s
  let s2 := s1.unitWrite p .knight f.pre (64 * f.aux) (leBytes 8 map)
  (s2.countS f.pre (Reg.tlKnCount p 7) ((dense.filter (fun b => b)).length)).countS f.pre (Reg.tlKnCount p 6)
    ((dense.filter (fun b => !b)).length)

/-- Segments of a row of L non-zeros (R148). -/
def segCount (l : Nat) : Nat := if l = 0 then 0 else if l ≤ 4096 then 1 else (l + 4095) / 4096

/-- A Knight work item (R149). -/
def knItem (row start len item seg segs : Nat) : List Byte :=
  leBytes 4 row ++ leBytes 4 start ++ leBytes 2 len ++ leBytes 2 item ++ leBytes 1 seg ++ leBytes 1 segs
    ++ leBytes 1 (if segs = 1 then 0 else 1) ++ leBytes 1 0

/-- The items of the rows from row r on, the next item numbered `item` (R148). -/
def knItems : Nat → Nat → List (Nat × Nat) → List (List Byte)
  | _, _, [] => []
  | r, item, (st, len) :: rest =>
    let n := segCount len
    (List.range n).map (fun k => knItem r (st + 4096 * k) (if k + 1 = n then len - 4096 * k else 4096) (item + k) k n)
      ++ knItems (r + 1) (item + n) rest

/-- SEGMENT (R148): items wait in the tile for the PUBLISH slots, item k of row r from cycle t0 + r + k + 8 on (R139); empty rows write +0 to their result row. -/
def State.knSegment (s v : State) (p i t0 : Nat) (f : KnWord) : State :=
  let ptrs := v.rawPtrs p f.rowptr f.nr
  let spans := rowSpans f.nnzMax ptrs
  let items := knItems 0 0 spans
  let before := fun r => ((spans.take r).map (fun q => segCount q.2)).foldl (· + ·) 0
  let s1 := s.ptrFaults p f.pre i f.nnzMax (fun r => t0 + r + before r) ptrs
  let s2 := (List.range spans.length).foldl (fun s r =>
    if (spans.getD r (0, 0)).2 = 0 then s.unitWrite p .knight f.pre (64 * f.dst + 256 * r) (List.replicate 256 0) else s) s1
  (s2.modTile p (fun ts => { ts with
    publish := ts.publish ++ (List.range items.length).map (fun k => ⟨t0 + leAt (items.getD k []) 0 4 + k + 8, f.list, items.getD k []⟩) })).countS f.pre
    (Reg.tlKnCount p 9) items.length

/-- The FP32 row of 64 elements at a byte address. -/
def State.f32Row (v : State) (p a : Nat) : List Nat := (List.range 64).map (fun c => leNat (v.bankRead p (a + 4 * c) 4))

/-- Final rows of split rows (R152). -/
def mergeRows (v : State) (p : Nat) (f : KnWord) : Nat → Nat → List (Nat × Nat) → List (Nat × List (Nat × Bool))
  | _, _, [] => []
  | r, item, (_, len) :: rest =>
    let n := segCount len
    let tail := mergeRows v p f (r + 1) (item + n) rest
    if n ≤ 1 then tail
    else
      let parts := (List.range n).map (fun k => v.f32Row p (64 * f.aux + 256 * (item + k)))
      (r, (List.range 64).map (fun c => treePlain (parts.map (fun q => f32 (q.getD c 0))))) :: tail

/-- KN_MERGE SEG (R152). -/
def State.knMergeSeg (s v : State) (p i t0 : Nat) (f : KnWord) : State :=
  let ptrs := v.rawPtrs p f.rowptr f.nr
  let rows := mergeRows v p f 0 0 (rowSpans f.nnzMax ptrs)
  let s1 := s.ptrFaults p f.pre i f.nnzMax (fun _ => t0) ptrs
  rows.foldl (fun s r =>
    (s.unitWrite p .knight f.pre (64 * f.dst + 256 * r.1) (r.2.flatMap (fun x => leBytes 4 x.1))).countS f.pre
      (Reg.tlAccOvfCount p) ((r.2.filter (fun x => x.2)).length)) s1

/-- One row of KN_MERGE ACC (R143): accumulators, checksum pair, overflows. -/
def mergeAccRow (f : KnWord) (n m : Nat) (x : TileState × Nat) : TileState × Nat :=
  let a := x.1.accRow f.buf m n
  let b := x.1.bufRow f.buf m n
  let rs := List.zipWith (fun u v => f32Add u v) a b
  let ov := ((List.zipWith (fun (uv : Nat × Nat) r => f32Finite uv.1 && (f32Finite uv.2 && !f32Finite r)) (a.zip b) rs).filter
    (fun q => q)).length
  let cs := toF32 (Num.add (f32 (x.1.csAt f.buf m)) (exactSum (b.map f32)))
  let ab := toF32 (Num.add (f32 (x.1.absAt f.buf m)) (exactSum (b.map (fun q => (f32 q).abs))))
  (((x.1.setAccRow f.buf m 0 rs).setCs f.buf m cs ab), x.2 + ov)

/-- KN_MERGE ACC (R143, R159). -/
def State.knMergeAcc (s : State) (p : Nat) (f : KnWord) : State :=
  let ts := s.tile p
  let a := ts.accSet f.buf
  let x := (List.range f.m).foldl (fun x m => mergeAccRow f a.heldN m x) (ts, 0)
  (s.setTile p (x.1.putSet f.buf { a with mode := 1, spec := a.spec || f.pre || ts.bufSpec f.buf })).countS f.pre
    (Reg.tlAccOvfCount p) x.2

/-! ### Runs of lines, and the operation as a whole -/

/-- The lines of the arrays of block `j` and of the dense source rows that its contributing non-zeros index; EXPAND reads no source. -/
def State.blkRuns (v : State) (p : Nat) (f : KnWord) (src : Bool) (j : Nat) : List LineRun :=
  let h := v.blkHdr p f.rowptr j
  let hdr := byteRun (64 * f.rowptr + 16 * j) 16
  if h.bad f.rowptr f.vfmt || h.nnz == 0 || h.rows == 0 then [hdr]
  else
    let rows := v.blkRows p f j
    [hdr, byteRun (64 * (f.rowptr + h.ptr)) (4 * (h.rows + 1))]
    ++ rows.flatMap (fun q => [byteRun (64 * (f.rowptr + h.idx) + 2 * q.1) (2 * q.2.length),
        byteRun (64 * (f.rowptr + h.val) + q.1 * fmtBits f.vfmt / 8) (fmtBytes f.vfmt q.2.length)])
    ++ (if src then rows.flatMap (fun q => (q.2.filter (fun z => z.ok)).map (fun z =>
        ⟨f.src + (64 * j + z.index) * pitchLines f.vfmt, pitchLines f.vfmt⟩)) else [])

/-- The lines that positions [start, start + len) of a SEGMENTED operand and their dense source rows lie in. -/
def State.segRuns (v : State) (p : Nat) (f : KnWord) (start len : Nat) : List LineRun :=
  let iw := if f.ifmt = 0 then 2 else 4
  [byteRun (64 * f.index + iw * start) (iw * len), byteRun (64 * f.value + start * fmtBits f.vfmt / 8) (fmtBytes f.vfmt len)]
  ++ ((v.segRow p f start len).filter (fun z => z.ok)).map (fun z => ⟨f.src + z.index * pitchLines f.vfmt, pitchLines f.vfmt⟩)

/-- The segment rows that MERGE SEG reads: those of the rows with more than one segment. -/
def segmentRuns (f : KnWord) : Nat → List (Nat × Nat) → List LineRun
  | _, [] => []
  | item, q :: rest =>
    let n := segCount q.2
    (if n ≤ 1 then [] else (List.range n).map (fun k => ⟨f.aux + 4 * (item + k), 4⟩)) ++ segmentRuns f (item + n) rest

/-- The lines that a Knight operation reads (R131, R179). -/
def State.knRuns (v : State) (p opcode : Nat) (f : KnWord) : List LineRun :=
  let ptrs := byteRun (64 * f.rowptr) (4 * (f.nr + 1))
  let spans := rowSpans f.nnzMax (v.rawPtrs p f.rowptr f.nr)
  if opcode = 0x10 then
    (if f.mode = 0 then
      byteRun (64 * f.index) (if f.l ≠ 0 then f.l * (if f.ifmt = 0 then 2 else 4) else (f.sRows + 7) / 8)
        :: (v.copyRows p f).filterMap (fun k => k.map (fun k => ⟨f.src + k * pitchLines f.vfmt, pitchLines f.vfmt⟩))
    else if f.mode = 1 then
      (if f.sfmt = 2 then ⟨f.aux, 1⟩ :: (v.pathBlocks p f false).flatMap (v.blkRuns p f true)
       else ptrs :: spans.flatMap (fun q => v.segRuns p f q.1 q.2))
    else (if f.sfmt = 2 then ⟨f.aux, 1⟩ :: (v.pathBlocks p f true).flatMap (v.blkRuns p f false)
      else [byteRun (64 * f.index) (8 * f.nr), ⟨f.value, f.nr * keptLines f.vfmt⟩]))
  else if opcode = 0x12 then
    (if f.mode = 0 then [byteRun (64 * f.rowptr) (16 * f.kc)] else if f.mode = 1 then [ptrs] else [⟨f.src, f.nr * pitchLines f.vfmt⟩])
  else if f.mode = 1 then ptrs :: segmentRuns f 0 spans
  else []

/-- The lines that a Knight operation writes. -/
def State.knWrites (v : State) (p opcode : Nat) (f : KnWord) : List LineRun :=
  let pl := pitchLines f.vfmt
  let spans := rowSpans f.nnzMax (v.rawPtrs p f.rowptr f.nr)
  if opcode = 0x10 then
    (if f.mode = 0 then ⟨f.dst, (v.copyRows p f).length * pl⟩ :: (if f.l = 0 then [⟨f.aux, 1⟩] else [])
    else if f.mode = 1 then []
    else if f.sfmt = 2 then
      (if f.inference then v.pathBlocks p f true else List.range f.kc).map (fun j => ⟨f.dst + 64 * j * pl, 64 * pl⟩)
    else [⟨f.dst, f.nr * pl⟩])
  else if opcode = 0x12 then
    (if f.mode = 0 then [⟨f.aux, 1⟩]
    else if f.mode = 1 then
      ((List.range spans.length).filter (fun r => (spans.getD r (0, 0)).2 == 0)).map (fun r => ⟨f.dst + 4 * r, 4⟩)
    else [⟨f.value, f.nr * keptLines f.vfmt⟩, byteRun (64 * f.index) (8 * f.nr)])
  else if f.mode = 1 then
    ((List.range spans.length).filter (fun r => decide (1 < segCount (spans.getD r (0, 0)).2))).map (fun r => ⟨f.dst + 4 * r, 4⟩)
  else []

/-- The cycles D that an operation takes on the data it meets (R139). -/
def State.knCycles (v : State) (p opcode : Nat) (f : KnWord) : Nat :=
  let spans := rowSpans f.nnzMax (v.rawPtrs p f.rowptr f.nr)
  let sum := fun (l : List Nat) => l.foldl (· + ·) 0
  if opcode = 0x10 then
    (if f.mode = 0 then (if f.l ≠ 0 then 0 else (f.sRows + 511) / 512) + (v.copyRows p f).length * f.beats + 8
    else if f.mode = 1 then
      (if f.sfmt = 2 then sum ((v.pathBlocks p f false).map (v.blkCycles p f)) else sum (spans.map (fun q => max 1 q.2))) + 18
    else (if f.sfmt = 2 then f.kc * 64 else f.nr) * f.beats + 8)
  else if opcode = 0x12 then
    (if f.mode = 0 then f.kc + 8 else if f.mode = 1 then f.nr + sum (spans.map (fun q => segCount q.2)) + 8 else f.nr * f.beats + 8)
  else if f.mode = 0 then f.m + 6
  else sum (spans.map (fun q => if segCount q.2 ≤ 1 then 0 else segCount q.2)) + 6

/-- The mode code that TL_KN_STATUS shows for an opcode and its mode (R161). -/
def knModeCode (opcode mode : Nat) : Nat :=
  if opcode = 0x10 then 1 + mode else if opcode = 0x12 then 4 + mode else 8 + mode

/-- Each corrected codeword of a Knight operation's reads is one Knight stall of it (R139): operation `o`, the newest of tile `p`. -/
def State.knStalls (s : State) (p n : Nat) (o : OpRun) : State :=
  (s.countS o.pre (Reg.tlKnCount p 10) n).delayOp p ((s.tile p).ops.length - 1) { o with lostA := o.lostA ++ List.replicate n o.first }

/-- What a Knight operation `o` meets at the ports: ECC, stalls, contention, owner violations, residue (R139, R141, R167, R172, R179). -/
def State.knPort (s : State) (p : Nat) (o : OpRun) (env : OpEnv) (runs writes : List LineRun) : State :=
  let e := s.bankEcc p env.flips (accesses (s.openReads p .knight o.pre s.offset runs))
  let s1 := ((e.1.beginOp p o).knStalls p e.2.length o).clashes p env.clashes
  let s2 := s1.ownerCheck p (s.blockedReads p .knight o.pre runs ++ s.blockedWrites p .knight o.pre writes)
  if env.residue then s2.tileError p 0x0913 0 else s2

/-- A static Knight operation: opcode and mode select the action (R137). `act` gets the state, the engine's view of it, the tile, OP_INDEX and
t0. A word that requests no operation is only passed (R16); one with DYNAMIC is kept for the claimed items that run under it (R151). -/
def State.knOp (s : State) (opcode mode t : Nat) (env : OpEnv) (act : State → State → Nat → Nat → Nat → KnWord → State) : State :=
  match s.start t (fun w => wOpcode w == opcode && bits w 51 48 == mode) with
  | none => s
  | some (w, i, s0) =>
    let p := s0.phys t
    let f := knWord w (s0.param t (bits w 78 71))
    let t0 := wOffset w
    if f.isDyn opcode then s0.modTile p (fun ts => { ts with dynOp := i })
    else if f.idle opcode then s0
    else
      let v0 := s0.view p .knight f.pre
      let o : OpRun := ⟨2, f.pre, false, i, knModeCode opcode mode, t0, t0, t0 + v0.knCycles p opcode f - 1, f.guard, 0, 1, [], []⟩
      let s1 := s0.knPort p o { env with residue := env.residue && mode == 1 && opcode == 0x10 } (v0.knRuns p opcode f)
        (v0.knWrites p opcode f)
      act s1 (s1.view p .knight f.pre) p i t0 f

/-- KN_COPY (R142). -/
def execKnCopy (t : Tile) (env : OpEnv) (s : State) : Host.Outcome State Fault Refusal :=
  .next (s.knOp 0x10 0 t.val env (fun s v p i t0 f => s.knCopy v p i t0 f))

/-- KN_ACCUMULATE (R141, R151). -/
def execKnAccumulate (t : Tile) (env : OpEnv) (s : State) : Host.Outcome State Fault Refusal :=
  .next (s.knOp 0x10 1 t.val env (fun s v p i t0 f => s.knAccumulate v p i t0 f))

/-- KN_EXPAND (R155, R145, R146). -/
def execKnExpand (t : Tile) (env : OpEnv) (s : State) : Host.Outcome State Fault Refusal :=
  .next (s.knOp 0x10 2 t.val env (fun s v p i t0 f => if f.sfmt = 2 then s.expandBlocked v p i t0 f else s.expandTwo v p i t0 f))

/-- KN_PLAN (R144). -/
def execKnPlan (t : Tile) (env : OpEnv) (s : State) : Host.Outcome State Fault Refusal :=
  .next (s.knOp 0x12 0 t.val env (fun s v p i t0 f => s.knPlan v p i t0 f))

/-- KN_SEGMENT (R148). -/
def execKnSegment (t : Tile) (env : OpEnv) (s : State) : Host.Outcome State Fault Refusal :=
  .next (s.knOp 0x12 1 t.val env (fun s v p i t0 f => s.knSegment v p i t0 f))

/-- KN_PRUNE (R153): each dropped non-zero adds one to the pruned count. -/
def execKnPrune (t : Tile) (env : OpEnv) (s : State) : Host.Outcome State Fault Refusal :=
  .next (s.knOp 0x12 2 t.val env (fun s v p _ _ f => s.twoOfFour v p f (fun s _ _ => s.countS f.pre (Reg.tlKnCount p 5) 1)))

/-- KN_COMPRESS (R154): each dropped non-zero is malformed input. -/
def execKnCompress (t : Tile) (env : OpEnv) (s : State) : Host.Outcome State Fault Refusal :=
  .next (s.knOp 0x12 3 t.val env (fun s v p i t0 f => s.twoOfFour v p f (fun s r g => s.malformed p f.pre 0x0301 i (t0 + r * f.beats) g)))

/-- KN_MERGE_ACC (R143). -/
def execKnMergeAcc (t : Tile) (env : OpEnv) (s : State) : Host.Outcome State Fault Refusal :=
  .next (s.knOp 0x11 0 t.val env (fun s _ p _ _ f => s.knMergeAcc p f))

/-- KN_MERGE_SEG (R152). -/
def execKnMergeSeg (t : Tile) (env : OpEnv) (s : State) : Host.Outcome State Fault Refusal :=
  .next (s.knOp 0x11 1 t.val env (fun s v p i t0 f => s.knMergeSeg v p i t0 f))

/-- One report of a Knight operation whose stalls exceeded its guard (R139). -/
def State.reportKnightLate (s : State) (p : Nat) : State :=
  if 0 < (s.tile p).lateKnight then (s.modTile p (fun ts => { ts with lateKnight := ts.lateKnight - 1 })).tileError p 0x0912 0 else s

/-- KNIGHT_LATE (R139). -/
def execKnightLate (t : Tile) (s : State) : Host.Outcome State Fault Refusal := .next (s.reportKnightLate (s.phys t.val))

end Sys2Proof.Machine
end

