-- ==== Sys2Proof/Machine/Drain.lean ====
section
/-! DEFINITION. The fused drain (R60 to R63, R67, R89 to R92), its activations and derivatives (R308), the checksum test
(R101, R102), tensor scale slots (R121, R122), calibration (R118) and the gradient record (R324). -/

namespace Sys2Proof.Machine

/-! ### Activations (R61, R62) and derivatives (R308) -/

/-- Activation u of t (R61): exact at infinities, and elsewhere with the free amount of R62 (log entry 3). SIGMOID and TANH rise, and
TANH(−t) is exactly −TANH(t). -/
def activation (act alpha t : Nat) : Nat :=
  let x := f32 t
  if x.isNan then f32Nan
  else
    match act with
    | 1 => if Num.lt (.fin false 0 0) x then t else 0
    | 2 => if Num.lt x (.fin false 0 0) then f32Mul alpha t else t
    | 3 => if x.isFin then within 3 t 2 (geluTanhRn x) else geluTanhRn x
    | 4 => if x.isFin then within 4 t 2 (geluErfRn x) else geluErfRn x
    | 5 => if x.isFin then within 5 t 2 (siluRn x) else siluRn x
    | 6 => if x.isFin then capOne (withinRising 6 (f32Rank t) 2 (sigmoidRn x)) else sigmoidRn x
    | 7 =>
      if x.isFin then capOne (withinRising 7 (f32Rank (t % 2 ^ 31)) 2 (tanhRn x.abs)) + 2 ^ 31 * bit t 31 else tanhRn x
    | _ => t

/-- σ(x) as a plain fixed-point number. -/
def fxSig (x : Int) : Int := let r := fxSigmoid x; r.1 / ((2 ^ (-r.2).toNat : Nat) : Int)

/-- The derivative of an activation at a finite PRE value in fixed point, for the activations that R308 bounds. -/
def fxDeriv (act : Nat) (z : Int) : Int :=
  match act with
  | 3 =>
    let c := 2 * fxSqrt (2 * fxOne * fxOne / fxPi)
    let a := fxMul c (z + 44715 * fxMul z (fxMul z z) / 1000000)
    let a' := fxMul c (fxOne + 3 * 44715 * fxMul z z / 1000000)
    let s := fxSig a
    s + fxMul (fxMul z (fxMul s (fxOne - s))) a'
  | 4 =>
    let phi := fxExp (-(fxMul z z) / 2)
    let p := phi.1 / ((2 ^ (-phi.2).toNat : Nat) : Int) * fxOne / fxSqrt (2 * fxPi)
    (fxOne + fxErf (z * fxOne / fxSqrt (2 * fxOne))) / 2 + fxMul z p
  | 5 => let s := fxSig z; fxMul s (fxOne + fxMul z (fxOne - s))
  | 6 => let s := fxSig z; fxMul s (fxOne - s)
  | _ => let s := fxSig (2 * z); 4 * fxMul s (fxOne - s)

/-- Whether an FP32 pattern lies within 4 units in the last place of an exact value, or within 2^−22 of it, whichever is larger (R308). -/
def derivNear (q : Nat) (x : Num) : Bool :=
  let u := match x with
    | .fin _ m e => if m == 0 then -149 else max (expOf m e - 23) (-149)
    | _ => -149
  f32Finite q && !Num.lt (.fin false 1 (max (u + 2) (-22))) (Num.sub (f32 q) x).abs

/-- A derivative: any FP32 value within the bound of R308 of the exact one, by the free amount of log entry 3. -/
def derivWithin (act z : Nat) (v : Int) : Nat :=
  let r := toF32 (fxNum v 0)
  let k := Config.ulps (100 + act) z
  let q := f32OfRank (decide (k < 0)) (f32Rank r + k)
  if derivNear q (fxNum v 0) then q else r

/-- The derivative d from a saved PRE value (R308). -/
def derivPre (act alpha z : Nat) : Nat :=
  match f32 z with
  | .nan => f32Nan
  | .inf n =>
    match act with
    | 0 => f32One
    | 2 => if n then alpha else f32One
    | 6 => 0
    | 7 => 0
    | _ => if n then 0 else f32One
  | .fin n m e =>
    match act with
    | 0 => f32One
    | 1 => if !n && m != 0 then f32One else 0
    | 2 => if n && m != 0 then alpha else f32One
    | _ =>
      if m != 0 && 4 ≤ expOf m e && (act == 3 || act == 4) then derivWithin act z (if n then 0 else fxOne)
      else if m != 0 && 8 ≤ expOf m e then derivWithin act z (if n || act == 6 || act == 7 then 0 else fxOne)
      else derivWithin act z (fxDeriv act (Num.toFx (.fin n m e)))

/-- The derivative d from a saved POST value (R308). -/
def derivPost (act alpha y : Nat) : Nat :=
  let x := f32 y
  if x.isNan then f32Nan
  else
    match act with
    | 0 => f32One
    | 1 => if Num.lt (.fin false 0 0) x then f32One else 0
    | 2 => if Num.lt x (.fin false 0 0) then alpha else f32One
    | 6 => f32Mul y (f32Sub f32One y)
    | 7 => f32Sub f32One (f32Mul y y)
    | _ => f32One

/-! ### The word, its record and the BACKWARD record -/

structure DrainWord where
  param : Nat
  calib : Bool
  src : Nat
  deriv : Bool
  act : Nat
  prop : Bool
  fmt : Nat
  m : Nat
  m0 : Nat
  set : Nat
  srcLine : Nat
  dstLine : Nat
  deriving DecidableEq, Repr

/-- Cycles per row of a DRAIN (R90). -/
def DrainWord.beat (f : DrainWord) : Nat := if f.fmt = 7 then 2 else 1

/-- The fields of a DRAIN word (R234). -/
def drainWord (w : Nat) : DrainWord where
  param := bits w 112 105
  calib := isBit w 104
  src := bits w 103 102
  deriv := isBit w 101
  act := bits w 100 97
  prop := isBit w 96
  fmt := bits w 95 92
  m := bits w 91 85
  m0 := bits w 84 79
  set := bit w 78
  srcLine := bits w 77 63
  dstLine := bits w 62 48

/-- Record r of a BACKWARD section (R307). -/
def backRecord (bs : List Byte) (r : Nat) : List Byte := (bs.drop (8 + 32 * r)).take 32

/-- The BACKWARD record of the DRAIN at OP_INDEX i of the present plan (R307). -/
def State.backOf (s : State) (t i : Nat) : Option (List Byte) :=
  let bs := s.tileSection 0x31 0 t
  ((List.range (leAt bs 0 2)).map (backRecord bs)).find? (fun r => leAt r 0 1 == s.plan && leAt r 2 2 == i)

/-! ### Scale slots (R121) -/

/-- The exponent of a slot, or its previous exponent. -/
def State.slotExp (s : State) (p i : Nat) (lag : Bool) : Int :=
  if lag then signed 8 (s.fld (Reg.tlQntSlotAmax p i) 31 24) else signed 8 (s.fld (Reg.tlQntSlotCtl p i) 31 24)

/-- The exponent that a slot byte of a TYPE 2 record names, 0 when it names none (bit 7 valid, bit 6 lag 1). -/
def State.namedExp (s : State) (p b : Nat) : Int := if isBit b 7 then s.slotExp p (b % 16) (isBit b 6) else 0

/-- An FP32 value multiplied by 2^k, rounded once. -/
def f32Scale (v : Nat) (k : Int) : Nat := if k = 0 then v else toF32 (Num.mul (f32 v) (Num.pow2 k))

/-- The loss-scale exponent e of the present step (R326). -/
def State.lossExp (s : State) : Int := signed 8 (s.fld Reg.netLossCtl 7 0)

/-- Scale and bias of column n before R121 (R89, R115). -/
def State.drainScale (s v : State) (t p : Nat) (f : DrainWord) (prm : List Byte) (n : Nat) : Nat × Nat :=
  match f.src with
  | 1 => (leNat (v.bankRead p (64 * f.srcLine + 4 * n) 4), leNat (v.bankRead p (64 * f.srcLine + 256 + 4 * n) 4))
  | 2 => if fmtIsInt f.fmt then (s.reg (Reg.tlQntChRscale p n), s.reg (Reg.tlQntChRbias p n))
    else (s.reg (Reg.tlQntChScale p n), s.reg (Reg.tlQntChBias p n))
  | _ => (s.constant t (leAt prm 1 1), s.constant t (leAt prm 2 1))

/-- What the drain applies to every element: scale and bias by column, clip bounds, slope, slots. -/
structure DrainSet where
  scales : List (Nat × Nat)
  lo : Nat
  hi : Nat
  alpha : Nat
  outSlot : Option Nat
  deriving DecidableEq, Repr

/-- The drain's settings, with the factors of R121 and R310 applied. -/
def State.drainSet (s v : State) (t p n : Nat) (f : DrainWord) (prm : List Byte) (seed : Bool) : DrainSet :=
  let ob := leAt prm 6 1
  let eo := if isBit ob 7 then s.slotExp p (ob % 16) false else 0
  let k := s.namedExp p (leAt prm 7 1) + s.namedExp p (leAt prm 8 1) - eo
  { scales := (List.range n).map (fun c =>
      let sb := s.drainScale v t p f prm c
      let sc := f32Scale sb.1 k
      (if seed then f32Scale sc s.lossExp else sc, f32Scale sb.2 (-eo)))
    lo := f32Scale (s.constant t (leAt prm 3 1)) (-eo)
    hi := f32Scale (s.constant t (leAt prm 4 1)) (-eo)
    alpha := s.constant t (leAt prm 5 1)
    outSlot := if isBit ob 7 then some (ob % 16) else none }

/-! ### One element (R60) -/

/-- Step 4: the clip; a NaN passes, a zero equal to a zero bound passes (R63). -/
def clip (lo hi u : Nat) : Nat :=
  if Num.lt (f32 u) (f32 lo) then lo else if Num.lt (f32 hi) (f32 u) then hi else u

/-- Steps 2 to 4 of R60 on accumulator value a; `saved` is the derivative of a DERIV drain (R308). -/
def drainValue (f : DrainWord) (d : DrainSet) (n a : Nat) (saved : Option Nat) : Nat :=
  let sb := d.scales.getD n (f32One, 0)
  let t := f32Fma a sb.1 sb.2
  let u := match saved with
    | some q => f32Mul t q
    | none => activation f.act d.alpha t
  clip d.lo d.hi u

/-- What one element leaves behind: its output pattern, step-4 value and conversion event. -/
structure DrainElem where
  out : Nat
  v : Nat
  ev : CvtEvent
  deriving DecidableEq, Repr

/-- One output element; format 0x7 writes (s, c) unchanged (R67). -/
def drainElem (f : DrainWord) (d : DrainSet) (n sv cv a : Nat) (saved : Option Nat) : DrainElem :=
  if f.fmt = 7 then ⟨sv + cv * 2 ^ 32, a, .none⟩
  else
    let v := drainValue f d n a saved
    let r := narrow f.fmt f.prop (f32 v)
    ⟨r.1, v, r.2⟩

/-! ### Counting (R118, R122, R324) -/

/-- Slot counts of one converted value (R122). -/
def State.slotCount (s : State) (p slot fmt : Nat) (pre : Bool) (e : DrainElem) : State :=
  let x := f32 e.v
  let sat := e.ev == .sat || e.ev == .ovf
  let zero := if fmtIsInt fmt then e.out == 0 else (fmtDecode fmt e.out).isZero
  let under := x.isFin && (!x.isZero && (zero && e.ev == .none))
  let s1 := s.countS pre (Reg.tlQntSlotSat p slot) (b2n sat)
  let s2 := s1.countS pre (Reg.tlQntSlotUnder p slot) (b2n under)
  if x.isFin then
    s2.modTile p (fun t =>
      let m := e.v % 2 ^ 31
      if pre then
        (if (Sparse.get (fun _ => (0 : W32)) t.shadowAmax slot).toNat < m then
          { t with shadowAmax := Sparse.set (fun _ => 0) t.shadowAmax slot (W32.of m) } else t)
      else
        (if (Sparse.get (fun _ => (0 : W32)) t.amax slot).toNat < m then
          { t with amax := Sparse.set (fun _ => 0) t.amax slot (W32.of m) } else t))
  else s2

/-- CALIB records the least and greatest finite step-4 value of column n (R118). DESIGN CHOICE, log entry 114: of −0 and +0, the one met first
stays. -/
def State.calibrate (s : State) (p n v : Nat) : State :=
  if f32Finite v then
    let s1 := if Num.lt (f32 v) (f32 (s.reg (Reg.tlQntChMin p n))) then s.setReg (Reg.tlQntChMin p n) v else s
    if Num.lt (f32 (s1.reg (Reg.tlQntChMax p n))) (f32 v) then s1.setReg (Reg.tlQntChMax p n) v else s1
  else s

/-- Element `a` is met before `b` (R324): in an earlier cycle, else on a lower tile, else at a lower position. -/
def GradFirst.before (a b : GradFirst) : Bool :=
  decide (a.cycle < b.cycle) || (a.cycle == b.cycle && (decide (a.tile < b.tile) || (a.tile == b.tile && decide (a.pos < b.pos))))

/-- A non-finite element of a WEIGHT_GRAD drain, met in cycle `cyc` (R322, R324). The device keeps the first of the step: NET_VOTE_FIRST
shows it at once, and its record is written at the tick, since an operation that started later can still meet an earlier element. -/
def State.gradNonfinite (s : State) (t p cyc : Nat) (rec_ : List Byte) (i n : Nat) : State :=
  let s1 := s.count (Reg.tlTrnCount p 0) 1
  let s2 := { s1 with training := { s1.training with
    causes := if s1.training.formed then s1.training.causes else s1.training.causes ||| 1 } }
  let g : GradFirst := ⟨cyc, t, i * 64 + n, leAt rec_ 8 4, (leAt rec_ 16 8 + i * leAt rec_ 24 4 + n) % 2 ^ 40, !isBit (s2.reg Reg.netVoteFirst) 0⟩
  let take := fun (g : GradFirst) =>
    let s3 := { s2 with training := { s2.training with first := some g } }
    if g.shown then (s3.setReg Reg.netVoteFirst (g.offset * 2 ^ 24 + t * 2 ^ 14 + 1)).setReg Reg.netVoteFirstTensor
      (g.tensor * 2 ^ 32 + s3.stepNumber % 2 ^ 32)
    else s3
  if s2.training.firstDone then s2
  else match s2.training.first with
    | none => take g
    | some h => if g.before h then take { g with shown := h.shown } else s2

/-- The record of the first non-finite element of the step, once the move in which it was met is over (R324). -/
def State.gradRecord (s : State) : State :=
  match s.training.first with
  | none => s
  | some g => ({ s with training := { s.training with first := none, firstDone := true } }).event 0x08E3 sevERROR srcTile (tRef g.tile)
      [it8 s.stepNumber, it2 g.tile, itN 4 g.tensor, itN 5 g.offset]

/-- Counts everything one converted element counts, in cycle `cyc`. Format 0x7 converts nothing, but its step-4 values calibrate (R67, R118). -/
def State.drainCount (s : State) (t p op cyc : Nat) (f : DrainWord) (d : DrainSet) (pre : Bool) (grad : Option (List Byte))
    (i n : Nat) (e : DrainElem) : State :=
  let s0 := if f.calib then s.calibrate p n e.v else s
  if f.fmt = 7 then s0
  else
    let s1 := s0.cvt p pre op (2 * cyc) 0 ((f.m0 + i) * 64 + n) e.ev
    let s2 := match d.outSlot with
      | some k => s1.slotCount p k f.fmt pre e
      | none => s1
    match grad with
    | none => s2
    | some r =>
      if f32Finite e.v && (fmtIsInt f.fmt || (fmtDecode f.fmt e.out).isFin) then s2 else s2.gradNonfinite t p cyc r i n

/-! ### The checksum test (R101, R102) -/

/-- |cs − S| ≤ 2^−TOL × abs_cs, on exact values. -/
def csPasses (tol cs sum ab : Nat) : Bool :=
  !(Num.lt (Num.mul (f32 ab) (Num.pow2 (-(tol : Int)))) (Num.sub (f32 cs) (f32 sum)).abs)

/-- Tests one output row: the state and whether this row failed. -/
def State.csTest (s : State) (p op m : Nat) (pre : Bool) (a : AccSet) (cs ab : Nat) (vals : List Num) (failed : Bool) :
    State × Bool :=
  if !isBit (s.reg (Reg.tlArrCtl p)) 0 || !(a.mode == 1 || a.mode == 2) then (s, failed)
  else
    let sum := toF32 (exactSum vals)
    if a.mixed || !(f32Finite cs && (f32Finite ab && (f32Finite sum && vals.all Num.isFin))) then
      (s.countS pre (Reg.tlArrCsunchkCount p) 1, failed)
    else if csPasses (s.fld (Reg.tlArrCtl p) 12 8) cs sum ab then (s.countS pre (Reg.tlArrCspassCount p) 1, failed)
    else if failed then (s, true)
    else
      let diff := if a.spec then 0 else f32Sub cs sum
      let s1 := s.first (Reg.tlArrCsfail p) 15 (diff * 2 ^ 32 + op * 2 ^ 16 + 2 ^ 15 + m % 64)
      (s1.tileError p 0x0910 0, true)

/-! ### The operation -/

/-- The elements of output row m that the drain writes: columns below the held N, and only valid ones (R91, R287). -/
def State.drainCols (s : State) (t line n : Nat) : Nat :=
  match s.extentAt t line with
  | none => n
  | some e => ((List.range n).filter (fun c => e.validAt line c)).length

/-- The elements of output row `i`, from the accumulators of `ts`: steps 1 to 5 of R60. -/
def State.drainElems (v : State) (p : Nat) (f : DrainWord) (d : DrainSet) (a : AccSet) (back : Option (List Byte)) (ts : TileState) (i : Nat) :
    List DrainElem :=
  let m := f.m0 + i
  let comp := a.mode == 2
  let sv := ts.accRow f.set m a.heldN
  let cv := if comp then ts.accRow 1 m a.heldN else List.replicate a.heldN 0
  let av := if comp then (List.zipWith (fun q r => Num.add (f32 q) (f32 r)) sv cv).map toF32 else sv
  let saved := match back with
    | some r => if leAt r 1 1 = 1 then
        let fm := leAt r 6 1 % 16
        let bs := v.bankRead p (64 * (leAt r 4 2) + i * pitch fm) (pitch fm)
        (List.range a.heldN).map (fun n =>
          let z := toF32 (fmtDecode fm (elemAt fm bs n))
          some (if leAt r 7 1 = 0 then derivPre f.act d.alpha z else derivPost f.act d.alpha z))
      else List.replicate a.heldN none
    | none => List.replicate a.heldN none
  (List.range a.heldN).map (fun n => drainElem f d n (sv.getD n 0) (cv.getD n 0) (av.getD n 0) (saved.getD n none))

/-- The exact accumulator values of an output row. -/
def exactRow (f : DrainWord) (a : AccSet) (ts : TileState) (m : Nat) : List Num :=
  let sv := ts.accRow f.set m a.heldN
  if a.mode == 2 then List.zipWith (fun q r => Num.add (f32 q) (f32 r)) sv (ts.accRow 1 m a.heldN) else sv.map f32

/-- The cycle in which row `i` of a DRAIN is converted, stage 9 of R90: freezes that came before postpone it (R94). -/
def OpRun.convertsAt (o : OpRun) (i : Nat) : Nat :=
  let c := o.first + o.beat * i + 8
  c + (o.freezes.filter (fun x => decide (x < c))).length

/-- One output row: its elements, the write, the counts, the checksum test. `x` carries the state and whether a row failed. -/
def State.drainRow (v : State) (t p op w : Nat) (o : OpRun) (f : DrainWord) (d : DrainSet) (a : AccSet) (back : Option (List Byte))
    (x : State × Bool) (i : Nat) : State × Bool :=
  let pre := wPre w
  let ts := x.1.tile p
  let m := f.m0 + i
  let es := v.drainElems p f d a back ts i
  let line := f.dstLine + i * pitchLines f.fmt
  let k := v.drainCols t line a.heldN
  let grad := match back with
    | some r => if leAt r 1 1 = 2 then some r else none
    | none => none
  let s1 := (List.range k).foldl (fun s n => s.drainCount t p op (o.convertsAt i) f d pre grad i n (es.getD n ⟨0, 0, .none⟩)) x.1
  let s2 := s1.unitWriteAt p .drain pre (wOffset w + f.beat * i + 9) (64 * line) (elemBytes f.fmt ((es.take k).map (fun e => e.out)))
  s2.csTest p op m pre a (ts.csAt f.set m) (ts.absAt f.set m) (exactRow f a ts m) x.2

/-- The lines that a DRAIN reads: VECTOR parameters, in cycles t0 − 8 to t0 − 5, and saved rows, from t0 on. -/
def drainParams (f : DrainWord) : List LineRun := if f.src = 1 then [byteRun (64 * f.srcLine) 512] else []
def drainSaved (f : DrainWord) (back : Option (List Byte)) : List LineRun :=
  match back with
  | some r => if leAt r 1 1 = 1 then [⟨leAt r 4 2, f.m * pitchLines (leAt r 6 1 % 16)⟩] else []
  | none => []

/-- A DRAIN under way (R90, R95). -/
def drainRun (f : DrainWord) (pre dyn : Bool) (i t0 guard : Nat) : OpRun :=
  ⟨1, pre, dyn, i, 0, t0, t0, t0 + f.beat * f.m + 8, guard, f.m, f.beat, [], []⟩

/-- A DRAIN once started. One that starts after an error of R40 is not finished (R105). -/
def State.runDrain (s : State) (t i w : Nat) (env : OpEnv) : State :=
  let f := drainWord w
  let p := s.phys t
  let pre := wPre w
  let t0 := wOffset w
  if f.m = 0 ∨ s.job.err then s
  else
    let back := s.backOf t i
    let params := drainParams f
    let saved := drainSaved f back
    let e := s.bankEcc p env.flips (accesses (s.openReads p .drainParam pre (t0 - 8) params) ++ accesses (s.openReads p .drainParam pre t0 saved))
    let s1 := ((e.1.beginOp p (drainRun f pre false i t0 (wGuard w))).clashes p env.clashes).ownerCheck p
      (s.blockedReadsAt p .drainParam pre (t0 - 8) params ++ s.blockedReadsAt p .drainParam pre t0 saved
        ++ s.blockedWritesAt p .drain pre (t0 + 9) [⟨f.dstLine, f.m * pitchLines f.fmt⟩])
    let v := s1.viewAt p .drainParam pre t0
    let a := (s1.tile p).accSet f.set
    let seed := match back with
      | some r => leAt r 1 1 == 0
      | none => false
    let d := s1.drainSet (s1.viewAt p .drainParam pre (t0 - 8)) t p a.heldN f (s1.param t f.param) seed
    let o := ((s1.tile p).ops.getLast?).getD (drainRun f pre false i t0 (wGuard w))
    ((List.range f.m).foldl (fun x k => v.drainRow t p i w o f d a back x k) (s1, false)).1

/-- DRAIN (R90). -/
def execDrain (t : Tile) (env : OpEnv) (s : State) : Host.Outcome State Fault Refusal :=
  match s.start t.val (fun w => wOpcode w == 5) with
  | none => .next s
  | some (w, i, s1) => .next (s1.runDrain t.val i w env)

end Sys2Proof.Machine
end

