-- ==== Sys2Proof/Machine/Network.lean ====
section
/-! DEFINITION. The scheduled network (R184 to R208): slot tables, links and die crossings, STATIC and ADD slots, SEND and RECV. A
router stage and its link stage are one step: the row a slot sends stands at the input of the next router, two cycles later, or
six across a die crossing. -/

namespace Sys2Proof.Machine

/-! ### Slot tables (R188, R219, R221) -/

/-- A slot-table entry. -/
structure SlotEntry where
  out : Nat
  inp : Nat
  in2 : Nat
  kind : Nat
  fmt : Nat
  start : Nat
  count : Nat
  stride : Nat
  route : Nat
  deriving DecidableEq, Repr

def slotEntryOf (b : List Byte) : SlotEntry where
  out := leAt b 0 1 % 16
  inp := leAt b 0 1 / 16
  in2 := leAt b 1 1 % 16
  kind := bits (leAt b 1 1) 6 4
  fmt := leAt b 2 1 % 16
  start := leAt b 4 3
  count := leAt b 8 2
  stride := leAt b 10 2
  route := leAt b 12 2

/-- Entry `e` of the router at logical position `t`. -/
def State.slotEntry (s : State) (t e : Nat) : Option SlotEntry :=
  let bs := s.tileSection secSLOTS 0 t
  if e < leAt bs 0 2 then some (slotEntryOf ((bs.drop (16 + 16 * e)).take 16)) else none

/-- Whether a plan activates a route (R219). -/
def State.routeActive (s : State) (plan r : Nat) : Bool :=
  isBit (leAt (s.sectionBytes secROUTES plan 0 0 0) (8 + r / 8) 1) (r % 8)

/-- Slot `i` of entry `e`, when the entry has one of the kinds, its route is active, the device is RUNNING and not held (R30) and no
error of R40 ends the work of lists: the entry and the slot's cycle. -/
def State.slotAt (s : State) (t e i : Nat) (kinds : List Nat) : Option (SlotEntry × Nat) :=
  if s.running && (!s.held && (!s.job.err || kinds.all (fun k => decide (k ≤ 1)))) then
    match s.slotEntry t e with
    | none => none
    | some x =>
      if kinds.contains x.kind && (decide (i < x.count) && s.routeActive s.plan x.route) then some (x, x.start + i * x.stride) else none
  else none

/-- The same, where the slot is still to come: its cycle has not passed, and it has not been used (R22, R190). -/
def State.slotDue (s : State) (t e i : Nat) (kinds : List Nat) : Option (SlotEntry × Nat) :=
  match s.slotAt t e i kinds with
  | none => none
  | some x => if s.offset ≤ x.2 ∧ !s.slotsUsed.contains (t, e, i) then some x else none

/-- The offset has come to cycle `c`. -/
def State.atCycle (s : State) (c : Nat) : State := s.setFld Reg.netMoveOffset 23 0 c

/-- The slot is used in its cycle `c`. -/
def State.useSlot (s : State) (t e i c : Nat) : State :=
  let s1 := s.atCycle c
  { s1 with slotsUsed := s1.slotsUsed ++ [(t, e, i)] }

/-! ### Edge ports (R186, R187) -/

/-- What an edge port of the mesh joins: an HBM controller, a die-to-die lane, the I/O die, the list keeper. -/
inductive EdgePort where
  | hbm (controller : Nat)
  | lane (n : Nat)
  | ioDie (n : Nat)
  | keeper (n : Nat)
  deriving DecidableEq, Repr

/-- What a port code of the router at t joins at an edge of its die: both channels of an outer edge's position lead to HBM, an inner edge has
single ports at ten positions, which use channel 0; none at any other place. Keeper ports are numbered in the order of R201. -/
def edgePort (t port : Nat) : Option EdgePort :=
  let d := tDie t
  let horizontal := port == 5 || port == 6
  let pos := if horizontal then tX t else tY t
  let at_ := if horizontal then tY t else tX t
  let innerAt := if horizontal then (if d < 2 then 0 else 15) else if d % 2 = 0 then 15 else 0
  if port < 5 ∨ 8 < port then none
  else if at_ + innerAt = 15 then some (.hbm ((if horizontal then 0 else 2) + pos / 8))
  else if at_ = innerAt ∧ (port = 5 ∨ port = 7) then
    (if pos % 4 = 2 then some (.lane (pos / 4))
    else if pos % 8 = 0 then some (.ioDie (pos / 8))
    else if pos % 8 = 4 then some (.keeper ((if horizontal then 2 else 0) + pos / 8))
    else none)
  else none

/-- The edge port presents and takes rows of the schedule's sources beside the tiles: HBM and the I/O die (R185, R186). -/
def EdgePort.open (e : EdgePort) : Bool :=
  match e with
  | .hbm _ => true
  | .ioDie _ => true
  | _ => false

/-- The router at t has the edge port, and rows enter or leave the mesh there. -/
def openPort (t port : Nat) : Bool :=
  match edgePort t port with
  | some e => e.open
  | none => false

/-- The number of the keeper port that a port code of the router at t leads to. -/
def keeperPort (t port : Nat) : Option Nat :=
  match edgePort t port with
  | some (.keeper n) => some n
  | _ => none

/-! ### Links (R186, R187, R191) -/

/-- The router and input port that an output reaches, and the cycles from the slot to its arrival there; none where the output
leaves the mesh. North is the row above, y + 1 (log entry 18). -/
def hop (t port : Nat) : Option (Nat × Nat × Nat) :=
  let d := tDie t
  let y := tY t
  let x := tX t
  let at_ := fun d y x => d * 256 + y * 16 + x
  let lane := match edgePort t port with
    | some (.lane _) => true
    | _ => false
  match port with
  | 1 => if y < 15 then some (at_ d (y + 1) x, 3, 2) else none
  | 2 => if x < 15 then some (at_ d y (x + 1), 4, 2) else none
  | 3 => if 0 < y then some (at_ d (y - 1) x, 1, 2) else none
  | 4 => if 0 < x then some (at_ d y (x - 1), 2, 2) else none
  | 5 => if lane then some (at_ ((d + 2) % 4) (15 - y) x, 5, 6) else none
  | 7 => if lane then some (at_ (if d % 2 = 0 then d + 1 else d - 1) y (15 - x), 7, 6) else none
  | _ => none

/-! ### Ways through the slot tables (R190, R191) -/

/-- The cycles of an entry's slots. -/
def SlotEntry.cycles (e : SlotEntry) : List Nat := (List.range e.count).map (fun i => e.start + i * e.stride)

/-- The entries of the router at t whose route a plan activates, with their indices. -/
def State.activeSlots (s : State) (plan t : Nat) : List (Nat × SlotEntry) :=
  ((List.range (leAt (s.tileSection secSLOTS 0 t) 0 2)).filterMap (fun e => (s.slotEntry t e).map (fun x => (e, x)))).filter
    (fun q => s.routeActive plan q.2.route)

/-- A slot of a plan: router, entry index, slot index, entry, cycle. -/
structure Slot where
  t : Nat
  e : Nat
  i : Nat
  x : SlotEntry
  cyc : Nat
  deriving DecidableEq, Repr

/-- The slots of a router under a plan. -/
def State.slotsOf (s : State) (plan t : Nat) : List Slot :=
  (s.activeSlots plan t).flatMap (fun q => (List.range q.2.count).map (fun i => ⟨t, q.1, i, q.2, q.2.start + i * q.2.stride⟩))

/-- The output of another router drives, or is driven over, this port: the four mesh ports and the die-to-die lanes. -/
def meshPort (t port : Nat) : Bool := (hop t port).isSome

/-- The slot that puts a row at input `port` of router t in a cycle. -/
def State.feeder (s : State) (plan t port cyc : Nat) : Option Slot :=
  match hop t port with
  | none => none
  | some h => (s.slotsOf plan h.1).find? (fun q => match hop h.1 q.x.out with
    | none => false
    | some k => k.1 == t && (k.2.1 == port && q.cyc + k.2.2 == cyc))

/-- The slot that takes the row which a slot puts at a neighbouring router. -/
def State.taker (s : State) (plan : Nat) (q : Slot) : Option Slot :=
  match hop q.t q.x.out with
  | none => none
  | some k => (s.slotsOf plan k.1).find? (fun r => r.cyc == q.cyc + k.2.2 && (r.x.inp == k.2.1 || (r.x.kind == 1 && r.x.in2 == k.2.1)))

/-- The last slot of a row's way from a slot on: the one that leaves the mesh or reaches a tile. The row stands there two cycles later. -/
def State.wayEnd (s : State) (plan : Nat) : Nat → Slot → Slot
  | 0, q => q
  | fuel + 1, q => match s.taker plan q with
    | none => q
    | some r => State.wayEnd s plan fuel r

/-- The first slot of the way that leads to a slot. -/
def State.wayStart (s : State) (plan : Nat) : Nat → Slot → Slot
  | 0, q => q
  | fuel + 1, q => match s.feeder plan q.t q.x.inp q.cyc with
    | none => q
    | some r => State.wayStart s plan fuel r

/-! ### The check of rows (R207) -/

/-- DIE_NET_ECCFIRST keeps its first record, but one of 0x0917 replaces one of 0x0918 (R210). -/
def State.netEccFirst (s : State) (p code : Nat) (h : NetHit) : State :=
  let k := Reg.dieNetEccfirst (pDie p)
  let v := code * 2 ^ 48 + 2 ^ 32 + pX p * 2 ^ 27 + pY p * 2 ^ 23 + h.port % 16 * 2 ^ 19 + h.word % 4 * 2 ^ 17
    + (if h.double then 0x1FF else h.bit % 512) * 2 ^ 8
  if isBit (s.reg k) 32 && !(s.fld k 63 48 == 0x0918 && code == 0x0917) then s else s.setReg k v

/-- One flipped codeword: corrected and counted, or reported. -/
def State.netHit (s : State) (h : NetHit) : State :=
  let p := s.phys (h.router % 1024)
  if h.double then
    ((s.count (Reg.dieNetCount (pDie p) 1) 1).netEccFirst p 0x0917 h).tileError p 0x0917 (h.port % 16)
  else
    let s1 := (s.count (Reg.dieNetCount (pDie p) 0) 1).netEccFirst p 0x0918 h
    { s1 with retests := s1.retests ++ [⟨2, p, h.port % 16⟩] }

/-- The check of a row's codewords at the routers it passes: the state, and whether the row is lost. -/
def State.netEcc (s : State) (hs : List NetHit) : State × Bool := (hs.foldl State.netHit s, hs.any (fun h => h.double))

/-! ### Sources: SEND and edge ports (R185, R238) -/

/-- FIN of a row of 128 bytes sent in a format (R185): whether each element is finite; 1 for integers and rows without a format. -/
def rowFin (fmt : Nat) (bs : List Byte) : Bool :=
  if fmt ≤ 4 then (List.range (1024 / fmtBits fmt)).all (fun i => (fmtDecode fmt (elemAt fmt bs i)).isFin) else true

/-- The next row of the SEND of a route at a tile, with what its bank read meets; none where no SEND of the route has a row left, or the row
was computed after an uncorrectable error (R40). -/
def State.sendRow (s : State) (t route : Nat) (env : OpEnv) : State × Option NetRow :=
  let p := s.phys t
  match (s.tile p).sends.findIdx? (fun q => q.route == route && decide (q.done < q.rows)) with
  | none => (s, none)
  | some k =>
    match (s.tile p).sends[k]? with
    | none => (s, none)
    | some q =>
      let line := q.line + 2 * q.done
      let s1 := (((s.bankEcc p env.flips (s.openReads p .dma false s.offset [⟨line, 2⟩])).1.clashes p env.clashes).ownerCheck p
        (s.blockedReads p .dma false [⟨line, 2⟩]))
      let bs := (s1.view p .dma false).bankRead p (64 * line) 128
      (s1.modTile p (fun ts => { ts with sends := ts.sends.set k { q with done := q.done + 1 } }),
        if s.isLate p (64 * line) 128 then none else some ⟨route, bs, rowFin q.fmt bs⟩)

/-- Takes the row that stands at an input port in cycle `c`: a SEND's row at LOCAL, a row on a link, or a row that an edge port of HBM or of the
I/O die presents, whose FIN is 1 (R185, R186). -/
def State.takeRow (s : State) (t port c route : Nat) (env : NetEnv) : State × Option NetRow :=
  if port = 0 then s.sendRow t route env.bank
  else match s.wires.find? (fun w => w.router == t && (w.port == port && w.cycle == c)) with
    | some w => ({ s with wires := s.wires.filter (fun u => !(u.router == t && (u.port == port && u.cycle == c))) }, some w.row)
    | none =>
      if openPort t port then match env.edges.find? (fun e => e.1 == port) with
        | some e => (s, some ⟨route, padTo 128 e.2, true⟩)
        | none => (s, none)
      else (s, none)

/-! ### Destinations -/

/-- Writes a row that arrived at LOCAL for the RECV of its route (R238). -/
def State.recvRow (s : State) (t : Nat) (r : NetRow) : State :=
  let p := s.phys t
  match (s.tile p).recvs.findIdx? (fun q => q.route == r.route && decide (q.done < q.rows)) with
  | none => s
  | some k =>
    match (s.tile p).recvs[k]? with
    | none => s
    | some q =>
      let line := q.line + 2 * q.done
      let s1 := (s.ownerCheck p (s.blockedWrites p .dma false [⟨line, 2⟩])).unitWrite p .dma false (64 * line) r.bytes
      s1.modTile p (fun ts => { ts with recvs := ts.recvs.set k { q with done := q.done + 1 } })

/-- Sends a row out of a router in slot cycle `c`: to the tile, to the next router, or out of the mesh at an edge port. -/
def State.forward (s : State) (t port c : Nat) (r : NetRow) : State :=
  if port = 0 then s.recvRow t r
  else match hop t port with
    | some (u, q, n) => { s with wires := s.wires ++ [⟨u, q, c + n, r⟩] }
    | none => s

/-- SLOT_STATIC (R191, R207): slot `i` of entry `e` forwards the row at its input. -/
def execSlotStatic (t : Tile) (e i : Nat) (env : NetEnv) (s : State) : Host.Outcome State Fault Refusal :=
  match s.slotDue t.val e i [0] with
  | none => .next s
  | some (x, c) =>
    let r := (s.useSlot t.val e i c).takeRow t.val x.inp c x.route env
    match r.2 with
    | none => .next r.1
    | some row =>
      let k := r.1.netEcc (env.hits.filter (fun h => h.router == t.val && h.port == x.inp))
      if k.2 then .next k.1 else .next (k.1.forward t.val x.out c row)

/-! ### Adding in flight (R197) -/

/-- One element of a sum: its pattern, whether it overflowed, whether it is NaN. -/
def addElem (q : FFmt) (a b : Nat) : Nat × Bool × Bool :=
  let x := q.decode a
  let y := q.decode b
  let z := Num.add x y
  if z.isNan then (q.nan, false, true)
  else if x.isZero && (y.isZero && (x.isNeg && y.isNeg)) then (q.signBit true, false, false)
  else if z.isZero then (0, false, false)
  else
    let v := q.round z
    (v, z.isFin && !(q.decode v).isFin, false)

/-- The sum of two rows in a format: the row, elements overflowed, NaN elements. -/
def addRows (fmt : Nat) (a b : NetRow) : NetRow × Nat × Nat :=
  match fmtOf fmt with
  | none => (a, 0, 0)
  | some q =>
    let es := (List.range (1024 / fmtBits fmt)).map (fun i => addElem q (elemAt fmt a.bytes i) (elemAt fmt b.bytes i))
    let vs := es.map (fun (e : Nat × Bool × Bool) => e.1)
    (⟨a.route, elemBytes fmt vs, a.fin && (b.fin && vs.all (fun v => (q.decode v).isFin))⟩,
      (es.filter (fun e => e.2.1)).length, (es.filter (fun e => e.2.2)).length)

/-- SLOT_ADD (R197): the rows at IN and IN2 leave as their sum. -/
def execSlotAdd (t : Tile) (e i : Nat) (env : NetEnv) (s : State) : Host.Outcome State Fault Refusal :=
  match s.slotDue t.val e i [1] with
  | none => .next s
  | some (x, c) =>
    let r := (s.useSlot t.val e i c).takeRow t.val x.inp c x.route env
    let q := r.1.takeRow t.val x.in2 c x.route env
    match r.2, q.2 with
    | some a, some b =>
      let k := q.1.netEcc (env.hits.filter (fun h => h.router == t.val && (h.port == x.inp || h.port == x.in2)))
      if k.2 then .next k.1
      else
        let z := addRows x.fmt { a with route := x.route } b
        .next (((k.1.count (Reg.dieNetCount (tDie t.val) 2) z.2.1).count (Reg.dieNetCount (tDie t.val) 3) z.2.2).forward t.val x.out c z.1)
    | _, _ => .next q.1

/-! ### SEND and RECV (R238) -/

/-- Opens a SEND or RECV from its word. -/
def netOpen (w i : Nat) : NetOpen := ⟨bits w 63 48, bits w 78 64, bits w 90 79, 0, bits w 94 91, i⟩

/-- SEND (R238): opens the rows for the route's LOCAL slots. -/
def execSend (t : Tile) (s : State) : Host.Outcome State Fault Refusal :=
  match s.start t.val (fun w => wOpcode w == 0x42) with
  | none => .next s
  | some (w, i, s1) => .next (s1.modTile (s1.phys t.val) (fun ts => { ts with sends := ts.sends ++ [netOpen w i] }))

/-- RECV (R238): rows that arrive in the route's LOCAL slots go to the tile. -/
def execRecv (t : Tile) (s : State) : Host.Outcome State Fault Refusal :=
  match s.start t.val (fun w => wOpcode w == 0x43) with
  | none => .next s
  | some (w, i, s1) => .next (s1.modTile (s1.phys t.val) (fun ts => { ts with recvs := ts.recvs ++ [netOpen w i] }))

end Sys2Proof.Machine
end

