-- ==== Sys2Proof/Machine/Vector.lean ====
section
/-! DEFINITION. The vector engine: element operations (R236, R237), channel quantisation (R116, R119), router choices and early
exit (R338 to R341), the norm and the optimiser (R328 to R331), and reduce and gather blocks (R410 to R415, R425, R426). An
operation reads its sources as they stand when it starts and acts whole in the step that starts it (log entry 13). -/

namespace Sys2Proof.Machine

/-- The fields of a vector operation's word (R236). -/
structure VecWord where
  const : Nat
  ovf : Bool
  fmt : Nat
  rows : Nat
  dst : Nat
  src2 : Nat
  src1 : Nat
  pre : Bool
  deriving DecidableEq, Repr

def vecWord (w : Nat) : VecWord where
  const := bits w 125 118
  ovf := isBit w 117
  fmt := bits w 116 113
  rows := bits w 112 105
  dst := bits w 104 84
  src2 := bits w 83 69
  src1 := bits w 68 48
  pre := wPre w

/-- Port cycles of a row's access, c of R237. -/
def VecWord.c (f : VecWord) : Nat := if f.src1 % 64 = 0 ∧ f.dst % 64 = 0 then 1 else 2

/-! ### Stored rows -/

/-- The element patterns of a row of 64 at a byte address. -/
def State.rowAt (v : State) (p a fmt : Nat) : List Nat :=
  let bs := v.bankRead p a (fmtBytes fmt 64)
  (List.range 64).map (elemAt fmt bs)

/-- A row of 64 as values. -/
def State.valsAt (v : State) (p a fmt : Nat) : List Num := (v.rowAt p a fmt).map (fmtDecode fmt)

/-- A row of 64 as FP32 patterns: every stored format widens exactly (R236). -/
def State.f32At (v : State) (p a fmt : Nat) : List Nat := (v.valsAt p a fmt).map toF32

/-- `rows` accesses of `n` bytes each, from `a` on, pass the byte-lane rotator when they start off a line boundary (R164). -/
def State.misaligned (s : State) (p a n rows : Nat) : State :=
  s.count (Reg.tlBankCount p (12 + bankOf a)) (rows * rotatorAccesses a n)

/-- The lines that each of `rows` rows of 64 elements from byte address `a` touches, a row to an access (R164, R236). -/
def rowRuns (a fmt rows : Nat) : List LineRun := (List.range rows).map (fun i => byteRun (a + i * pitch fmt) (fmtBytes fmt 64))

/-! ### Element operations (R237, R116) -/

/-- −0 below +0; a NaN operand gives the canonical NaN. -/
def vecMax (a b : Nat) : Nat :=
  if (f32 a).isNan || (f32 b).isNan then f32Nan
  else if f32Rank a < f32Rank b then b
  else if f32Rank b < f32Rank a then a
  else if isBit a 31 then b else a

def vecMin (a b : Nat) : Nat :=
  if (f32 a).isNan || (f32 b).isNan then f32Nan
  else if f32Rank a < f32Rank b then a
  else if f32Rank b < f32Rank a then b
  else if isBit a 31 then a else b

/-- The integer format of the channels, as a format code. -/
def State.chanFmt (s : State) (p : Nat) : Nat := if s.fld (Reg.tlQntChanCtl p) 0 0 = 0 then 5 else 6

/-- The zero point of a channel. -/
def State.chanZero (s : State) (p n : Nat) : Int := signed 8 (s.fld (Reg.tlQntChZero p n) 7 0)

/-- Operands of one element: sources, present destination, constant, tile, column. -/
structure VecIn where
  a : Nat
  b : Nat
  d : Nat
  c : Nat
  n : Nat
  deriving DecidableEq, Repr

/-- The value of one element before narrowing (R237, R116). -/
def State.vecValue (s : State) (p opcode : Nat) (x : VecIn) : Num :=
  match opcode with
  | 0x20 => f32 (f32Add x.a x.b)
  | 0x21 => f32 (f32Sub x.a x.b)
  | 0x22 => f32 (f32Mul x.a x.b)
  | 0x23 => f32 (f32Fma x.a x.b x.d)
  | 0x24 => f32 (f32Fma x.c x.a x.b)
  | 0x25 => f32 (vecMax x.a x.b)
  | 0x26 => f32 (vecMin x.a x.b)
  | 0x29 => f32 (vecExp x.a)
  | 0x2A => f32 (vecRecip x.a)
  | 0x2B => f32 (vecRsqrt x.a)
  | 0x30 => f32 (f32Fma x.a (s.reg (Reg.tlQntChRscale p x.n)) (s.reg (Reg.tlQntChRbias p x.n)))
  | 0x31 =>
    let q := (fmtDecode (s.chanFmt p) x.a).roundInt
    f32 (toF32 (Num.add (Num.mul (Num.int (q - s.chanZero p x.n)) (f32 (s.reg (Reg.tlQntChScale p x.n))))
      (f32 (s.reg (Reg.tlQntChBias p x.n)))))
  | _ => f32 x.a

/-- The format that an operation's first source is read in, and the format it writes. -/
def State.vecSrcFmt (s : State) (p opcode fmt : Nat) : Nat := if opcode = 0x31 then s.chanFmt p else fmt
def State.vecOutFmt (s : State) (p opcode : Nat) (f : VecWord) : Nat :=
  if opcode = 0x27 then f.const % 16 else if opcode = 0x30 then s.chanFmt p else f.fmt

/-- Whether an operation reads the second source, and the constant. -/
def vecHasSrc2 (opcode : Nat) : Bool := decide (0x20 ≤ opcode) && decide (opcode ≤ 0x26)

/-- One result row: output patterns and conversion events. `v` is the state as the engine reads it. -/
def State.vecRow (v : State) (t p opcode : Nat) (f : VecWord) (i : Nat) : List (Nat × CvtEvent) :=
  let sf := v.vecSrcFmt p opcode f.fmt
  let ofm := v.vecOutFmt p opcode f
  let sa := f.src1 + i * pitch sf
  let a := if opcode = 0x31 then v.rowAt p sa sf else v.f32At p sa sf
  let b := if vecHasSrc2 opcode then v.f32At p (64 * f.src2 + i * pitch f.fmt) f.fmt else []
  let d := if opcode = 0x23 then v.f32At p (f.dst + i * pitch f.fmt) f.fmt else []
  let c := if opcode = 0x24 then v.constant t f.const else 0
  (List.range 64).map (fun n =>
    narrow ofm f.ovf (v.vecValue p opcode ⟨a.getD n 0, b.getD n 0, d.getD n 0, c, n⟩))

/-- The cycle in which operation `o` does what its schedule sets `n` cycles after its start: lost cycles postpone it (R172). -/
def OpRun.vecAt (o : OpRun) (n : Nat) : Nat := o.first + n + (o.lostA.filter (fun c => decide (c < o.first + n))).length

/-- Counts the conversion events of row `i` of operation `o`, which is converted `n` cycles after the start (R68, R69, R237). -/
def State.cvtRow (s : State) (p : Nat) (o : OpRun) (n i : Nat) (es : List (Nat × CvtEvent)) : State :=
  (List.range es.length).foldl (fun s k =>
    s.cvt p o.pre o.opIndex (2 * o.vecAt n + 1) (i / 64) (i % 64 * 64 + k) (es.getD k (0, .none)).2) s

/-! ### What a vector operation meets at the banks -/

/-- ECC, port contention and owner checks of a vector operation `o` (R164, R167, R171, R172, R179). -/
def State.vecPort (s : State) (p : Nat) (o : OpRun) (env : OpEnv) (reads writes : List LineRun) : State :=
  let e := s.bankEcc p env.flips (s.openReads p .vector o.pre s.offset reads)
  ((e.1.beginOp p o).clashes p env.clashes).ownerCheck p (s.blockedReads p .vector o.pre reads ++ s.blockedWrites p .vector o.pre writes)

/-- Starts a vector word that `ok` admits and that ends `last` cycles after its start, and runs `act` on the state, the engine's view of it and
the operation. ROWS 0 requests no operation (R16). -/
def State.vecOp (s : State) (t : Nat) (env : OpEnv) (ok : Nat → Bool) (last : State → VecWord → Nat)
    (reads writes : State → Nat → VecWord → List LineRun) (act : State → State → Nat → OpRun → VecWord → State) : State :=
  match s.start t ok with
  | none => s
  | some (w, i, s0) =>
    let p := s0.phys t
    let f := vecWord w
    if f.rows = 0 then s0
    else
      let t0 := wOffset w
      let o : OpRun := ⟨3, f.pre, false, i, 0, t0, t0, t0 + last s0 f, wGuard w, 0, 1, [], []⟩
      let s1 := s0.vecPort p o env (reads s0 p f) (writes s0 p f)
      act s1 (s1.view p .vector f.pre) p (((s1.tile p).ops.getLast?).getD o) f

/-- Lines that an element operation reads and writes. -/
def State.vecReads (s : State) (p opcode : Nat) (f : VecWord) : List LineRun :=
  rowRuns f.src1 (s.vecSrcFmt p opcode f.fmt) f.rows
    ++ (if vecHasSrc2 opcode then rowRuns (64 * f.src2) f.fmt f.rows else [])
    ++ (if opcode = 0x23 then rowRuns f.dst f.fmt f.rows else [])
def State.vecWrites (s : State) (p opcode : Nat) (f : VecWord) : List LineRun := rowRuns f.dst (s.vecOutFmt p opcode f) f.rows

/-- The rows of an element operation: each is converted, counted and written in turn. VEC_FMA reads its destination too (R164, R237). -/
def State.vecRows (s v : State) (t p opcode : Nat) (o : OpRun) (f : VecWord) : State :=
  let ofm := v.vecOutFmt p opcode f
  let s1 := (s.misaligned p f.src1 (fmtBytes (v.vecSrcFmt p opcode f.fmt) 64) f.rows).misaligned p f.dst (fmtBytes ofm 64)
    (if opcode = 0x23 then 2 * f.rows else f.rows)
  (List.range f.rows).foldl (fun s r =>
    let es := v.vecRow t p opcode f r
    (s.cvtRow p o ((r + 1) * f.c + 11) r es).unitWrite p .vector f.pre (f.dst + r * pitch ofm) (elemBytes ofm (es.map (fun e => e.1)))) s1

/-- An element operation as a whole. -/
def State.vecElem (s : State) (opcode t : Nat) (env : OpEnv) : State :=
  s.vecOp t env (fun w => wOpcode w == opcode) (fun _ f => f.rows * f.c + 11)
    (fun s p f => s.vecReads p opcode f) (fun s p f => s.vecWrites p opcode f)
    (fun s v p o f => s.vecRows v t p opcode o f)

/-- VEC_ADD (R237). -/
def execVecAdd (t : Tile) (env : OpEnv) (s : State) : Host.Outcome State Fault Refusal := .next (s.vecElem 0x20 t.val env)
/-- VEC_SUB (R237). -/
def execVecSub (t : Tile) (env : OpEnv) (s : State) : Host.Outcome State Fault Refusal := .next (s.vecElem 0x21 t.val env)
/-- VEC_MUL (R237). -/
def execVecMul (t : Tile) (env : OpEnv) (s : State) : Host.Outcome State Fault Refusal := .next (s.vecElem 0x22 t.val env)
/-- VEC_FMA (R237). -/
def execVecFma (t : Tile) (env : OpEnv) (s : State) : Host.Outcome State Fault Refusal := .next (s.vecElem 0x23 t.val env)
/-- VEC_AXPY (R237). -/
def execVecAxpy (t : Tile) (env : OpEnv) (s : State) : Host.Outcome State Fault Refusal := .next (s.vecElem 0x24 t.val env)
/-- VEC_MAX (R237). -/
def execVecMax (t : Tile) (env : OpEnv) (s : State) : Host.Outcome State Fault Refusal := .next (s.vecElem 0x25 t.val env)
/-- VEC_MIN (R237). -/
def execVecMin (t : Tile) (env : OpEnv) (s : State) : Host.Outcome State Fault Refusal := .next (s.vecElem 0x26 t.val env)
/-- VEC_CVT (R237). -/
def execVecCvt (t : Tile) (env : OpEnv) (s : State) : Host.Outcome State Fault Refusal := .next (s.vecElem 0x27 t.val env)
/-- VEC_EXP (R237, R62). -/
def execVecExp (t : Tile) (env : OpEnv) (s : State) : Host.Outcome State Fault Refusal := .next (s.vecElem 0x29 t.val env)
/-- VEC_RECIP (R237, R62). -/
def execVecRecip (t : Tile) (env : OpEnv) (s : State) : Host.Outcome State Fault Refusal := .next (s.vecElem 0x2A t.val env)
/-- VEC_RSQRT (R237, R62). -/
def execVecRsqrt (t : Tile) (env : OpEnv) (s : State) : Host.Outcome State Fault Refusal := .next (s.vecElem 0x2B t.val env)
/-- VEC_QUANT (R116). -/
def execVecQuant (t : Tile) (env : OpEnv) (s : State) : Host.Outcome State Fault Refusal := .next (s.vecElem 0x30 t.val env)
/-- VEC_DEQUANT (R116). -/
def execVecDequant (t : Tile) (env : OpEnv) (s : State) : Host.Outcome State Fault Refusal := .next (s.vecElem 0x31 t.val env)

/-! ### Calibration (R114, R119) -/

/-- Recomputes the derived registers of a channel (R114). -/
def State.chanDerive (s : State) (p n : Nat) : State :=
  let r := f32Div f32One (s.reg (Reg.tlQntChScale p n))
  let b := toF32 (Num.sub (Num.int (s.chanZero p n)) (Num.mul (f32 (s.reg (Reg.tlQntChBias p n))) (f32 r)))
  (s.setReg (Reg.tlQntChRscale p n) r).setReg (Reg.tlQntChRbias p n) b

/-- Sets step, zero point and offset of a channel. -/
def State.setChan (s : State) (p n step : Nat) (zero : Int) (bias : Nat) : State :=
  (((s.setReg (Reg.tlQntChScale p n) step).setReg (Reg.tlQntChZero p n) (unsigned 8 zero)).setReg (Reg.tlQntChBias p n) bias).chanDerive p n

/-- Sets every MIN to +∞ and every MAX to −∞. -/
def State.chanForget (s : State) (p n : Nat) : State :=
  (s.setReg (Reg.tlQntChMin p n) f32PInf).setReg (Reg.tlQntChMax p n) f32NInf

/-- VEC_QCAL on one channel (R119). -/
def State.chanCal (s : State) (p n : Nat) : State :=
  let lo := f32 (s.reg (Reg.tlQntChMin p n))
  let hi := f32 (s.reg (Reg.tlQntChMax p n))
  let w := if s.chanFmt p = 5 then 8 else 4
  let s1 :=
    if Num.lt hi lo then s
    else
      let range := Num.sub hi lo
      if Num.lt range (Num.pow2 (-24)) then
        (s.setChan p n f32One 0 (s.reg (Reg.tlQntChMin p n))).count (Reg.tlQntConstCount p) 1
      else
        let st := toF32 (Num.div range (Num.int (intMax w - intMin w)))
        let q := (Num.div lo (f32 st)).roundInt
        let z := max (intMin w) (min (intMax w) (intMin w - q))
        s.setChan p n st z 0
  s1.chanForget p n

/-- VEC_QCAL (R119). -/
def execVecQcal (t : Tile) (env : OpEnv) (s : State) : Host.Outcome State Fault Refusal :=
  .next (s.vecOp t.val env (fun w => wOpcode w == 0x32) (fun _ _ => 75) (fun _ _ _ => []) (fun _ _ _ => [])
    (fun s _ p _ _ => (List.range 64).foldl (fun s n => s.chanCal p n) s))

/-! ### Router choices and early exit (R337 to R341) -/

/-- A TOPK record (R337). -/
structure TopkRec where
  mode : Nat
  gate : Nat
  e : Nat
  base : Nat
  thresh : Nat
  domain : Nat
  deriving DecidableEq, Repr

def State.topkRec (s : State) (t i : Nat) : TopkRec :=
  let r := ((s.tileSection 0x40 0 t).drop (8 + 16 * i)).take 16
  ⟨leAt r 0 1, leAt r 1 1, leAt r 2 2, leAt r 4 4, leAt r 8 4, leAt r 12 1⟩

/-- Rows per token. -/
def TopkRec.h (r : TopkRec) : Nat := (r.e + 63) / 64

/-- The E scores of token `i`, as FP32 patterns. -/
def State.scores (v : State) (p : Nat) (f : VecWord) (r : TopkRec) (i : Nat) : List Nat :=
  ((List.range r.h).flatMap (fun k => v.f32At p (f.src1 + (i * r.h + k) * pitch f.fmt) f.fmt)).take r.e

/-- The index of the highest score among those not excluded, ties to the lower index. -/
def bestScore (xs : List Nat) (skip : Option Nat) : Option Nat :=
  (List.range xs.length).foldl (fun (acc : Option Nat) i =>
    if skip = some i then acc
    else match acc with
      | none => some i
      | some j => if Num.lt (f32 (xs.getD j 0)) (f32 (xs.getD i 0)) then some i else acc) none

/-- w_i of R339. -/
def topkWeight (m s : Nat) : Nat :=
  if s = m || (!Num.lt (f32 s) (f32 m) && !Num.lt (f32 m) (f32 s)) then f32One
  else if f32 s = .inf true || f32 m = .inf false then 0
  else
    vecExp (f32Sub s m)

/-- Σw, the exact window sum of R53 rounded once. -/
def topkSum (ws : List Nat) : Nat := (treePlain (ws.map f32)).1

/-- A choice record without its token (R340): E1, E2, G1, G2. -/
def topkChoice (r : TopkRec) (xs : List Nat) : Nat × Nat × Nat × Nat :=
  if xs.any (fun x => (f32 x).isNan) then (0xFFFF, 0xFFFF, 0, 0)
  else
    match bestScore xs none with
    | none => (0xFFFF, 0xFFFF, 0, 0)
    | some e1 =>
      let m := xs.getD e1 0
      let e2 := if r.mode = 1 then bestScore xs (some e1) else none
      let w := fun i => topkWeight m (xs.getD i 0)
      match e2 with
      | none => (e1, 0xFFFF, if r.gate = 0 then f32Div (w e1) (topkSum (xs.map (topkWeight m))) else f32One, 0)
      | some j =>
        if r.gate = 0 then
          let sw := topkSum (xs.map (topkWeight m))
          (e1, j, f32Div (w e1) sw, f32Div (w j) sw)
        else
          let den := f32Add f32One (w j)
          (e1, j, f32Div f32One den, f32Div (w j) den)

/-- Counts a token with a NaN score: TL_DYN_COUNT[1] and TL_DYN_FIRST (R339, R367). -/
def State.dynFirst (s : State) (p : Nat) (pre : Bool) (code op pos : Nat) : State :=
  s.firstS pre (Reg.tlDynFirst p) 31 (code * 2 ^ 48 + op % 2 ^ 16 * 2 ^ 32 + 2 ^ 31 + pos % 2 ^ 16)

/-- The lines that a VEC_TOPK or a VEC_NORM reads. -/
def topkReads (f : VecWord) : List LineRun := rowRuns f.src1 f.fmt f.rows

/-- The two areas that a VEC_TOPK of n tokens writes: address and bytes of each (R340, R341). -/
def TopkRec.writes (r : TopkRec) (f : VecWord) : List (Nat × Nat) :=
  let n := f.rows / r.h
  if r.mode = 2 then [(f.dst, 8 * n), (f.dst + alignUp (8 * n) 64, alignUp ((n + 7) / 8) 64)] else [(f.dst, 16 * n)]

/-- The misaligned accesses of a VEC_TOPK: a row of scores to a read, and each area written is one transfer (R164; log entry 122). -/
def State.topkRotator (s : State) (p : Nat) (f : VecWord) (r : TopkRec) : State :=
  (r.writes f).foldl (fun s a => s.countRotator p a.1 a.2) (s.misaligned p f.src1 (fmtBytes f.fmt 64) f.rows)

/-- TOP1 and TOP2 (R340). -/
def State.runTopk (s v : State) (p i : Nat) (f : VecWord) (r : TopkRec) : State :=
  let n := f.rows / r.h
  (List.range n).foldl (fun s k =>
    let xs := v.scores p f r k
    let c := topkChoice r xs
    let nan := xs.any (fun x => (f32 x).isNan)
    let s1 := if nan then (s.countS f.pre (Reg.tlDynCount p 1) 1).dynFirst p f.pre 0x0603 i k
      else s.countS f.pre (Reg.tlDynCount p 0) 1
    s1.unitWrite p .vector f.pre (f.dst + 16 * k)
      (leBytes 4 (r.base + k) ++ (leBytes 2 c.1 ++ (leBytes 2 c.2.1 ++ (leBytes 4 c.2.2.1 ++ leBytes 4 c.2.2.2)))))
    (s.topkRotator p f r)

/-- EXIT for one token (R341): class, retire, confidence. -/
def topkExit (r : TopkRec) (xs : List Nat) : Nat × Bool × Nat :=
  if xs.any (fun x => (f32 x).isNan) then (0xFFFF, false, f32Nan)
  else
    match bestScore xs none with
    | none => (0xFFFF, false, f32Nan)
    | some e1 =>
      let m := xs.getD e1 0
      let c := f32Div f32One (topkSum (xs.map (topkWeight m)))
      (e1, !Num.lt (f32 c) (f32 r.thresh), c)

/-- Adds survivors to a decision domain (R341, R358). -/
def State.addSurvivors (s : State) (d n : Nat) : State :=
  { s with domSums := Sparse.set (fun _ => 0) s.domSums d (min (Sparse.get (fun _ => 0) s.domSums d + n) 0xFFFFFFFF) }

/-- EXIT (R341). -/
def State.runExit (s v : State) (p i : Nat) (f : VecWord) (r : TopkRec) : State :=
  let n := f.rows / r.h
  let res := (List.range n).map (fun k => let xs := v.scores p f r k; (topkExit r xs, xs.any (fun x => (f32 x).isNan)))
  let s1 := (List.range n).foldl (fun s k =>
    let e := res.getD k ((0, false, 0), false)
    let s1 := if e.2 then (s.count (Reg.tlDynCount p 1) 1).dynFirst p false 0x0603 i k else s
    let s2 := s1.count (Reg.tlDynCount p (if e.1.2.1 then 2 else 3)) 1
    s2.unitWrite p .vector false (f.dst + 8 * k)
      (leBytes 2 e.1.1 ++ (leBytes 2 (b2n e.1.2.1) ++ leBytes 4 e.1.2.2))) (s.topkRotator p f r)
  let bm := (List.range n).foldl (fun (b : Nat) k => if (res.getD k ((0, true, 0), false)).1.2.1 then b else b + 2 ^ k) 0
  let s2 := s1.unitWrite p .vector false (f.dst + alignUp (8 * n) 64) (leBytes (alignUp ((n + 7) / 8) 64) bm)
  s2.addSurvivors r.domain ((res.filter (fun e => !e.1.2.1)).length)

/-- A VEC_TOPK whose record's mode `m` admits (R338). -/
def State.vecTopk (s : State) (t : Nat) (env : OpEnv) (m : Nat → Bool) (act : State → State → Nat → Nat → VecWord → TopkRec → State) : State :=
  s.vecOp t env (fun w => wOpcode w == 0x38 && m (s.topkRec t (bits w 125 118)).mode) (fun _ f => 2 * f.rows * f.c + 20)
    (fun _ _ f => topkReads f) (fun s _ f => ((s.topkRec t f.const).writes f).map (fun a => byteRun a.1 a.2))
    (fun s v p o f => act s v p o.opIndex f (s.topkRec t f.const))

/-- VEC_TOPK in modes TOP1 and TOP2 (R340). -/
def execVecTopk (t : Tile) (env : OpEnv) (s : State) : Host.Outcome State Fault Refusal :=
  .next (s.vecTopk t.val env (fun m => m != 2) (fun s v p i f r => s.runTopk v p i f r))

/-- VEC_TOPK in mode EXIT (R341). -/
def execVecTopkExit (t : Tile) (env : OpEnv) (s : State) : Host.Outcome State Fault Refusal :=
  .next (s.vecTopk t.val env (fun m => m == 2) (fun s v p i f r => s.runExit v p i f r))

/-! ### The training record (R321) -/

/-- The TRAINING section. -/
def State.trainSec (s : State) : List Byte := s.devSection 0x32

/-- The group and optimiser records of the TRAINING section. -/
def State.clipGroup (s : State) (g : Nat) : List Byte := (s.trainSec.drop (160 + 16 * g)).take 16
def State.optimRec (s : State) (j : Nat) : List Byte := (s.trainSec.drop (160 + 16 * leAt s.trainSec 12 2 + 32 * j)).take 32

/-! ### The norm (R328) -/

def ExactSum.num (x : ExactSum) : Num :=
  if x.kind = 0 then .fin false x.m x.e else if x.kind = 1 then .inf false else .nan

def ExactSum.ofNum : Num → ExactSum
  | .fin _ m e => ⟨0, m, e⟩
  | .inf _ => ⟨1, 0, 0⟩
  | .nan => ⟨2, 0, 0⟩

def State.normOf (s : State) (d g : Nat) : ExactSum := Sparse.get (fun _ => ExactSum.zero) s.normAcc (d * 256 + g)

/-- Adds an FP32 value to a die's exact accumulator and shows its rounding in DIE_TRN_NORM (R328). -/
def State.addNorm (s : State) (d g v : Nat) : State :=
  let x := Num.add (s.normOf d g).num (f32 v)
  ({ s with normAcc := Sparse.set (fun _ => ExactSum.zero) s.normAcc (d * 256 + g) (ExactSum.ofNum x) }).setReg
    (Reg.dieTrnNorm d g) (toF32 x)

/-- VEC_NORM (R328): each element times 2^−e, the exact sum of squares rounded once. -/
def State.runNorm (s v : State) (t p : Nat) (f : VecWord) : State :=
  let xs := (List.range f.rows).flatMap (fun i => v.f32At p (f.src1 + i * pitch f.fmt) f.fmt)
  let bad := (xs.filter (fun x => !f32Finite x)).length
  let ys := xs.map (fun x => f32 (f32Scale x (-s.lossExp)))
  let sum := toF32 (exactSum (ys.map (fun y => Num.mul y y)))
  let s1 := (s.misaligned p f.src1 (fmtBytes f.fmt 64) f.rows).count (Reg.tlTrnCount p 0) bad
  let s2 := if bad = 0 ∨ s1.training.formed then s1
    else { s1 with training := { s1.training with causes := s1.training.causes ||| 8 } }
  s2.addNorm (tDie t) f.const sum

/-- VEC_NORM (R328). -/
def execVecNorm (t : Tile) (env : OpEnv) (s : State) : Host.Outcome State Fault Refusal :=
  .next (s.vecOp t.val env (fun w => wOpcode w == 0x39) (fun _ f => f.rows * f.c + 11) (fun _ _ f => topkReads f) (fun _ _ _ => [])
    (fun s v p _ f => s.runNorm v t.val p f))

/-! ### The optimiser (R327, R329 to R331) -/

/-- The factor f_g of a clip group, from its total N_g and the loss-scale exponent (R327); a group that clips by value, or not at all, takes
2^−e. -/
def State.clipFactor (s : State) (g : Nat) : Nat :=
  let r := s.clipGroup g
  let k := if leAt r 0 1 = 1 then
      (let n := (Sparse.get (fun _ => (0 : W32)) s.training.totals g).toNat
      if (f32 n).isZero then f32One
      else
        let q := f32Div (leAt r 4 4) (f32Sqrt n)
        if Num.lt (f32 q) (f32 f32One) then q else f32One)
    else f32One
  f32Scale k (-s.lossExp)

/-- The gradient that the update uses, with the factor formed when the final vote landed (R327). -/
def State.clipGrad (s : State) (g x : Nat) : Nat :=
  let r := s.clipGroup g
  let c := leAt r 4 4
  let y := f32Mul x (Sparse.get (fun _ => (0 : W32)) s.training.factors g).toNat
  if leAt r 0 1 = 2 then vecMin (vecMax y (c + 2 ^ 31)) c else y

/-- The learning-rate factor of step `n` (R331). -/
def knotFactor (bs : List Byte) (count n : Nat) : Nat :=
  let st := fun i => leAt bs (32 + 8 * i) 4
  let fa := fun i => leAt bs (36 + 8 * i) 4
  if n ≤ st 0 then fa 0
  else
    match (List.range (count - 1)).find? (fun i => decide (n < st (i + 1))) with
    | none => fa (count - 1)
    | some i =>
      let q := f32Div (toF32 (Num.int ((n : Int) - (st i : Int)))) (toF32 (Num.int ((st (i + 1) : Int) - (st i : Int))))
      f32Add (fa i) (f32Mul (f32Sub (fa (i + 1)) (fa i)) q)

/-- A positive value with its significand cut to 300 bits. -/
def cut300 : Num → Num
  | .fin n m e => let k := Nat.log2 m - 300; .fin n (m / 2 ^ k) (e + (k : Int))
  | y => y

/-- x^n by squaring, `fuel` binary digits of n. -/
def powNum : Nat → Num → Nat → Num
  | 0, _, _ => .fin false 1 0
  | fuel + 1, x, n =>
    let r := powNum fuel (cut300 (Num.mul x x)) (n / 2)
    if n % 2 = 1 then cut300 (Num.mul x r) else r

/-- 1 / (1 − β^t) within 2 units in the last place (R330). -/
def biasCorr (op beta t : Nat) : Nat :=
  within op (beta * 2 ^ 64 + t) 2 (toF32 (Num.div (.fin false 1 0) (Num.sub (.fin false 1 0) (powNum 64 (f32 beta) t))))

/-- What one optimiser record fixes for a step: β1, β2, ε, WD, −lr, ĉ1, ĉ2. -/
structure OptSet where
  adam : Bool
  beta1 : Nat
  beta2 : Nat
  eps : Nat
  wd : Nat
  nlr : Nat
  c1 : Nat
  c2 : Nat
  deriving DecidableEq, Repr

/-- The settings of optimiser record `r` at a learning-rate factor, with its bias corrections. -/
def optSet (r : List Byte) (factor c1 c2 : Nat) : OptSet :=
  let lr := f32Mul (leAt r 4 4) factor
  { adam := leAt r 0 1 == 1, beta1 := leAt r 8 4, beta2 := leAt r 12 4, eps := leAt r 16 4, wd := leAt r 20 4
    nlr := if isBit lr 31 then lr - 2 ^ 31 else lr + 2 ^ 31
    c1 := c1, c2 := c2 }

/-- A final vote that lands true forms each group's factor, and each record's two bias corrections at update NET_TRN_UPDATES + 1, once for the
step (R327, R330). -/
def State.formFactors (s : State) : State :=
  let bs := s.trainSec
  let t := s.reg Reg.netTrnUpdates + 1
  { s with training := { s.training with
      factors := (List.range (leAt bs 12 2)).foldl (fun m g => Sparse.set (fun _ => 0) m g (W32.of (s.clipFactor g))) []
      corrs := (List.range (leAt bs 14 2)).foldl (fun m j => Sparse.set (fun _ => 0) m j
        (W64.of (biasCorr 30 (leAt (s.optimRec j) 8 4) t + biasCorr 31 (leAt (s.optimRec j) 12 4) t * 2 ^ 32))) [] } }

/-- One element's update (R330): w, m, v and g' give the new w, m, v. -/
def optElem (o : OptSet) (w m v g : Nat) : Nat × Nat × Nat :=
  if o.adam then
    let m1 := f32Fma o.beta1 m (f32Mul (f32Sub f32One o.beta1) g)
    let v1 := f32Fma o.beta2 v (f32Mul (f32Sub f32One o.beta2) (f32Mul g g))
    let r := f32Div (f32Mul m1 o.c1) (f32Add (f32Sqrt (f32Mul v1 o.c2)) o.eps)
    (f32Fma o.nlr (f32Fma o.wd w r) w, m1, v1)
  else
    let m1 := f32Fma o.beta1 m g
    (f32Fma o.nlr (f32Fma o.wd w m1) w, m1, 0)

/-- The optimiser settings of record `j` at the present step. -/
def State.optNow (s : State) (j : Nat) : OptSet :=
  let bs := s.trainSec
  let c := (Sparse.get (fun _ => (0 : W64)) s.training.corrs j).toNat
  optSet (s.optimRec j) (knotFactor bs (leAt bs 16 1) s.stepNumber) (bits c 31 0) (bits c 63 32)

/-- The final vote of the present step is true. -/
def State.voteTrue (s : State) : Bool := s.fld Reg.netVoteStatus 1 1 == 1

/-- One row of VEC_OPTIM. -/
def State.optRow (v : State) (p : Nat) (run : OpRun) (f : VecWord) (o : OptSet) (grp pub : Nat) (s : State) (i : Nat) : State :=
  let wa := 64 * f.src2 + 256 * i
  let ma := wa + 256 * f.rows
  let va := ma + 256 * f.rows
  let ws := v.f32At p wa 0
  let n := (i + 1) * (if o.adam then 4 else 2) * f.c + 20
  if s.voteTrue then
    let gs := (v.f32At p (f.src1 + i * pitch f.fmt) f.fmt).map (s.clipGrad grp)
    let ms := v.f32At p ma 0
    let vs := if o.adam then v.f32At p va 0 else []
    let rs := (List.range 64).map (fun n => optElem o (ws.getD n 0) (ms.getD n 0) (vs.getD n 0) (gs.getD n 0))
    let es := rs.map (fun r => narrow pub f.ovf (f32 r.1))
    let s1 := (s.unitWrite p .vector f.pre wa (elemBytes 0 (rs.map (fun r => r.1)))).unitWrite p .vector f.pre ma
      (elemBytes 0 (rs.map (fun r => r.2.1)))
    let s2 := if o.adam then s1.unitWrite p .vector f.pre va (elemBytes 0 (rs.map (fun r => r.2.2))) else s1
    ((s2.cvtRow p run n i es).unitWrite p .vector f.pre (f.dst + i * pitch pub) (elemBytes pub (es.map (fun e => e.1)))).count
      (Reg.tlTrnCount p 1) 1
  else
    let es := ws.map (fun w => narrow pub f.ovf (f32 w))
    ((s.cvtRow p run n i es).unitWrite p .vector f.pre (f.dst + i * pitch pub) (elemBytes pub (es.map (fun e => e.1)))).count
      (Reg.tlTrnCount p 2) 1

/-- VEC_OPTIM (R329, R330). -/
def State.runOptim (s v : State) (p : Nat) (run : OpRun) (f : VecWord) : State :=
  let r := s.optimRec f.const
  let pub := leAt r 2 1
  let o := s.optNow f.const
  (List.range f.rows).foldl (fun s k => v.optRow p run f o (leAt r 1 1) pub s k)
    ((s.misaligned p f.src1 (fmtBytes f.fmt 64) f.rows).misaligned p f.dst (fmtBytes pub 64) f.rows)

/-- Row groups of master and state that a record's update reads and writes (R329). -/
def State.optParts (s : State) (f : VecWord) : Nat := if leAt (s.optimRec f.const) 0 1 = 1 then 3 else 2

/-- VEC_OPTIM (R330). -/
def execVecOptim (t : Tile) (env : OpEnv) (s : State) : Host.Outcome State Fault Refusal :=
  .next (s.vecOp t.val env (fun w => wOpcode w == 0x3A) (fun s f => f.rows * (2 * (s.optParts f - 1)) * f.c + 20)
    (fun s _ f => rowRuns f.src1 f.fmt f.rows ++ rowRuns (64 * f.src2) 0 (f.rows * s.optParts f))
    (fun s _ f => rowRuns (64 * f.src2) 0 (f.rows * s.optParts f) ++ rowRuns f.dst (leAt (s.optimRec f.const) 2 1) f.rows)
    (fun s v p o f => s.runOptim v p o f))

/-! ### Reduce and gather blocks (R410 to R415) -/

/-- An exponent byte is reserved (R409). -/
def expReserved (b : Nat) : Bool := b == 0x80 || b == 0x81 || (decide (0x61 ≤ b) && decide (b ≤ 0x7F))

/-- The values of a wire row with exponent byte `b` (R411). -/
def wireVals (wire b : Nat) (row : List Byte) : List Num :=
  if expReserved b then List.replicate 64 .nan
  else (List.range 64).map (fun i => Num.mul (fmtDecode wire (elemAt wire row i)) (Num.pow2 (signed 8 b)))

/-- One value encoded with exponent byte `b` (R412). -/
def wireEnc (wire b : Nat) (x : Num) : Nat × CvtEvent :=
  match x with
  | .fin _ _ _ => narrow wire false (Num.mul x (Num.pow2 (-(signed 8 b))))
  | _ => (0x7F, .nan)

/-- Whether a non-zero value became zero (0x0214). -/
def wireUnder (wire : Nat) (x : Num) (e : Nat × CvtEvent) : Bool :=
  x.isFin && (!x.isZero && (fmtDecode wire e.1).isZero)

/-- NEED of a set of values (R413). -/
def needOf (wire : Nat) (xs : List Num) : Int :=
  let fmax := Num.int (if wire = 3 then 448 else 57344)
  let amax := xs.foldl (fun (a : Num) x => if x.isFin && Num.lt a x.abs then x.abs else a) (.fin false 0 0)
  if amax.isZero then -127
  else
    match (List.range 223).find? (fun (i : Nat) => !Num.lt (Num.mul fmax (Num.pow2 ((i : Int) - 126))) amax) with
    | some i => (i : Int) - 126
    | none => 96

/-- A REDUCE_OPS record (R424). -/
structure RedRec where
  mode : Nat
  wire : Nat
  out : Nat
  hasIn : Bool
  skip : Bool
  inference : Bool
  coll : Nat
  deriving DecidableEq, Repr

def State.redRec (s : State) (t i : Nat) : RedRec :=
  let r := ((s.tileSection 0x61 0 t).drop (8 + 8 * i)).take 8
  let fl := leAt r 3 1
  ⟨leAt r 0 1, leAt r 1 1, leAt r 2 1, isBit fl 0, isBit fl 1, isBit fl 2, leAt r 4 1⟩

/-- What FORWARD and FINAL form: the sums by group, the header of the incoming block, and which groups had reserved exponents. -/
structure RedSum where
  e : List Nat
  needIn : List Int
  sat : Nat
  under : Nat
  finite : Bool
  sums : List (List Num)
  reserved : Nat
  deriving DecidableEq, Repr

/-- Bytes of a local row and where it starts (R420): FP32, BF16 and FP16 rows of 64 in their pitch. -/
def State.redSum (v : State) (p : Nat) (f : VecWord) (r : RedRec) : RedSum :=
  let hdr := v.bankRead p f.src1 64
  let el := v.bankRead p (64 * f.src2) 32
  let es := (List.range 32).map (fun g => leAt el g 1)
  let loc := (List.range 32).map (fun g => (v.f32At p (64 * f.src2 + 64 + g * pitch f.fmt) f.fmt).map f32)
  let inc := (List.range 32).map (fun g =>
    if r.hasIn then wireVals r.wire (es.getD g 0) (v.bankRead p (f.src1 + 64 + 64 * g) 64)
    else List.replicate 64 (.fin false 0 0))
  let sums := List.zipWith (fun a b => List.zipWith (fun x y => f32 (toF32 (Num.add x y))) a b) inc loc
  let finIn := !r.hasIn || isBit (leAt hdr 40 1) 0
  { e := es
    needIn := (List.range 32).map (fun g => if r.hasIn then signed 8 (leAt hdr g 1) else -127)
    sat := if r.hasIn then leAt hdr 32 4 else 0
    under := if r.hasIn then leAt hdr 36 4 else 0
    finite := finIn && (loc.all (fun x => x.all Num.isFin) && sums.all (fun x => x.all Num.isFin))
    sums := sums
    reserved := if r.hasIn then (es.filter expReserved).length else 0 }

/-- Wire counts of an inference-class collective, by tile (R416): their keys in the table of rises. -/
def wireKey (t coll k : Nat) : Nat := 0x30000000 + t * 512 + coll * 2 + k

/-- Adds to a rise that no register shows. -/
def State.addRise (s : State) (k n : Nat) : State :=
  if n = 0 then s else { s with rises := Sparse.set (fun _ => 0) s.rises k (Sparse.get (fun _ => 0) s.rises k + n) }

/-- What the saturations and underflows of a compression do beside its header (R416). -/
def State.wireCounts (s : State) (t : Nat) (r : RedRec) (sat under : Nat) : State :=
  let s1 := if r.inference then (s.addRise (wireKey t r.coll 0) sat).addRise (wireKey t r.coll 1) under else s
  if r.skip && (decide (0 < sat) && !s1.training.formed) then
    { s1 with training := { s1.training with causes := s1.training.causes ||| 2 } } else s1

/-- FORWARD (R425). -/
def State.redForward (s v : State) (t p : Nat) (o : OpRun) (f : VecWord) (r : RedRec) : State :=
  let x := v.redSum p f r
  let enc := (List.range 32).map (fun g => (x.sums.getD g []).map (fun y => (y, wireEnc r.wire (x.e.getD g 0) y)))
  let sat := ((enc.flatMap (fun g => g)).filter (fun q => q.2.2 == .sat)).length
  let under := ((enc.flatMap (fun g => g)).filter (fun q => wireUnder r.wire q.1 q.2)).length
  let need := (List.range 32).map (fun g => max (x.needIn.getD g 0) (needOf r.wire (x.sums.getD g [])))
  let line0 := (need.map (fun n => Byte.of (unsigned 8 n))) ++ (leBytes 4 (min (x.sat + sat) 0xFFFFFFFF)
    ++ (leBytes 4 (min (x.under + under) 0xFFFFFFFF) ++ padTo 24 [Byte.of (b2n x.finite)]))
  let s1 := (s.count (Reg.tlRedCount p 0) 1).count (Reg.tlRedCount p 4) x.reserved
  let s2 := (List.range 32).foldl (fun s g => s.cvtRow p o (51 + g) g ((enc.getD g []).map (fun q => q.2))) s1
  let s3 := s2.unitWrite p .vector false f.dst line0
  let s4 := (List.range 32).foldl (fun s g =>
    s.unitWrite p .vector false (f.dst + 64 + 64 * g) (elemBytes r.wire ((enc.getD g []).map (fun q => q.2.1)))) s3
  s4.wireCounts t r sat under

/-- The next exponents of R415. -/
def nextExp (inference : Bool) (under : Nat) (e n : Int) : Int :=
  if inference then e else if e < n then n else if n < e ∧ 0 < under then max (e - 1) (-126) else e

/-- FINAL (R425, R415). -/
def State.redFinal (s v : State) (p : Nat) (o : OpRun) (f : VecWord) (r : RedRec) : State :=
  let x := v.redSum p f r
  let next := (List.range 32).map (fun g =>
    let n := max (x.needIn.getD g 0) (needOf r.wire (x.sums.getD g []))
    Byte.of (unsigned 8 (nextExp r.inference x.under (signed 8 (x.e.getD g 0)) n)))
  let rows := x.sums.map (fun ys => ys.map (fun y => narrow r.out f.ovf y))
  let s1 := ((s.count (Reg.tlRedCount p 1) 1).count (Reg.tlRedCount p 4) x.reserved).count (Reg.tlRedCount p 5) (b2n (!x.finite))
  let s2 := if x.finite || s1.training.formed then s1
    else { s1 with training := { s1.training with causes := s1.training.causes ||| 4 } }
  let s3 := (List.range 32).foldl (fun s g => s.cvtRow p o (51 + g) g (rows.getD g [])) s2
  let s4 := s3.unitWrite p .vector false f.dst (padTo 64 next)
  (List.range 32).foldl (fun s g =>
    s.unitWrite p .vector false (f.dst + 64 + g * pitch r.out) (elemBytes r.out ((rows.getD g []).map (fun q => q.1)))) s4

/-- PUBLISH (R426). -/
def State.redPublish (s v : State) (p : Nat) (o : OpRun) (f : VecWord) (r : RedRec) : State :=
  let src := (List.range 32).map (fun g => v.valsAt p (f.src1 + g * pitch f.fmt) f.fmt)
  let ps := src.map (fun xs => let n := needOf r.wire xs; if n = -127 then 0 else n)
  let enc := (List.range 32).map (fun g => (src.getD g []).map (wireEnc r.wire (unsigned 8 (ps.getD g 0))))
  let s1 := s.count (Reg.tlRedCount p 2) 1
  let s2 := (List.range 32).foldl (fun s g => s.cvtRow p o (51 + g) g (enc.getD g [])) s1
  let s3 := (s2.unitWrite p .vector false f.dst (padTo 64 (ps.map (fun n => Byte.of (unsigned 8 n))))).unitWrite p .vector false
    (f.dst + 64) (v.bankRead p (64 * f.src2) 64)
  (List.range 32).foldl (fun s g =>
    s.unitWrite p .vector false (f.dst + 128 + 64 * g) (elemBytes r.wire ((enc.getD g []).map (fun q => q.1)))) s3

/-- WIDEN (R426). -/
def State.redWiden (s v : State) (p : Nat) (o : OpRun) (f : VecWord) (r : RedRec) : State :=
  let ps := v.bankRead p f.src1 32
  let rows := (List.range 32).map (fun g =>
    (wireVals r.wire (leAt ps g 1) (v.bankRead p (f.src1 + 128 + 64 * g) 64)).map (fun x => narrow r.out f.ovf (f32 (toF32 x))))
  let bad := ((List.range 32).filter (fun g => expReserved (leAt ps g 1))).length
  let s1 := (s.count (Reg.tlRedCount p 3) 1).count (Reg.tlRedCount p 4) bad
  let s2 := (List.range 32).foldl (fun s g => s.cvtRow p o (51 + g) g (rows.getD g [])) s1
  (List.range 32).foldl (fun s g =>
    s.unitWrite p .vector false (f.dst + g * pitch r.out) (elemBytes r.out ((rows.getD g []).map (fun q => q.1)))) s2

/-- A VEC_REDUCE of one mode. Its last write falls in cycle t0 + 82 (R424), and its 32 rows are converted one in each of the cycles t0 + 51 to
t0 + 82 (DEDUCED, log entry 122). -/
def State.vecReduce (s : State) (mode t : Nat) (env : OpEnv) (reads writes : RedRec → VecWord → List LineRun)
    (act : State → State → Nat → OpRun → VecWord → RedRec → State) : State :=
  s.vecOp t env (fun w => wOpcode w == 0x3B && (s.redRec t (bits w 125 118)).mode == mode) (fun _ _ => 82)
    (fun s _ f => accesses (reads (s.redRec t f.const) f)) (fun s _ f => writes (s.redRec t f.const) f)
    (fun s v p o f => act s v p o f (s.redRec t f.const))

def redReads (r : RedRec) (f : VecWord) : List LineRun :=
  (if r.hasIn then [byteRun f.src1 2112] else []) ++ [byteRun (64 * f.src2) (64 + 32 * pitch f.fmt)]

/-- VEC_REDUCE in mode FORWARD (R425). -/
def execVecReduceForward (t : Tile) (env : OpEnv) (s : State) : Host.Outcome State Fault Refusal :=
  .next (s.vecReduce 0 t.val env redReads (fun _ f => [byteRun f.dst 2112]) (fun s v p o f r => s.redForward v t.val p o f r))
/-- VEC_REDUCE in mode FINAL (R425). -/
def execVecReduceFinal (t : Tile) (env : OpEnv) (s : State) : Host.Outcome State Fault Refusal :=
  .next (s.vecReduce 1 t.val env redReads (fun r f => [byteRun f.dst (64 + 32 * pitch r.out)])
    (fun s v p o f r => s.redFinal v p o f r))
/-- VEC_REDUCE in mode PUBLISH (R426). -/
def execVecReducePublish (t : Tile) (env : OpEnv) (s : State) : Host.Outcome State Fault Refusal :=
  .next (s.vecReduce 2 t.val env (fun _ f => [byteRun f.src1 (32 * pitch f.fmt), ⟨f.src2, 1⟩]) (fun _ f => [byteRun f.dst 2176])
    (fun s v p o f r => s.redPublish v p o f r))
/-- VEC_REDUCE in mode WIDEN (R426). -/
def execVecReduceWiden (t : Tile) (env : OpEnv) (s : State) : Host.Outcome State Fault Refusal :=
  .next (s.vecReduce 3 t.val env (fun _ f => [byteRun f.src1 2176]) (fun r f => [byteRun f.dst (32 * pitch r.out)])
    (fun s v p o f r => s.redWiden v p o f r))

end Sys2Proof.Machine
end

