-- ==== Sys2Proof/Machine/Items.lean ====
section
/-! DEFINITION. Work lists and dynamic work (R148 to R151, R198 to R204, R238, R360 to R365): list keepers, claims and grants,
publishing and dealing, items of the three engines, return buffers. A dynamic row goes by the slots that the tables give its way, in the
cycles they lie in; it stands at its destination in one step (log entry 19). -/

namespace Sys2Proof.Machine

/-! ### Groups and lists (R198, R199, R220, R222, R364) -/

/-- The tiles of group `g`, in group order, from the records of a GROUPS section. -/
def groupScan : Nat → List Byte → Nat → List Nat
  | 0, _, _ => []
  | fuel + 1, bs, g =>
    let n := leAt bs 2 2
    if leAt bs 0 1 = g then (List.range n).map (fun i => leAt bs (4 + 2 * i) 2 % 1024)
    else groupScan fuel (bs.drop (alignUp (4 + 2 * n) 4)) g

def State.groupTiles (s : State) (g : Nat) : List Nat :=
  let bs := s.devSection secGROUPS
  groupScan (leAt bs 0 2) (bs.drop 8) g

/-- A list's record (R222). -/
structure ListRec where
  group : Nat
  ahead : Nat
  capacity : Nat
  openMove : Nat
  openOff : Nat
  closeMove : Nat
  closeOff : Nat
  deriving DecidableEq, Repr

def State.listRec (s : State) (d l : Nat) : Option ListRec :=
  let bs := s.dieSection secLISTS d
  match ((List.range (leAt bs 0 2)).map (fun i => (bs.drop (8 + 24 * i)).take 24)).find? (fun r => leAt r 0 1 == l) with
  | none => none
  | some r => some ⟨leAt r 1 1, leAt r 2 1, leAt r 4 2, leAt r 8 4, leAt r 12 3, leAt r 16 4, leAt r 20 3⟩

/-- The die that keeps list `l` for tile `t`: the one whose list of that number belongs to a group of the tile. -/
def State.listDie (s : State) (t l : Nat) : Option Nat :=
  (List.range 4).find? (fun d => match s.listRec d l with
    | none => false
    | some r => (s.groupTiles r.group).contains t)

/-- The QUEUES record of a tile for list `l` in a role (R364): 0 WORKER, 1 OWNER. -/
def State.queueRec (s : State) (t l role : Nat) : Option (List Byte) :=
  let bs := s.tileSection 0x43 0 t
  ((List.range (leAt bs 0 1)).map (fun i => (bs.drop (8 + 16 * i)).take 16)).find? (fun r => leAt r 0 1 == l && leAt r 1 1 == role)

/-- The tile that owns the results of list `l` of die `d`. -/
def State.listOwner (s : State) (d l : Nat) : Option Nat :=
  let own := (List.range 1024).filter (fun t => (s.queueRec t l 1).isSome)
  match own.find? (fun t => s.listDie t l == some d) with
  | some t => some t
  | none => own.head?

/-- A list in its keeper. -/
def State.list (s : State) (d l : Nat) : ListState := Sparse.get (fun _ => ListState.reset) s.lists (d * 64 + l)
def State.setList (s : State) (d l : Nat) (x : ListState) : State :=
  { s with lists := Sparse.set (fun _ => ListState.reset) s.lists (d * 64 + l) x }

/-- The QUEUES record that declares a tile's item queue and return buffer for list `l`, whatever its role. -/
def State.queueFor (s : State) (t l : Nat) : Option (List Byte) :=
  match s.queueRec t l 0 with
  | some r => some r
  | none => s.queueRec t l 1

/-- Writes the next entry of a region of a tile that holds `cap` entries of `size` bytes from line `first` on, in turn: the item queue of a list
(`role` 0) or its return buffer (1), a region of a DMA bank (R202, R204; log entry 123). -/
def State.ringPut (s : State) (t l role first size cap : Nat) (bs : List Byte) : State :=
  if cap = 0 then s
  else
    let p := s.phys t
    let n := Sparse.get (fun _ => 0) (s.tile p).rings (l * 2 + role)
    let a := 64 * first + n % cap * size
    ((s.ownerCheck p (s.blockedWrites p .dma false [byteRun a size])).unitWrite p .dma false a (padTo size bs)).modTile p
      (fun ts => { ts with rings := Sparse.set (fun _ => 0) ts.rings (l * 2 + role) ((n + 1) % cap) })

/-- The items of list `l` at the head of a tile's items to publish, at most `n`, that can leave in cycle `c`. -/
def sameList (l c : Nat) : Nat → List PubItem → List (List Byte)
  | 0, _ => []
  | _ + 1, [] => []
  | n + 1, i :: rest => if i.list = l ∧ i.ready ≤ c then i.bytes :: sameList l c n rest else []

/-! ### What a tile presents (R189, R200, R202) -/

/-- Cycle `c` of the present move lies in a window. -/
def Window.holds (x : Window) (move c : Nat) : Bool := x.move == move && (decide (x.start ≤ c) && decide (c < x.start + x.len))

/-- The slots of kinds CLAIM and PUBLISH whose input is a tile, in the order of their cycles. -/
def State.tileSlots (s : State) (t : Nat) : List Slot :=
  let qs := (s.slotsOf s.plan t).filter (fun q => q.x.inp == 0 && (q.x.kind == 3 || q.x.kind == 5))
  ((sortNat (qs.map (fun q => q.cyc))).eraseDups).flatMap (fun c => qs.filter (fun q => q.cyc == c))

/-- Requested and unstarted items of a tile are below its list's CLAIM_AHEAD (R202). -/
def State.mayClaim (s : State) (t l : Nat) : Bool :=
  match s.listDie t l with
  | none => false
  | some d => match s.listRec d l with
    | none => false
    | some r => decide ((s.tile (s.phys t)).requested + (s.tile (s.phys t)).items.length < r.ahead)

/-- What a tile presents in one of its claim or PUBLISH slots: a CLAIM while its window runs and CLAIM_AHEAD admits one; up to seven items of
one list that wait for publication. -/
def State.presentSlot (s : State) (t : Nat) (q : Slot) : State :=
  let p := s.phys t
  let ts := s.tile p
  if q.x.kind = 3 then
    match ts.window with
    | none => s
    | some x =>
      if x.holds s.move q.cyc && s.mayClaim t x.list then
        s.modTile p (fun ts => { ts with requested := ts.requested + 1, sent := ts.sent ++ [⟨3, q.e, q.i, x.list, []⟩] })
      else s
  else
    match ts.publish with
    | [] => s
    | x :: _ =>
      let items := sameList x.list q.cyc 7 ts.publish
      if items.isEmpty then s
      else s.modTile p (fun ts =>
        { ts with publish := ts.publish.drop items.length, sent := ts.sent ++ [⟨5, q.e, q.i, x.list, items⟩] })

/-- The tile goes through its claim and PUBLISH slots up to cycle `c`, those not gone through before. After an error of R40 it presents
nothing more. -/
def State.present (s : State) (t c : Nat) : State :=
  let p := s.phys t
  let from_ := (s.tile p).shown
  let s1 := if s.job.err then s
    else ((s.tileSlots t).filter (fun q => decide (from_ ≤ q.cyc) && decide (q.cyc ≤ c))).foldl (fun s q => s.presentSlot t q) s
  s1.modTile p (fun ts => { ts with shown := max from_ (c + 1) })

/-! ### Keepers (R199 to R203) -/

/-- LIST_OPEN (R199): at the open offset of the opening move. -/
def execListOpen (d : Die) (l : Nat) (s : State) : Host.Outcome State Fault Refusal :=
  match s.listRec d.val l with
  | none => .next s
  | some r =>
    if s.running && (!s.held && (s.stepMove == r.openMove && (decide (s.offset ≤ r.openOff) && !(s.list d.val l).isOpen))) then
      .next ((s.atCycle r.openOff).setList d.val l ⟨true, false, []⟩)
    else .next s

/-- The rows of seven items that a tile's items fill. -/
def sevens : Nat → List (List Byte) → List (List (List Byte))
  | 0, _ => []
  | fuel + 1, items => if items.isEmpty then [] else items.take 7 :: sevens fuel (items.drop 7)

/-- The cycles in which the DEAL slots from die d's keeper that leave it at `off` or later, and carry nothing yet, bring their rows to tile t. -/
def State.dealCycles (s : State) (d t off : Nat) : List Nat :=
  let qs := (s.slotsOf s.plan t).filter (fun q => q.x.kind == 6 && (q.x.out == 0
    && !(s.grants.any (fun g => g.status == 3 && (g.tile == t && g.due == q.cyc + 2)))))
  sortNat ((qs.filter (fun q =>
    let a := s.wayStart s.plan 4096 q
    (keeperPort a.t a.x.inp).isSome && (tDie a.t == d && decide (off ≤ a.cyc)))).map (fun q => q.cyc + 2))

/-- LIST_CLOSE (R203): at the close offset the keeper deals every item left, item i to the (i mod n)-th tile of the group, in the DEAL slots. -/
def execListClose (d : Die) (l : Nat) (s : State) : Host.Outcome State Fault Refusal :=
  match s.listRec d.val l with
  | none => .next s
  | some r =>
    let x := s.list d.val l
    if s.running && (!s.held && (s.stepMove == r.closeMove && (decide (s.offset ≤ r.closeOff) && x.isOpen))) then
      let ts := s.groupTiles r.group
      let n := ts.length
      let rows := (List.range n).flatMap (fun j =>
        let t := ts.getD j 0
        List.zipWith (fun c items => (⟨c, t, l, 3, items⟩ : GrantRow)) (s.dealCycles d.val t r.closeOff)
          (sevens (x.items.length + 1) (((List.range x.items.length).filter (fun i => i % n == j)).map (fun i => x.items.getD i []))))
      let s1 := ((s.atCycle r.closeOff).setList d.val l ⟨false, true, []⟩).count (Reg.dieNetCount d.val 8) x.items.length
      .next { s1 with grants := s1.grants ++ rows }
    else .next s

/-- CLAIM (R238): opens the tile's dynamic window for a list. -/
def execClaim (t : Tile) (s : State) : Host.Outcome State Fault Refusal :=
  match s.start t.val (fun w => wOpcode w == 0x44) with
  | none => .next s
  | some (w, _, s1) =>
    let s2 := if wOffset w = 0 then s1 else s1.present t.val (wOffset w - 1)
    .next (s2.modTile (s2.phys t.val) (fun ts =>
      { ts with window := some ⟨bits w 53 48, wOffset w, bits w 77 54, bits w 85 78, bits w 87 86, s2.move⟩ }))

/-- Items reach list `l` of die `d`: those that fit are appended in order, the others discarded and counted, 0x0504 (R201). -/
def State.publish (s : State) (d l : Nat) (items : List (List Byte)) : State :=
  let cap := match s.listRec d l with
    | none => 0
    | some r => r.capacity
  let q := s.list d l
  let room := if q.isOpen then cap - q.items.length else 0
  let put := items.take room
  ((s.setList d l { q with items := q.items ++ put }).count (Reg.dieNetCount d 7) put.length).count (Reg.dieNetCount d 4)
    (items.length - put.length)

/-- A keeper's answer to a CLAIM for list `l` (R201): the status, the item taken, and the state. -/
def State.answer (s : State) (d l : Nat) : State × Nat × List (List Byte) :=
  let q := s.list d l
  match q.isOpen, q.items with
  | true, b :: rest => ((s.setList d l { q with items := rest }).count (Reg.dieNetCount d 5) 1, 0, [b])
  | o, _ => (s.count (Reg.dieNetCount d 6) 1, if o then 1 else 2, [])

/-- The GRANT slot that the image pairs with a CLAIM whose last slot is `last`: it leaves the same keeper port 4 cycles after the CLAIM's
arrival; the cycle in which its row reaches its tile. -/
def State.grantDue (s : State) (last : Slot) : Option Nat :=
  match (s.slotsOf s.plan last.t).find? (fun g => g.x.kind == 4 && (g.x.inp == last.x.out && g.cyc == last.cyc + 6)) with
  | none => none
  | some g => some ((s.wayEnd s.plan 4096 g).cyc + 2)

/-- A row of tile t that has come to a keeper through slot `last` is served (R201). -/
def State.keeperServe (s : State) (t : Nat) (last : Slot) (r : SentRow) : State :=
  let d := tDie last.t
  if r.kind = 3 then
    match s.grantDue last with
    | none => s
    | some due =>
      let a := s.answer d r.list
      { a.1 with grants := a.1.grants ++ [⟨due, t, r.list, a.2.1, a.2.2⟩] }
  else s.publish d r.list r.items

/-- The turn of a row that arrives at port `n` of die d's keeper in cycle `c`: no later row has been served, rows of one cycle in the order of
their ports (R201). -/
def State.keeperTurn (s : State) (d c n : Nat) : Option State :=
  if s.offset ≤ c ∧ Sparse.get (fun _ => 0) s.served d < 4 * c + n + 1 then
    some { s.atCycle c with served := Sparse.set (fun _ => 0) s.served d (4 * c + n + 1) }
  else none

/-- The row that a tile has presented in slot `i` of entry `e`, of a kind: the state once the tile has gone through its slots up to that one,
the row, and the last slot of its way to a keeper port with the port's number. -/
def State.rowSent (s : State) (t e i kind : Nat) : Option (State × SentRow × Slot × Nat) :=
  match s.slotAt t e i [kind] with
  | none => none
  | some (x, c) =>
    let s1 := s.present t c
    let last := s.wayEnd s.plan 4096 ⟨t, e, i, x, c⟩
    match keeperPort last.t last.x.out, (s1.tile (s.phys t)).sent.find? (fun r => r.kind == kind && (r.entry == e && r.slot == i)) with
    | some n, some r => some (s1, r, last, n)
    | _, _ => none

/-- A tile's row is no longer on its way. -/
def State.rowDone (s : State) (t : Nat) (r : SentRow) : State :=
  s.modTile (s.phys t) (fun ts => { ts with sent := ts.sent.filter (fun q => q != r) })

/-- The row of kind `kind` that a tile presented in slot `i` of entry `e` reaches its keeper, unless a codeword spoils it (R201, R207). -/
def State.keeperRow (s : State) (t e i kind : Nat) (hits : List NetHit) : State :=
  match s.rowSent t e i kind with
  | none => s
  | some (s1, r, last, n) =>
    match s1.keeperTurn (tDie last.t) (last.cyc + 2) n with
    | none => s
    | some s2 =>
      let k := (s2.rowDone t r).netEcc hits
      if k.2 then k.1 else k.1.keeperServe t last r

/-- KEEPER_CLAIM (R201, R202): the claim that a tile presents in claim slot `i` of its router's entry `e` reaches the keeper: it takes the
oldest item, or is answered EMPTY or CLOSED. -/
def execKeeperClaim (t : Tile) (e i : Nat) (hits : List NetHit) (s : State) : Host.Outcome State Fault Refusal :=
  .next (s.keeperRow t.val e i 3 hits)

/-- The items of a PUBLISH row (R200). -/
def rowItems (row : List Byte) : List (List Byte) := (List.range (min 7 (leAt row 0 1))).map (fun i => (row.drop (16 + 16 * i)).take 16)

/-- A PUBLISH row that an edge port of HBM or of the I/O die presents, in slot `i` of entry `e` of router t, reaches a keeper (R201). -/
def State.edgePublish (s : State) (t e i : Nat) (row : List Byte) (hits : List NetHit) : State :=
  match s.slotDue t e i [5] with
  | none => s
  | some (x, c) =>
    let last := s.wayEnd s.plan 4096 ⟨t, e, i, x, c⟩
    match keeperPort last.t last.x.out with
    | none => s
    | some n =>
      if openPort t x.inp then
        match s.keeperTurn (tDie last.t) (last.cyc + 2) n with
        | none => s
        | some s1 =>
          let k := ({ s1 with slotsUsed := s1.slotsUsed ++ [(t, e, i)] }).netEcc hits
          if k.2 then k.1 else k.1.publish (tDie last.t) (leAt row 1 1) (rowItems row)
      else s

/-- KEEPER_PUBLISH (R201): a PUBLISH row of up to seven items reaches the keeper. -/
def execKeeperPublish (src : Publisher) (hits : List NetHit) (s : State) : Host.Outcome State Fault Refusal :=
  match src with
  | .tile t e i => .next (s.keeperRow t.val e i 5 hits)
  | .edge t e i row => .next (s.edgePublish t.val e i row hits)

/-- A GRANT or DEAL row reaches its tile: its items enter the item queue, and a GRANT answers one request (R202). -/
def State.receiveRow (s : State) (g : GrantRow) : State :=
  let p := s.phys g.tile
  let s1 := (s.present g.tile (g.due - 1)).modTile p (fun ts =>
    { ts with
      items := ts.items ++ g.items.map (fun b => (⟨g.list, b⟩ : Item))
      requested := if g.status = 3 then ts.requested else ts.requested - 1 })
  match s.queueFor g.tile g.list with
  | none => s1
  | some q => g.items.foldl (fun s b => s.ringPut g.tile g.list 0 (leAt q 4 2) 16 (leAt q 6 2) b) s1

/-- WORK_ITEM_RECEIVE (R202, R203): GRANT or DEAL row number `k` on its way reaches its tile, in the cycle that its slots give it. -/
def execWorkItemReceive (k : Nat) (hits : List NetHit) (s : State) : Host.Outcome State Fault Refusal :=
  match s.grants[k]? with
  | none => .next s
  | some g =>
    if s.running && (!s.held && decide (s.offset ≤ g.due)) then
      let q := ({ s.atCycle g.due with grants := s.grants.eraseIdx k }).netEcc hits
      if q.2 then .next q.1 else .next (q.1.receiveRow g)
    else .next s

/-! ### The rows that a move's last cycle finds on their way -/

/-- Every tile that claims or publishes goes through its slots to the end of the move. -/
def State.presentAll (s : State) : State :=
  s.tiles.foldl (fun s e => match s.logical e.1 with
    | none => s
    | some t => if e.2.window.isSome || !e.2.publish.isEmpty then s.present t (s.moveCycles - 1) else s) s

/-- The rows on their way to keepers: the turn of each, its tile and itself. -/
def State.onWay (s : State) : List (Nat × Nat × SentRow) :=
  s.tiles.flatMap (fun e => match s.logical e.1 with
    | none => []
    | some t => e.2.sent.filterMap (fun r => match s.slotEntry t r.entry with
      | none => none
      | some x =>
        let last := s.wayEnd s.plan 4096 ⟨t, r.entry, r.slot, x, x.start + r.slot * x.stride⟩
        (keeperPort last.t last.x.out).map (fun n => (4 * (last.cyc + 2) + n, t, r))))

/-- The keepers serve the rows that are on their way to them, in their turns (R201). -/
def State.serveAll (s : State) : State :=
  let rows := s.onWay
  let order := (sortNat (rows.map (fun q => q.1))).eraseDups.flatMap (fun c => rows.filter (fun q => q.1 == c))
  order.foldl (fun s q => match s.slotEntry q.2.1 q.2.2.entry with
    | none => s
    | some x => (s.rowDone q.2.1 q.2.2).keeperServe q.2.1
        (s.wayEnd s.plan 4096 ⟨q.2.1, q.2.2.entry, q.2.2.slot, x, x.start + q.2.2.slot * x.stride⟩) q.2.2) s

/-- The rows on their way to tiles reach them, in the order of their cycles. -/
def State.deliverAll (s : State) : State :=
  let gs := s.grants
  let order := (sortNat (gs.map (fun g => g.due))).eraseDups.flatMap (fun c => gs.filter (fun g => g.due == c))
  order.foldl (fun s g => s.receiveRow g) { s with grants := [] }

/-- No row is in flight at the end of a move's last cycle (R190): those that no command has brought to their ends are there. -/
def State.settleRows (s : State) : State := ((s.presentAll).serveAll).deliverAll

/-! ### Items (R149, R151, R360 to R363, R365) -/

/-- The head item of a tile's queue, when its window is of engine `eng` and runs now; a window goes on through a hold (R30), and the array
starts nothing after an error of R40 (R105). The state is the one in which the tile has gone through its claim slots up to now. -/
def State.headItem (s : State) (t eng : Nat) : Option (State × Window × Item × List Item) :=
  let s1 := s.present t s.offset
  let ts := s1.tile (s.phys t)
  if s.running && (eng != 2 || !s.job.err) then
    match ts.window, ts.items with
    | some x, b :: rest => if x.engine == eng && (s.held || x.holds s.move s.offset) then some (s1, x, b, rest) else none
    | _, _ => none
  else none

/-- ITEM of an item: its position in publication order. -/
def itemNo (b : List Byte) : Nat := leAt b 10 2

/-- The header row of a DENSE or VECTOR result (R363). -/
def headerRow (item rows dst kind status : Nat) : List Byte :=
  padTo 128 (leBytes 2 item ++ leBytes 2 rows ++ leBytes 2 dst ++ leBytes 1 kind ++ leBytes 1 status)

/-- The network rows of result row `i`, `bytes` long, in a format (R363): 128 bytes of its pitch to a row, two rows for FP32. -/
def resultRows (l dst fmt i : Nat) (bytes : List Byte) : List RetRow :=
  let a := 64 * dst + i * pitch fmt
  let b := padTo (pitch fmt) bytes
  (List.range ((pitch fmt + 127) / 128)).map (fun k => ⟨l, a + 128 * k, (b.drop (128 * k)).take 128, false⟩)

/-- The head item of a tile is retired: its rows stand in the return buffer (R204). -/
def State.retire (s : State) (t : Nat) (rest : List Item) (rows : List RetRow) : State :=
  let s1 := s.modTile (s.phys t) (fun ts => { ts with items := rest, returns := ts.returns ++ rows })
  rows.foldl (fun s r => match s.queueFor t r.list with
    | none => s
    | some q => s.ringPut t r.list 1 (leAt q 8 2) 128 (leAt q 10 2 / 2) r.bytes) s1

/-- An item that runs nothing returns its header with STATUS INVALID, and TL_DYN_FIRST takes `code`: 0x060A for a field out of range (R365),
0x0102 for an access that would cross a bank (R163; log entry 124). -/
def State.itemInvalid (s : State) (t code : Nat) (b : Item) (rest : List Item) : State :=
  let p := s.phys t
  let n := itemNo b.bytes
  let h : RetRow := ⟨b.list, 0, headerRow n 0 (leAt b.bytes 4 2) (leAt b.bytes 14 1) 1, true⟩
  ((s.retire t rest [h]).count (Reg.tlDynCount p 6) 1).dynFirst p false code 0xFFFF n

/-- A run of lines leaves its bank. -/
def LineRun.crosses (r : LineRun) : Bool := decide (0 < r.count) && decide (2 ^ 13 < r.line % 2 ^ 13 + r.count)

/-- The fields of a ROW or SEGMENT item lie in their ranges (R149). -/
def knightOk (b : List Byte) : Bool :=
  let seg := leAt b 12 1
  let segs := leAt b 13 1
  decide (leAt b 8 2 ≤ 4096) && (leAt b 15 1 == 0
    && (if leAt b 14 1 = 0 then seg == 0 && segs == 1 else leAt b 14 1 == 1 && (decide (2 ≤ segs) && decide (seg < segs))))

/-- Where the row of a Knight item lands at its list's owner (R151): the result area for a ROW item, the segment area for a SEGMENT item. -/
def State.itemArea (s : State) (t aux : Nat) (b : Item) : Nat :=
  let own := match s.listDie t b.list with
    | none => none
    | some d => s.listOwner d b.list
  let res := match own with
    | none => 0
    | some o => match s.queueRec o b.list 1 with
      | none => 0
      | some q => leAt q 12 2
  if leAt b.bytes 14 1 = 0 then 64 * res + 256 * leAt b.bytes 0 4 else 64 * aux + 256 * itemNo b.bytes

/-- KNIGHT_ITEM (R151): the head item runs under the DYNAMIC ACCUMULATE and the record that CLAIM names; its row goes to the result
area (a ROW item) or to the segment area (a SEGMENT item) of the list's owner. OP_INDEX reads 0xFFFF for a claimed item (R161). -/
def execKnightItem (t : Tile) (env : OpEnv) (s : State) : Host.Outcome State Fault Refusal :=
  match s.headItem t.val 0 with
  | none => .next s
  | some (s0, x, b, rest) =>
    let p := s0.phys t.val
    let f := knWord ((s0.body t.val s0.plan).getD (s0.tile p).dynOp 0) (s0.param t.val x.param)
    let start := leAt b.bytes 4 4
    let len := leAt b.bytes 8 2
    let runs := (s0.view p .knight false).segRuns p f start len
    if !knightOk b.bytes then .next (s0.itemInvalid t.val 0x060A b rest)
    else if len = 0 then .next ((s0.retire t.val rest []).count (Reg.tlKnCount p 8) 1)
    else if runs.any LineRun.crosses then .next (s0.itemInvalid t.val 0x0102 b rest)
    else
      let o : OpRun := ⟨2, false, true, 0xFFFF, 2, s0.offset, s0.offset, s0.offset + len + 17, 2 ^ 32, 0, 1, [], []⟩
      let s1 := s0.knPort p o env runs []
      let v := s1.view p .knight false
      let zs := v.segRow p f start len
      let s2 := s1.idxFaults p false false 0xFFFF f.sRows (s0.offset + 1) start none zs
      let r := bundles (zs.length + 1) (v.withRows p f 0 zs) (List.replicate (min f.n 64) 0)
      let bytes := padTo 256 (r.1.flatMap (leBytes 4))
      let a := s2.itemArea t.val f.aux b
      .next (((s2.retire t.val rest [⟨b.list, a, bytes.take 128, false⟩, ⟨b.list, a + 128, bytes.drop 128, false⟩]).count
        (Reg.tlAccOvfCount p) r.2).count (Reg.tlKnCount p 8) 1)

/-- The word of the plain MMA that a DENSE item stands for, started at offset `t0`: accumulator set 0, CLEAR 1 (R361). -/
def denseMma (t0 : Nat) (b : List Byte) : Nat :=
  1 + t0 % 2 ^ 24 * 2 ^ 24 + leAt b 0 2 % 2 ^ 15 * 2 ^ 48 + leAt b 2 2 % 2 ^ 15 * 2 ^ 63 + 2 ^ 79 + leAt b 6 1 * 2 ^ 80 + leAt b 7 1 * 2 ^ 87
    + leAt b 8 1 * 2 ^ 94 + leAt b 9 1 % 16 * 2 ^ 101 + leAt b 9 1 / 16 * 2 ^ 105

/-- The fields of a DENSE item lie in their ranges (R361). -/
def denseOk (b : List Byte) : Bool :=
  let f4 := fun x => decide (1 ≤ x) && decide (x ≤ 4)
  leAt b 14 1 == 2 && (decide (leAt b 6 1 ≤ 64) && (decide (leAt b 7 1 ≤ 64) && (decide (leAt b 8 1 ≤ 64)
    && (f4 (leAt b 9 1 % 16) && (f4 (leAt b 9 1 / 16) && (decide (leAt b 12 1 % 16 ≤ 7) && (decide (leAt b 12 1 < 32)
    && (decide (leAt b 13 1 ≤ 7) && (leAt b 15 1 == 0 && (decide (leAt b 0 2 < 2 ^ 15) && (decide (leAt b 2 2 < 2 ^ 15)
    && decide (leAt b 4 2 < 2 ^ 15))))))))))))

/-- The drain of a DENSE item (R361): UNIFORM, the constants of CLAIM's record, no scale slots. -/
def denseDrain (b : List Byte) : DrainWord where
  param := 0
  calib := false
  src := 0
  deriv := false
  act := leAt b 13 1 % 16
  prop := isBit (leAt b 12 1) 4
  fmt := leAt b 12 1 % 16
  m := leAt b 6 1
  m0 := 0
  set := 0
  srcLine := 0
  dstLine := 0

/-- Format 0x7 writes accumulators unchanged, so an item that asks for it changes nothing in the drain's steps (R67): scale 1, bias 0, no
activation, infinite clip bounds. -/
def DrainSet.identity (d : DrainSet) (act : Nat) : Bool :=
  act == 0 && (d.lo == f32NInf && (d.hi == f32PInf && d.scales.all (fun q => q == (f32One, 0))))

/-- One drained row of a DENSE item: its bytes, what it counts, its checksum test. -/
def State.denseRow1 (v : State) (t p : Nat) (o : OpRun) (f : DrainWord) (d : DrainSet) (a : AccSet) (x : (State × Bool) × List (List Byte)) (m : Nat) :
    (State × Bool) × List (List Byte) :=
  let ts := x.1.1.tile p
  let es := v.drainElems p f d a none ts m
  let s1 := (List.range a.heldN).foldl (fun s n => s.drainCount t p 0xFFFF (o.convertsAt m) f d false none m n (es.getD n ⟨0, 0, .none⟩)) x.1.1
  (s1.csTest p 0xFFFF m false a (ts.csAt 0 m) (ts.absAt 0 m) (exactRow f a ts m) x.1.2, x.2 ++ [elemBytes f.fmt (es.map (fun e => e.out))])

/-- The drain of a DENSE item, once its MMA has run: the rows, with the state. -/
def State.denseRows (s : State) (t p : Nat) (f : DrainWord) (d : DrainSet) : State × List (List Byte) :=
  let t1 := match (s.tile p).ops.getLast? with
    | none => s.offset
    | some o => o.last + o.lost + 1
  let o := drainRun f false true 0xFFFF t1 (2 ^ 32)
  let a := (s.tile p).set0
  let r := (List.range f.m).foldl (fun y m => s.denseRow1 t p o f d a y m) ((s.beginOp p o, false), [])
  (r.1.1, r.2)

/-- DENSE_ITEM (R361, R363, R365). -/
def execDenseItem (t : Tile) (env : OpEnv) (s : State) : Host.Outcome State Fault Refusal :=
  match s.headItem t.val 2 with
  | none => .next s
  | some (s0, x, b, rest) =>
    let p := s0.phys t.val
    let w := denseMma s0.offset b.bytes
    let f := denseDrain b.bytes
    let prm := patch (s0.param t.val x.param) 6 [0, 0, 0]
    let d := s0.drainSet s0 t.val p (leAt b.bytes 7 1) f prm false
    let h := fun (n : Nat) => (⟨b.list, 0, headerRow (itemNo b.bytes) n (leAt b.bytes 4 2) 2 0, true⟩ : RetRow)
    let runs := arrRunsA (arrWord w) (maskBits none (leAt b.bytes 8 1)) ++ arrRunsB (arrWord w) (maskBits none (leAt b.bytes 8 1))
    if !denseOk b.bytes || (f.fmt == 7 && !d.identity f.act) then .next (s0.itemInvalid t.val 0x060A b rest)
    else if leAt b.bytes 6 1 = 0 ∨ leAt b.bytes 7 1 = 0 ∨ leAt b.bytes 8 1 = 0 then
      .next ((s0.retire t.val rest [h 0]).count (Reg.tlDynCount p 4) 1)
    else if runs.any LineRun.crosses then .next (s0.itemInvalid t.val 0x0102 b rest)
    else
      let r := (s0.runArray t.val 0xFFFF w env).denseRows t.val p f d
      let rows := (List.range r.2.length).flatMap (fun i => resultRows b.list (leAt b.bytes 4 2) f.fmt i (r.2.getD i []))
      .next ((r.1.retire t.val rest (h r.2.length :: rows)).count (Reg.tlDynCount p 4) 1)

/-- The vector word of a VECTOR item (R362). -/
def itemVec (b : List Byte) : VecWord where
  const := leAt b 9 1
  ovf := isBit (leAt b 8 1) 4
  fmt := leAt b 8 1 % 16
  rows := leAt b 7 1
  dst := 64 * leAt b 4 2
  src2 := leAt b 2 2
  src1 := 64 * leAt b 0 2
  pre := false

/-- CONST of a VECTOR item: a constant that the tile has, a format, or 0 where the operation uses none (R236, R362). -/
def State.itemConst (s : State) (t opcode const : Nat) : Bool :=
  if opcode = 0x24 then decide (const < leAt (s.tileSection secCONSTANTS 0 t) 0 2)
  else if opcode = 0x27 then decide (const ≤ 6)
  else const == 0

/-- The fields of a VECTOR item lie in their ranges (R362). -/
def State.vectorOk (s : State) (t : Nat) (b : List Byte) : Bool :=
  leAt b 14 1 == 3 && ([0x20, 0x21, 0x22, 0x23, 0x24, 0x25, 0x26, 0x27, 0x29, 0x2A, 0x2B].contains (leAt b 6 1)
    && (decide (leAt b 7 1 ≤ 64) && (decide (leAt b 8 1 % 16 ≤ 4) && (decide (leAt b 8 1 < 32) && (decide (leAt b 0 2 < 2 ^ 15)
    && (decide (leAt b 2 2 < 2 ^ 15) && (decide (leAt b 4 2 < 2 ^ 15) && s.itemConst t (leAt b 6 1) (leAt b 9 1))))))))

/-- The lines of the rows that a VECTOR item reads. -/
def itemRuns (op : Nat) (f : VecWord) : List LineRun :=
  let n := f.rows * pitchLines f.fmt
  ⟨f.src1 / 64, n⟩ :: ((if vecHasSrc2 op then [⟨f.src2, n⟩] else []) ++ (if op = 0x23 then [⟨f.dst / 64, n⟩] else []))

/-- VECTOR_ITEM (R362, R363, R365). -/
def execVectorItem (t : Tile) (env : OpEnv) (s : State) : Host.Outcome State Fault Refusal :=
  match s.headItem t.val 1 with
  | none => .next s
  | some (s0, _, b, rest) =>
    let p := s0.phys t.val
    let f := itemVec b.bytes
    let op := leAt b.bytes 6 1
    let reads := s0.vecReads p op f
    let h : RetRow := ⟨b.list, 0, headerRow (itemNo b.bytes) f.rows (leAt b.bytes 4 2) 3 0, true⟩
    if !s0.vectorOk t.val b.bytes then .next (s0.itemInvalid t.val 0x060A b rest)
    else if f.rows = 0 then .next ((s0.retire t.val rest [h]).count (Reg.tlDynCount p 5) 1)
    else if (itemRuns op f).any LineRun.crosses then
      .next (s0.itemInvalid t.val 0x0102 b rest)
    else
      let o : OpRun := ⟨3, false, true, 0xFFFF, 0, s0.offset, s0.offset, s0.offset + f.rows + 11, 2 ^ 32, 0, 1, [], []⟩
      let s1 := s0.vecPort p o env reads []
      let v := s1.view p .vector false
      let rows := (List.range f.rows).map (fun i => v.vecRow t.val p op f i)
      let s2 := (List.range f.rows).foldl (fun s i => s.cvtRow p (((s1.tile p).ops.getLast?).getD o) (i + 12) i (rows.getD i [])) s1
      let ofm := s1.vecOutFmt p op f
      let rs := (List.range f.rows).flatMap (fun i =>
        resultRows b.list (leAt b.bytes 4 2) ofm i (elemBytes ofm ((rows.getD i []).map (fun (e : Nat × CvtEvent) => e.1))))
      .next ((s2.retire t.val rest (h :: rs)).count (Reg.tlDynCount p 5) 1)

/-- A row of the return buffer comes to the owner of its list in cycle `c`: a header row names no address, and an access that would cross a
bank is not made (R163, R204, R363). -/
def State.returnRow (s : State) (t c : Nat) (r : RetRow) : State :=
  if r.header then s
  else match s.listDie t r.list with
    | none => s
    | some d => match s.listOwner d r.list with
      | none => s
      | some o =>
        let p := s.phys o
        let run := byteRun r.addr r.bytes.length
        if run.crosses then s
        else (s.ownerCheck p (s.blockedWritesAt p .dma false c [run])).unitWriteAt p .dma false c r.addr r.bytes

/-- SLOT_RETURN (R204, R363): slot `i` of entry `e`, of kind RETURN and with the tile at its input, sends the head row of the tile's return
buffer to the owner of its list, who writes it at its address. -/
def execSlotReturn (t : Tile) (e i : Nat) (hits : List NetHit) (s : State) : Host.Outcome State Fault Refusal :=
  match s.slotDue t.val e i [2] with
  | none => .next s
  | some (x, c) =>
    if x.inp ≠ 0 then .next s
    else
      let p := s.phys t.val
      let s1 := s.useSlot t.val e i c
      match (s.tile p).returns with
      | [] => .next s1
      | r :: rest =>
        let k := ((s1.modTile p (fun ts => { ts with returns := rest })).count (Reg.dieNetCount (tDie t.val) 9) 1).netEcc hits
        if k.2 then .next k.1
        else .next (k.1.returnRow t.val ((s.wayEnd s.plan 4096 ⟨t.val, e, i, x, c⟩).cyc + 2) r)

end Sys2Proof.Machine
end

