-- ==== Sys2Proof/Machine/Bank.lean ====
section
/-! DEFINITION. Bank handover and the resolution of a premove (R70, R103, R122, R159, R168 to R177, R356 to R359). -/

namespace Sys2Proof.Machine

/-- Gives bank `b` of physical tile `p` to a state: a bank that leaves RETAINED wakes (R173). -/
def State.bankGive (s : State) (p b st : Nat) : State :=
  let k := Reg.tlBankOwn p b
  let old := s.bankState p b
  if old = st then s
  else (s.setFld k 2 0 st).setFld k 8 8 (if old = ownRETAINED then 1 else if st = ownRETAINED then 0 else s.fld k 8 8)

/-- BANK_GIVE (R168, R169): a bank in SPECULATIVE leaves it only by its resolution. -/
def execBankGive (t : Tile) (s : State) : Host.Outcome State Fault Refusal :=
  match s.start t.val (fun w => wOpcode w == 0x48) with
  | none => .next s
  | some (w, _, s1) =>
    let p := s1.phys t.val
    let b := bits w 49 48
    if s1.bankState p b = ownSPEC then .next s1
    else .next ((s1.bankGive p b (bits w 52 50)).modTile p (fun ts =>
      { ts with gives := ts.gives ++ [⟨wOffset w, b, s1.bankState p b, s1.bankWaking p b⟩] }))

/-- BANK_WAKE_DONE (R173): 520 cycles after a handover out of RETAINED. -/
def execBankWakeDone (p : PhysTile) (b : Bank) (s : State) : Host.Outcome State Fault Refusal :=
  .next (s.setFld (Reg.tlBankOwn p.val b.val) 8 8 0)

/-! ### The decision of a premove (R356, R358) -/

/-- A decision domain's record (R356). -/
structure DomainRec where
  domain : Nat
  scope : Nat
  group : Nat
  formMove : Nat
  formOff : Nat
  continueMin : Nat
  deriving DecidableEq, Repr

def State.domains (s : State) : List DomainRec :=
  let bs := s.devSection 0x42
  (List.range (leAt bs 0 2)).map (fun i =>
    let r := (bs.drop (8 + 16 * i)).take 16
    ⟨leAt r 0 1, leAt r 1 1, leAt r 2 1, leAt r 4 4, leAt r 8 3, leAt r 12 4⟩)

/-- The domain that resolves tile `t`'s premove in the present move: its group holds the tile, and it formed in the move before. -/
def State.premoveDomain (s : State) (t : Nat) : Option DomainRec :=
  s.domains.find? (fun r => r.formMove + 1 == s.stepMove && (s.groupTiles r.group).contains t)

/-- Target state of bank `b` in a COMMIT or DISCARD word (R238). -/
def targetOf (w b : Nat) : Nat := bits w (50 + 3 * b) (48 + 3 * b)

/-- The keys of a physical tile's registers. -/
def inTile (p k : Nat) : Bool := decide (tileKey p 0 ≤ k) && decide (k < tileKey (p + 1) 0)

/-- A register of a tile that has a shadow copy (R70): its counters and first records, so not the owner state of a bank. -/
def shadowed (p k : Nat) : Bool := inTile p k && (List.range 4).all (fun b => k != Reg.tlBankOwn p b)

/-- Releases the shadow counts, first records, latches and maxima of a tile (R70, R122, R159, R176). -/
def State.releaseShadow (s : State) (p : Nat) : State :=
  let cs := s.shadow.filter (fun e => shadowed p e.1)
  let fs := s.shadowFirst.filter (fun e => shadowed p e.1)
  let s1 := cs.foldl (fun s e => s.count e.1 e.2) s
  let s2 := fs.foldl (fun s e => if (s.reg e.1) = 0 then s.setReg e.1 e.2.toNat else s) s1
  { s2.modTile p (fun t =>
      { t with
        latches := t.shadowLatches.foldl addLatch t.latches
        amax := t.shadowAmax.foldl (fun m e =>
          if (Sparse.get (fun _ => (0 : W32)) m e.1).toNat < e.2.toNat then Sparse.set (fun _ => 0) m e.1 e.2 else m) t.amax }) with
    shadow := s2.shadow, shadowFirst := s2.shadowFirst }

/-- Clears the shadow copies of a tile. -/
def State.dropShadow (s : State) (p : Nat) : State :=
  { s.modTile p (fun t => { t with shadowLatches := [], shadowAmax := [] }) with
    shadow := Sparse.clearIf s.shadow (inTile p)
    shadowFirst := Sparse.clearIf s.shadowFirst (inTile p) }

/-- Clears the speculative marks of a tile. -/
def TileState.unmark (t : TileState) : TileState :=
  { t with set0 := { t.set0 with spec := false }, set1 := { t.set1 with spec := false }, bufSpec0 := false, bufSpec1 := false }

/-- Sets marked accumulators, their checksum pairs and marked merge buffers to +0 (R103, R159). -/
def TileState.zeroMarked (t : TileState) : TileState :=
  { t with
    acc := Sparse.clearIf t.acc (fun k => if k < 4096 then t.set0.spec else t.set1.spec)
    cs := Sparse.clearIf t.cs (fun k => if k < 64 then t.set0.spec else t.set1.spec)
    buf := Sparse.clearIf t.buf (fun k => if k < 4096 then t.bufSpec0 else t.bufSpec1) }

/-- COMMIT on physical tile `p` (R176). -/
def State.commitTile (s : State) (p w : Nat) : State :=
  let s1 := (List.range 4).foldl (fun s b => if s.bankState p b = ownSPEC then s.setFld (Reg.tlBankOwn p b) 2 0 (targetOf w b) else s) s
  ((s1.releaseShadow p).dropShadow p).modTile p (fun t => { t.unmark with passes := t.passes + t.specPasses, specPasses := 0 })

/-- DISCARD on physical tile `p` (R176). -/
def State.discardTile (s : State) (p w : Nat) : State :=
  let s1 := (List.range 4).foldl (fun s b =>
    if s.bankState p b = ownSPEC then (s.bankClear p b).setFld (Reg.tlBankOwn p b) 2 0 (targetOf w b) else s) s
  (s1.dropShadow p).modTile p (fun t => { t.zeroMarked.unmark with specPasses := 0 })

/-- The resolution words a tile's sequencer has come to: COMMIT and DISCARD (R239). -/
def State.resolution (s : State) (t : Nat) : Option (Nat × Nat) :=
  match s.nextWord t with
  | none => none
  | some w =>
    if s.running && wOpcode w == 0x49 then some (w, (s.body t s.plan).getD ((s.tile (s.phys t)).next + 1) 0) else none

/-- In the tick cycle a tile carries out COMMIT when `confirm`, DISCARD otherwise, as its domain's final decision says. -/
def State.resolve (s : State) (t : Nat) (confirm : Bool) : State :=
  match s.resolution t, s.premoveDomain t with
  | some (c, d), some r =>
    let k := Reg.netDecStatus r.domain
    if isBit (s.reg k) 2 && (isBit (s.reg k) 3 == confirm) then
      let p := s.phys t
      let s1 := s.setFld Reg.netMoveOffset 23 0 (s.moveCycles - 1)
      (if confirm then s1.commitTile p c else s1.discardTile p d).modTile p (fun ts => { ts with next := ts.next + 2 })
    else s
  | _, _ => s

/-- The DISCARD word of a tile's present body, 0 where it has none. -/
def State.discardWord (s : State) (t : Nat) : Nat := ((s.body t s.plan).find? (fun w => wOpcode w == 0x4A)).getD 0

/-- At a stop under R40, every SPECULATIVE bank is discarded to the target its image names, with the marks of its tile (R177). -/
def State.discardAll (s : State) : State :=
  (List.range 1024).foldl (fun s t =>
    let p := s.phys t
    let x := s.tile p
    if (List.range 4).any (fun b => s.bankState p b == ownSPEC) || (x.set0.spec || (x.set1.spec || (x.bufSpec0 || x.bufSpec1))) then s.discardTile p (s.discardWord t) else s) s

end Sys2Proof.Machine
end

