-- ==== Sys2Proof/Machine/HostOps.lean ====
section
/-! DEFINITION. How host commands end (R477, R478): results kept for repeats, and completions that are due. -/

namespace Sys2Proof.Machine

def State.takenOf (s : State) (r : Nat) : List Taken := Sparse.get (fun _ => ([] : List Taken)) s.taken r

def State.setTaken (s : State) (r : Nat) (l : List Taken) : State :=
  { s with taken := Sparse.set (fun _ => []) s.taken r l }

/-- Adds a due completion; HQ_ERR_COUNT[4] counts commands, [5] repeats. -/
def State.complete (s : State) (c : Completion) : State :=
  ({ s with completions := s.completions ++ [c] }).count (Reg.hqErrCount (if c.again then 5 else 4)) 1

/-- Ends the executed command `seq` of ring `r`: its completion, then those of the repeats that waited for it (R478). -/
def State.finish (s : State) (r seq status r0 r1 : Nat) : State :=
  match (s.takenOf r).find? (fun t => t.seq == seq) with
  | none => s
  | some t =>
    let s1 := s.setTaken r ((s.takenOf r).map (fun u =>
      if u.seq = seq then { u with result := some (status, r0, r1), repeats := [] } else u))
    let s2 := s1.complete ⟨r, seq, status, false, t.head, r0, r1⟩
    t.repeats.foldl (fun s h => s.complete ⟨r, seq, status, true, h, r0, r1⟩) s2

/-! ### Job-control commands (R479) -/

/-- The command at the head of the job-control commands, when it has begun and has this opcode. -/
def State.jobCmd (s : State) (op : Nat) : Option JobCmd :=
  match s.jobCmds with
  | [] => none
  | c :: _ => if c.begun && leAt c.bytes 0 1 == op then some c else none

/-- Ends the job-control command at the head: its completion. -/
def State.endJob (s : State) (status r0 r1 : Nat) : State :=
  match s.jobCmds with
  | [] => s
  | c :: rest => ({ s with jobCmds := rest }).finish c.ring c.seq status r0 r1

end Sys2Proof.Machine
end

