-- ==== Sys2Proof/Machine/Hbm.lean ====
section
/-! DEFINITION. HBM and host memory: device addresses and regions (R251 to R255, R472, R473), the check of atoms (R257, R258),
row repair (R260), the owner table with its staging and caches (R273 to R277), and the memory commands refresh, patrol scrub and
self-refresh (R249, R256, R259). -/

namespace Sys2Proof.Machine

/-! ### Regions of HBM (R252, R254) -/

/-- DIE_BYTES: installed bytes of a die region (R252). -/
def State.dieBytes (s : State) : Nat := if s.small then 0x2CB4178000 else 0x3B9ACA0000

/-- Base of die region `d`. -/
def dieBase (d : Nat) : Nat := d * 2 ^ 38

/-- Offsets within a die region: owner-table copy, remap area, image region, castle region, end of the job region. -/
def State.ownerOff (s : State) : Nat := s.dieBytes - 32 * 2 ^ 20
def State.imageOff (s : State) : Nat := s.dieBytes - 32 * 2 ^ 20 - 2 ^ 31
def State.castleBytes (s : State) (d : Nat) : Nat := s.fld (Reg.hbmCastleSize d) 15 0 * 2 ^ 30
def State.castleOff (s : State) (d : Nat) : Nat := (if d = 0 then s.imageOff else s.ownerOff) - s.castleBytes d
def State.jobBytes (s : State) (d : Nat) : Nat := s.castleOff d

/-- The range [a, a + n) lies in the job region of one die region. -/
def State.inJob (s : State) (a n : Nat) : Bool :=
  decide (a / 2 ^ 38 < 4) && decide (a % 2 ^ 38 + n ≤ s.jobBytes (a / 2 ^ 38))

/-- The range lies in installed memory of one die region. -/
def State.installed (s : State) (a n : Nat) : Bool :=
  decide (a / 2 ^ 38 < 4) && decide (a % 2 ^ 38 + n ≤ s.dieBytes)

/-- The stack of a device address, and its stack address (R253). -/
def stackOf (a : Nat) : Nat :=
  let g := a % 2 ^ 38 / 4096
  4 * (a / 2 ^ 38) + (bits g 1 0 ^^^ bits g 3 2 ^^^ bits g 5 4 ^^^ bits g 7 6)
def stackAddr (a : Nat) : Nat := a % 2 ^ 38 / 4096 / 4 * 4096 + a % 4096

/-- Pseudo-channel, bank, row and atom of a device address. -/
def pcOf (a : Nat) : Nat := bits (stackAddr a) 11 6
def placeOf (a : Nat) : Nat := Config.hbmPlace (stackAddr a) % 2 ^ 26

/-! ### Host memory (R472, R473) -/

def State.region (s : State) (i : Nat) : HostRegion := Sparse.get (fun _ => HostRegion.none) s.regions i

/-- The range lies within registered region `i`. -/
def State.inRegion (s : State) (i off n : Nat) : Bool :=
  let r := s.region i
  decide (0 < r.bytes) && decide (off + n ≤ r.bytes)

/-- The bus address of a host-memory device address (R251). -/
def State.busAddr (s : State) (a : Nat) : Nat := (s.region (bits a 46 40)).base + a % 2 ^ 40

/-- A device address of host memory. -/
def isHostAddr (a : Nat) : Bool := isBit a 47

/-- Reads and writes of a device address, without any check. -/
def State.devRead (s : State) (a n : Nat) : List Byte :=
  if isHostAddr a then Mem.read s.hostMem (s.busAddr a) n else Mem.read s.hbm a n
def State.devWrite (s : State) (a : Nat) (bs : List Byte) : State :=
  if isHostAddr a then { s with hostMem := Mem.write s.hostMem (s.busAddr a) bs }
  else { s with hbm := Mem.write s.hbm a bs }

/-! ### The check of atoms (R257, R258) -/

/-- A run of device addresses that a command reads. -/
structure AddrRun where
  addr : Nat
  bytes : Nat
  deriving DecidableEq, Repr

/-- The run touches the atom of address `a`. -/
def AddrRun.touches (r : AddrRun) (a : Nat) : Bool :=
  decide (0 < r.bytes) && (decide (r.addr / 64 ≤ a / 64) && decide (a / 64 ≤ (r.addr + r.bytes - 1) / 64))

/-- Whether a fault makes the controller deliver zeros. -/
def faultLost : AtomFault → Bool
  | .uncorrectable => true
  | .transferFailed => true
  | _ => false

/-- HBM as the controllers deliver it: an atom that cannot be corrected is delivered as zeros (R257). -/
def State.delivered (s : State) (env : MemEnv) : State :=
  { s with hbm := (env.filter (fun h => faultLost h.fault)).foldl (fun m h => Mem.zero m (h.addr / 64 * 64) (h.addr / 64 * 64 + 64)) s.hbm }

/-- HBM_ECC_FIRST keeps its first record, but one of 0x0919 replaces one of 0x091A (R258). -/
def State.hbmFirst (s : State) (code a symbol : Nat) (scrub : Bool) : State :=
  let k := Reg.hbmEccFirst (stackOf a)
  let v := code * 2 ^ 48 + pcOf a * 2 ^ 42 + placeOf a * 2 ^ 16 + symbol % 128 * 2 ^ 9 + b2n scrub * 2 ^ 8 + 2 ^ 7
  if isBit (s.reg k) 7 && !(s.fld k 63 48 == 0x091A && code == 0x0919) then s else s.setReg k v

/-- What one faulty atom counts, records and reports; `sev` is the severity of an uncorrectable one. -/
def State.atomFault (s : State) (sev : Nat) (scrub : Bool) (h : AtomHit) : State :=
  let k := stackOf h.addr
  let bad := fun (s : State) =>
    ((s.count (Reg.hbmCount k 2) 1).hbmFirst 0x0919 h.addr 0x7F scrub).reportAt sev 0x0919 (k / 4) 0 0 (k + h.addr / 64 * 2 ^ 24) srcHbm k
  match h.fault with
  | .corrected sym =>
    let s1 := (s.count (Reg.hbmCount k 0) 1).hbmFirst 0x091A h.addr sym scrub
    { s1 with retests := s1.retests ++ [⟨1, k, h.addr / 64⟩] }
  | .onDie => s.count (Reg.hbmCount k 1) 1
  | .uncorrectable => bad s
  | .retried n => s.count (Reg.hbmCount k 3) (min n 4)
  | .transferFailed => bad (s.count (Reg.hbmCount k 3) 4)

/-- Counts accesses to remapped rows among the atoms of a run: HBM_COUNT[6]. -/
def State.countRemaps (s : State) (r : AddrRun) : State :=
  s.remaps.foldl (fun s m =>
    let atoms := (List.range ((r.addr + r.bytes + 63) / 64 - r.addr / 64)).map (fun i => (r.addr / 64 + i) * 64)
    s.count (Reg.hbmCount m.stack 6) ((atoms.filter (fun a =>
      stackOf a == m.stack && (pcOf a == m.pc && (bits (placeOf a) 25 22 == m.bank && bits (placeOf a) 21 4 == m.row)))).length)) s

/-- A fault that the transfer of a write can meet too: its parity or CRC (R249, R257). -/
def faultOnWrite : AtomFault → Bool
  | .retried _ => true
  | .transferFailed => true
  | _ => false

/-- Everything that reads, and writes, of the given runs meet in HBM. -/
def State.hbmAccess (s : State) (env : MemEnv) (reads : List AddrRun) (writes : List AddrRun := []) : State :=
  let hs := env.filter (fun h => !isHostAddr h.addr
    && (reads.any (fun r => r.touches h.addr) || (faultOnWrite h.fault && writes.any (fun r => r.touches h.addr))))
  ((reads ++ writes).filter (fun r => !isHostAddr r.addr)).foldl (fun s r => s.countRemaps r)
    (hs.foldl (fun s h => s.atomFault sevCRITICAL false h) s)

/-- Atoms of HBM that a write covers only in part, and so are merged (R295). -/
def partialAtoms (a n : Nat) : List Nat :=
  if n = 0 then []
  else
    let f := a / 64 * 64
    let l := (a + n - 1) / 64 * 64
    (if a % 64 ≠ 0 || (f = l && (a + n) % 64 ≠ 0) then [f] else [])
      ++ (if (a + n) % 64 ≠ 0 && f ≠ l then [l] else [])

/-- The atoms that writes of the given runs merge are read first: one that cannot be corrected is merged as zeros (R257, R295). -/
def State.mergeAtoms (s : State) (env : MemEnv) (atoms : List Nat) : State :=
  { s with hbm := (env.filter (fun h => faultLost h.fault && atoms.contains (h.addr / 64 * 64))).foldl (fun m h =>
      Mem.zero m (h.addr / 64 * 64) (h.addr / 64 * 64 + 64)) s.hbm }

/-- Free bytes from counter `ctr` on. -/
def freeRow (ctr : Nat) : Nat → List Byte
  | 0 => []
  | n + 1 => Byte.of (Config.free ctr).toNat :: freeRow (ctr + 1) n

/-- An atom that a write covers whole, and whose transfer fails for good, holds bytes that no rule states: free bytes (R257, log entry 126). -/
def State.spoilAtoms (s : State) (env : MemEnv) (runs : List AddrRun) : State :=
  (env.filter (fun h => h.fault == .transferFailed && runs.any (fun r =>
      !isHostAddr r.addr && (r.touches h.addr && !(partialAtoms r.addr r.bytes).contains (h.addr / 64 * 64))))).foldl (fun s h =>
    { s with hbm := Mem.write s.hbm (h.addr / 64 * 64) (freeRow s.freeCtr 64), freeCtr := s.freeCtr + 64 }) s

/-- A write of bytes in HBM, with what the write meets there. -/
def State.hbmPut (s : State) (env : MemEnv) (a : Nat) (bs : List Byte) : State :=
  let s1 := s.mergeAtoms env (partialAtoms a bs.length)
  { s1 with hbm := Mem.write s1.hbm a bs }.spoilAtoms env [⟨a, bs.length⟩]

/-- A write of bytes at a device address, with what the write meets in HBM. -/
def State.devPut (s : State) (env : MemEnv) (a : Nat) (bs : List Byte) : State :=
  if isHostAddr a then s.devWrite a bs else s.hbmPut env a bs

/-! ### Memory commands -/

/-- An access to [a, a + n) ends the self-refresh of the stacks it reaches. -/
def State.hbmTouch (s : State) (a n : Nat) : State :=
  (List.range (if n = 0 then 0 else (a + n - 1) / 64 + 1 - a / 64)).foldl (fun s i =>
    if s.installed (a / 64 * 64 + 64 * i) 1 then s.setFld (Reg.hbmStatus (stackOf (a / 64 * 64 + 64 * i))) 8 8 0 else s) s

/-- HBM_REFRESH (R256): `waited` requests found their bank refreshing. -/
def execHbmRefresh (k : Stack) (waited : Nat) (s : State) : Host.Outcome State Fault Refusal :=
  .next (s.count (Reg.hbmCount k.val 4) waited)

/-- HBM_PATROL_SCRUB (R259): the next atom of a stack is read, and corrected or reported. -/
def execHbmPatrolScrub (hit : AtomHit) (s : State) : Host.Outcome State Fault Refusal :=
  if s.fld Reg.hbmScrubStatus 0 0 = 0 ∨ s.installed hit.addr 1 = false then .next s
  else
    let s1 := (s.hbmTouch (hit.addr / 64 * 64) 64).atomFault (if s.running then sevCRITICAL else sevERROR) true hit
    match hit.fault with
    | .corrected _ => .next (s1.count (Reg.hbmCount (stackOf hit.addr) 5) 1)
    | _ => .next s1

/-- HBM_SELF_REFRESH (R249): in EMPTY, after 1 ms without access. -/
def execHbmSelfRefresh (k : Stack) (s : State) : Host.Outcome State Fault Refusal :=
  if s.jobState = jobEMPTY then .next (s.setFld (Reg.hbmStatus k.val) 8 8 1) else .next s

/-- A job state other than EMPTY ends self-refresh. -/
def State.hbmWake (s : State) : State := (List.range 16).foldl (fun s k => s.setFld (Reg.hbmStatus k) 8 8 0) s

/-- HBM_REPAIR_GO (R260): a write of HBM_REPAIR with GO 1; `resource`: the stack reports a hard resource for that bank. An
order given while a repair of the stack runs changes nothing (log entry 14). -/
def execHbmRepairGo (k : Stack) (value : Nat) (resource : Bool) (s : State) : Host.Outcome State Fault Refusal :=
  let r := Reg.hbmRepair k.val
  if isBit (s.reg r) 38 || !isBit value 32 then .next s
  else
    let s1 := (s.setFld r 31 4 (bits value 31 4)).setFld r 34 34 (bit value 34)
    let hard := resource && !isBit value 34
    let refused := !(s.jobState == jobEMPTY || s.jobState == jobSTOPPED) || (!hard && decide (256 ≤ s.fld r 47 39))
    if refused then .next (s1.setFld r 63 48 0x040E)
    else
      let s2 := (s1.setFld r 38 38 1).setFld r 37 37 (b2n hard)
      let entry := [Byte.of 6, Byte.of k.val, 0, 0] ++ (leBytes 4 (bits value 31 4 * 16 + b2n hard) ++ leBytes 8 s.utcSeconds)
      .next { s2 with repairsDue := s2.repairsDue ++ [entry] }

/-- The device addresses of a repaired row read as zero until written (R260). -/
def State.zeroRow (s : State) (k pc bank row : Nat) : State :=
  { s with hbm := Sparse.clearIf s.hbm (fun a =>
      stackOf a == k && (pcOf a == pc && (bits (placeOf a) 25 22 == bank && bits (placeOf a) 21 4 == row))) }

/-- HBM_REPAIR_DONE (R260, R445): the repair completes once its entry is durable. -/
def execHbmRepairDone (k : Stack) (s : State) : Host.Outcome State Fault Refusal :=
  let r := Reg.hbmRepair k.val
  if !isBit (s.reg r) 38 || s.repairsDue.any (fun e => leAt e 0 1 == 6 && leAt e 1 1 == k.val) then .next s
  else
    let pc := s.fld r 31 26
    let bank := s.fld r 25 22
    let row := s.fld r 21 4
    let s1 := ((s.setFld r 38 38 0).setFld r 63 48 0).zeroRow k.val pc bank row
    if isBit (s.reg r) 37 then .next s1
    else .next { s1.setFld r 47 39 (s.fld r 47 39 + 1) with remaps := s1.remaps ++ [⟨k.val, pc, bank, row⟩] }

/-! ### The owner table (R273 to R277) -/

/-- Address of entry `i` in the copy of die `d`. -/
def State.ownerAddr (s : State) (d i : Nat) : Nat := dieBase d + s.ownerOff + 8 * i

/-- The last staged write of entry `i`. -/
def stagedValue (i : Nat) (l : List (Nat × W64)) : Option Nat :=
  l.foldl (fun acc e => if e.1 = i then some e.2.toNat else acc) none

/-- Entry `i` as lookups see it: staging, then the copy. -/
def State.ownerEntry (s : State) (d i : Nat) : Nat :=
  match stagedValue i s.staging with
  | some v => v
  | none => Mem.le s.hbm (s.ownerAddr d i) 8

/-- Writes an entry into all four copies. -/
def State.ownerWrite (s : State) (i v : Nat) : State :=
  { s with hbm := (List.range 4).foldl (fun m d => Mem.write m (s.ownerAddr d i) (leBytes 8 v)) s.hbm }

/-- One access of die `d`'s cache to entry `i`: 16 ways, least recently used replaced; hits and misses count (R276). -/
def State.ownerCacheAccess (s : State) (d i : Nat) : State :=
  let k := d * 4096 + i % 4096
  let ways := Sparse.get (fun _ => ([] : List Nat)) s.ownerCache k
  let s1 := { s with ownerCache := Sparse.set (fun _ => []) s.ownerCache k ((i :: ways.filter (fun j => j != i)).take 16) }
  s1.count (Reg.hbmOwnCount (if ways.contains i then d else 4 + d)) 1

/-- Removes entry `i` from every cache. -/
def State.ownerEvict (s : State) (i : Nat) : State :=
  { s with ownerCache := (List.range 4).foldl (fun c d =>
      let k := d * 4096 + i % 4096
      Sparse.set (fun _ => []) c k ((Sparse.get (fun _ => ([] : List Nat)) c k).filter (fun j => j != i))) s.ownerCache }

/-- The directory record of a tensor (R274): FIRST, ENTRIES, BLOCK. -/
def State.dtensor (s : State) (tensor : Nat) : Option (Nat × Nat × Nat) :=
  let bs := s.devSection 0x10
  match ((List.range (leAt bs 0 4)).map (fun i => (bs.drop (8 + 16 * i)).take 16)).find? (fun r => leAt r 0 4 == tensor) with
  | none => none
  | some r => some (leAt r 4 4, leAt r 8 4, leAt r 12 1)

/-- What a lookup answers: a failure code, or owner and address. -/
inductive Lookup where
  | fail (code : Nat)
  | found (owner addr : Nat)
  deriving DecidableEq, Repr

/-- Entry `i` as an access of die `d` reads it: a miss of the cache reads the die's copy in HBM, with what that read meets (R257, R276). -/
def State.ownerFetch (s : State) (env : MemEnv) (d i : Nat) : State × Nat :=
  if (stagedValue i s.staging).isSome then (s, s.ownerEntry d i)
  else if (Sparse.get (fun _ => ([] : List Nat)) s.ownerCache (d * 4096 + i % 4096)).contains i then (s.ownerCacheAccess d i, s.ownerEntry d i)
  else ((s.hbmAccess env [⟨s.ownerAddr d i, 8⟩]).ownerCacheAccess d i, (s.delivered env).ownerEntry d i)

/-- A lookup of a tensor, byte offset and epoch by an engine of die `d` (R275). -/
def State.ownerLookup (s : State) (env : MemEnv) (d tensor offset epoch : Nat) : State × Lookup :=
  match s.dtensor tensor with
  | none => (s.count (Reg.hbmOwnCount 8) 1, .fail 0x040A)
  | some (first, entries, block) =>
    let b := offset / 2 ^ (16 + block)
    if entries ≤ b then (s.count (Reg.hbmOwnCount 8) 1, .fail 0x040A)
    else
      let i := first + b
      let q := s.ownerFetch env d i
      let s1 := q.1
      let e := q.2
      if !isBit e 63 || bits e 54 51 != block then (s1.count (Reg.hbmOwnCount 8) 1, .fail 0x040A)
      else if bits e 62 55 ≠ epoch then (s1.count (Reg.hbmOwnCount 9) 1, .fail 0x040B)
      else (s1, .found (bits e 50 31) (bits e 23 0 * 65536 + offset % 2 ^ (16 + block)))

/-- OWNER_STAGING_DRAIN (R276): the oldest visible staged write reaches all four copies. -/
def execOwnerStagingDrain (s : State) : Host.Outcome State Fault Refusal :=
  match s.staging with
  | [] => .next s
  | e :: rest => .next ((({ s with staging := rest }).ownerWrite e.1 e.2.toNat).count (Reg.hbmOwnCount 10) 1)

/-- HBM_OWN_READ (R277), in any job state: the host reads the copy of die 0, unless a staged write of the entry stands before it. -/
def execHbmOwnRead (s : State) (mem : MemEnv := []) : Host.Outcome State Fault Refusal :=
  let i := s.fld Reg.hbmOwnIndex 20 0
  if (stagedValue i s.staging).isSome then .next ((s.setReg Reg.hbmOwnData (s.ownerEntry 0 i)).setFld Reg.hbmOwnCmd 31 16 0)
  else
    let a := s.ownerAddr 0 i
    .next ((((s.hbmTouch a 8).hbmAccess mem [⟨a, 8⟩]).setReg Reg.hbmOwnData ((s.delivered mem).ownerEntry 0 i)).setFld Reg.hbmOwnCmd 31 16 0)

/-- HBM_OWN_WRITE (R277), in LOADED and STOPPED only. -/
def execHbmOwnWrite (s : State) : Host.Outcome State Fault Refusal :=
  if s.jobState = jobLOADED ∨ s.jobState = jobSTOPPED then
    let i := s.fld Reg.hbmOwnIndex 20 0
    .next ((((({ s with staging := s.staging.filter (fun e => e.1 != i) }).ownerWrite i (s.reg Reg.hbmOwnData)).ownerEvict i).count
      (Reg.hbmOwnCount 11) 1).setFld Reg.hbmOwnCmd 31 16 0)
  else .next (s.setFld Reg.hbmOwnCmd 31 16 0x040C)

end Sys2Proof.Machine
end

