-- ==== Sys2Proof/Machine/Dma.lean ====
section
/-! DEFINITION. The tile DMA (R289 to R304): descriptor checks, COPY and TRANSPOSE, the issue phase of DMA_IN and DMA_OUT, their
landing and completion; and the activation stack's frames as the DMA meets them (R312, R315, R318, R319). -/

namespace Sys2Proof.Machine

/-! ### Descriptors (R289) -/

/-- The fields of a COPY or TRANSPOSE descriptor. -/
structure Desc where
  kind : Nat
  fmt : Nat
  srcDev : Bool
  dstDev : Bool
  fence : Bool
  levels : Nat
  src : Nat
  dst : Nat
  count : List Nat
  sStride : List Nat
  dStride : List Nat
  sBound : Nat
  dBound : Nat
  deriving DecidableEq, Repr

def descOf (bs : List Byte) : Desc where
  kind := leAt bs 0 1
  fmt := leAt bs 1 1
  srcDev := isBit (leAt bs 2 1) 0
  dstDev := isBit (leAt bs 2 1) 1
  fence := isBit (leAt bs 2 1) 2
  levels := leAt bs 3 1
  src := leAt bs 8 8
  dst := leAt bs 16 8
  count := (List.range 4).map (fun i => leAt bs (24 + 4 * i) 4)
  sStride := 0 :: (List.range 3).map (fun i => leAt bs (40 + 4 * i) 4)
  dStride := 0 :: (List.range 3).map (fun i => leAt bs (52 + 4 * i) 4)
  sBound := leAt bs 64 8
  dBound := leAt bs 72 8

/-- COUNT of a level, 1 above LEVELS. -/
def Desc.n (d : Desc) (l : Nat) : Nat := if l < d.levels then d.count.getD l 0 else 1

/-- Element width in bytes. -/
def Desc.w (d : Desc) : Nat := fmtBits d.fmt / 8

/-- Bytes of a run of level 0 (R291). -/
def Desc.run (d : Desc) : Nat := fmtBytes d.fmt (d.n 0)

/-- Extents of both sides (R292, R296). -/
def Desc.sExt (d : Desc) : Nat :=
  d.run + (d.n 1 - 1) * d.sStride.getD 1 0 + (d.n 2 - 1) * d.sStride.getD 2 0 + (d.n 3 - 1) * d.sStride.getD 3 0
def Desc.dExt (d : Desc) : Nat :=
  (if d.kind = 1 then d.n 1 * d.w + (d.n 0 - 1) * d.dStride.getD 1 0 else d.run + (d.n 1 - 1) * d.dStride.getD 1 0)
    + (d.n 2 - 1) * d.dStride.getD 2 0 + (d.n 3 - 1) * d.dStride.getD 3 0

/-- Check 1 of R293. -/
def descFields (bs : List Byte) : Bool :=
  let d := descOf bs
  if d.kind = 2 then
    zeroAt bs 1 7 && (zeroAt bs 24 40 && (decide (leAt bs 8 8 < 2 ^ 21) && (leAt bs 8 8 % 64 == 0 && leAt bs 16 8 != 2 ^ 64 - 1)))
  else
    decide (d.kind < 2) && (decide (d.fmt < 8) && (decide (leAt bs 2 1 < 8) && (decide (1 ≤ d.levels) && (decide (d.levels ≤ 4)
    && (zeroAt bs 4 4 && (zeroAt bs 80 48
    && (decide (d.src < (if d.srcDev then 2 ^ 48 else 2 ^ 21)) && (decide (d.dst < (if d.dstDev then 2 ^ 48 else 2 ^ 21))
    && (d.sBound != 2 ^ 64 - 1 && (d.dBound != 2 ^ 64 - 1
    && (List.range 4).all (fun l =>
        if l < d.levels then d.count.getD l 0 != 2 ^ 32 - 1
        else d.count.getD l 0 == 0 && (d.sStride.getD l 0 == 0 && d.dStride.getD l 0 == 0))))))))))))

/-- A descriptor that moves nothing once its fields are valid (R293). -/
def Desc.void (d : Desc) : Bool :=
  d.sBound == 0 || (d.dBound == 0 || (List.range d.levels).any (fun l => d.count.getD l 0 == 0))

/-- An in-place square transpose (R298). -/
def Desc.square (d : Desc) : Bool :=
  d.kind == 1 && (d.src == d.dst && (d.n 0 == d.n 1 && (d.sStride.getD 1 0 == d.dStride.getD 1 0
    && (decide (d.n 0 * d.w ≤ d.sStride.getD 1 0) && decide (d.levels ≤ 2)))))

/-- The tile-side buffer [a, a + n) lies in one bank. -/
def oneBank (a n : Nat) : Bool := decide (a % 2 ^ 19 + n ≤ 2 ^ 19)

/-- The first failing check of a COPY or TRANSPOSE descriptor past check 1 (R293), 0 for none. `lo`, `hi`: the landing slot of a
DMA_IN as tile-local byte addresses. -/
def State.descCheck (s : State) (p : Nat) (out : Bool) (lo hi : Nat) (d : Desc) : Nat :=
  let devSide := fun (dev : Bool) (a n : Nat) => dev && (!isHostAddr a && !s.inJob a n)
  let hostSide := fun (dev : Bool) (a n : Nat) => dev && (isHostAddr a && !s.inRegion (bits a 46 40) (a % 2 ^ 40) n)
  if (if out then d.srcDev || !d.dstDev else d.dstDev) then 0x0104
  else if d.kind = 1 && !(d.fmt ≤ 5) then 0x0105
  else if d.kind = 1 && ((!d.srcDev && (d.src % 64 != 0 || d.sStride.getD 1 0 % 64 != 0))
      || (!d.dstDev && (d.dst % 64 != 0 || d.dStride.getD 1 0 % 64 != 0))) then 0x0103
  else if d.sBound < d.sExt || d.dBound < d.dExt || (!d.srcDev && !oneBank d.src d.sBound) || (!d.dstDev && !oneBank d.dst d.dBound)
      || (!out && (decide (d.dst < lo) || decide (hi < d.dst + d.dBound))) then 0x0102
  else if devSide d.srcDev d.src d.sBound || devSide d.dstDev d.dst d.dBound then 0x0403
  else if hostSide d.srcDev d.src d.sBound || hostSide d.dstDev d.dst d.dBound then 0x0A04
  else if (!d.srcDev && !s.readOk p (bankOf d.src) .dma false) || (!d.dstDev && !s.writeOk p (bankOf d.dst) .dma false) then 0x0106
  else if !d.srcDev && !d.dstDev && decide (d.src < d.dst + d.dExt) && decide (d.dst < d.src + d.sExt) && !d.square then 0x0107
  else 0

/-- The tile side of a PETAL descriptor (R299): checks 5 and 8. -/
def State.petalDescCheck (s : State) (p : Nat) (out : Bool) (lo hi : Nat) (bs : List Byte) : Nat :=
  let a := leAt bs 8 8
  let n := leAt bs 16 8
  if n = 0 then 0
  else if !oneBank a n || (!out && (decide (a < lo) || decide (hi < a + n))) then 0x0102
  else if (if out then !s.readOk p (bankOf a) .dma false else !s.writeOk p (bankOf a) .dma false) then 0x0106
  else 0

/-- The code that one descriptor fails with, 0 for none (R293). -/
def State.descCode (s : State) (p : Nat) (out : Bool) (lo hi : Nat) (bs : List Byte) : Nat :=
  if allZero bs then 0
  else if !descFields bs then 0x0101
  else if leAt bs 0 1 = 2 then s.petalDescCheck p out lo hi bs
  else if (descOf bs).void then 0
  else s.descCheck p out lo hi (descOf bs)

/-! ### The activation stack as the DMA meets it (R312, R315, R318, R319) -/

/-- The STACK section of a die. -/
def State.stackSec (s : State) (d : Nat) : List Byte := s.dieSection 0x30 d

/-- A frame record (R312). -/
structure FrameRec where
  off : Nat
  bytes : Nat
  policy : Nat
  push : Nat
  pop : Nat
  hostOff : Nat
  deriving DecidableEq, Repr

def State.frameRec (s : State) (d f : Nat) : FrameRec :=
  let r := ((s.stackSec d).drop (64 + 32 * f)).take 32
  ⟨leAt r 0 8, leAt r 8 4, leAt r 12 1, leAt r 16 4, leAt r 20 4, leAt r 24 8⟩

def State.frameCount (s : State) (d : Nat) : Nat := leAt (s.stackSec d) 34 2
def State.ringBase (s : State) (d : Nat) : Nat := leAt (s.stackSec d) 0 8
def State.ringBytes (s : State) (d : Nat) : Nat := leAt (s.stackSec d) 8 8

/-- Ranges [a, a + n) and [b, b + m) meet. -/
def meets (a n b m : Nat) : Bool := decide (0 < n) && (decide (0 < m) && (decide (a < b + m) && decide (b < a + n)))

/-- The range lies in frame f's range. -/
def State.inFrame (s : State) (d f a n : Nat) : Bool :=
  let r := s.frameRec d f
  let b := s.ringBase d + r.off
  decide (b ≤ a) && decide (a + n ≤ b + r.bytes)

/-- The device side of a descriptor: address and bytes of its extent. -/
def Desc.devRange (d : Desc) (out : Bool) : Nat × Nat := if out then (d.dst, d.dExt) else (d.src, d.sExt)

/-- The frame that a device-side range pushes (out) or pops in the present move, if any. -/
def State.frameOf (s : State) (d : Nat) (out : Bool) (a n : Nat) : Option Nat :=
  (List.range (s.frameCount d)).find? (fun f =>
    let r := s.frameRec d f
    r.policy != 2 && (s.inFrame d f a n && (if out then r.push == s.stepMove else r.pop == s.stepMove)))

/-- Whether a descriptor touches the ring of die `d` outside a push or pop (R319). -/
def State.ringFault (s : State) (out : Bool) (d : Nat) (bs : List Byte) : Bool :=
  let x := descOf bs
  let r := x.devRange out
  x.kind != 2 && (!x.void && (!allZero bs && ((if out then x.dstDev else x.srcDev)
    && (meets r.1 r.2 (s.ringBase d) (s.ringBytes d) && (s.frameOf d out r.1 r.2).isNone))))

/-- The number within its step of a move. -/
def State.moveInStep (s : State) (m : Nat) : Nat := if s.stepMoves = 0 then 0 else m % s.stepMoves

/-- The first descriptor of a chain that touches a ring outside a push or pop, and the die of that ring (R319). -/
def State.stackFault (s : State) (out : Bool) (descs : List (List Byte)) : Option (Nat × Nat) :=
  match (List.range descs.length).find? (fun i => (List.range 4).any (fun d => s.ringFault out d (descs.getD i []))) with
  | none => none
  | some i => match (List.range 4).find? (fun d => s.ringFault out d (descs.getD i [])) with
    | none => none
    | some d => some (i, d)

/-! ### The issue phase (R301) -/

/-- Rises of rejections by tile and code, and the operation and descriptor of the first (R294): keys in the table of rises. -/
def dmaRejKey (p code : Nat) : Nat := 0x40000000 + p * 65536 + code
def dmaRejAt (p code : Nat) : Nat := 0x48000000 + p * 65536 + code

/-- A rejected chain (R294): counted and recorded. -/
def State.dmaReject (s : State) (p op desc code : Nat) : State :=
  let s1 := (s.count (Reg.tlDmaCount p 1) 1).first (Reg.tlDmaFirst p) 31 (code * 2 ^ 48 + op % 2 ^ 16 * 2 ^ 32 + 2 ^ 31 + desc % 256)
  let s2 := { s1 with rises := Sparse.set (fun _ => 0) s1.rises (dmaRejKey p code) (s1.rise (dmaRejKey p code) + 1) }
  if s2.rise (dmaRejAt p code) = 0 then { s2 with rises := Sparse.set (fun _ => 0) s2.rises (dmaRejAt p code) (1 + op * 256 + desc % 256) }
  else s2

/-- The first failing descriptor of a chain: index and code. -/
def State.chainFault (s : State) (p : Nat) (out : Bool) (lo hi : Nat) (descs : List (List Byte)) : Option (Nat × Nat) :=
  match (List.range descs.length).find? (fun i => s.descCode p out lo hi (descs.getD i []) != 0) with
  | none => none
  | some i => some (i, s.descCode p out lo hi (descs.getD i []))

/-- Zeroes a landing slot, as a rejected DMA_IN lands (R294), in a bank that wakes too: the slot counts as landed. A bank that belongs to
another unit keeps its contents (R166). -/
def State.zeroLanding (s : State) (p line lines : Nat) : State :=
  if admitsWrite (s.bankState p (bankOfLine line)) .dma false then s.bankWrite p (64 * line) (List.replicate (64 * lines) 0) else s

/-- The Petal commands of a chain, as they reach the dispatcher (R261). A tile buffer of no bytes requests no operation (R16). -/
def State.chainPetals (s : State) (t i : Nat) (out : Bool) (descs : List (List Byte)) : List PetalCmd :=
  ((List.range descs.length).filter (fun k => leAt (descs.getD k []) 0 1 == 2 && leAt (descs.getD k []) 16 8 != 0)).map (fun k =>
    let b := descs.getD k []
    { cmd := (b.drop 64).take 64, host := false, tile := t, opIndex := i, issue := s.move, desc := k, out := out
      due := s.move + leAt b 68 1, ring := 0, seq := 0, dest := leAt b 8 8, bytes := leAt b 16 8, rows := [], result := [], stage := 0 })

/-- The issue phase of DMA_IN or DMA_OUT (R301): descriptors are read and checked; a passing chain opens a transfer. A chain of no
descriptor is no operation (R16). -/
def State.dmaIssue (s : State) (t i w : Nat) (env : OpEnv) (out : Bool) : State :=
  if bits w 70 63 = 0 then s
  else
    let p := s.phys t
    let line := bits w 62 48
    let n := bits w 70 63
    let land := if out then (0, 0) else s.landing t (bits w 90 79)
    let due := if out then s.move + 1 else s.move + bits w 78 71
    let runs := [⟨line, 2 * n⟩]
    let t0 := wOffset w
    let e := s.bankEcc p env.flips (accesses (s.openReads p .dma false s.offset runs))
    let s2 := ((e.1.beginOp p ⟨4, false, false, i, 0, t0, t0, t0 + 3 + (n + 1) / 2, wGuard w, 0, 1, [], []⟩).clashes p env.clashes).ownerCheck p
      (s.blockedReads p .dma false runs)
    let v := s2.view p .dma false
    let descs := (List.range n).map (fun k => v.bankRead p (64 * line + 128 * k) 128)
    let lo := 64 * land.1
    let hi := lo + 64 * land.2
    let x : DmaXfer := ⟨i, s.move, due, out, land.1, land.2, descs, false, false, []⟩
    match s2.chainFault p out lo hi descs with
    | some (k, code) =>
      let s3 := s2.dmaReject p i k code
      (if out then s3 else s3.zeroLanding p land.1 land.2).modTile p (fun ts =>
        { ts with dma := ts.dma ++ [{ x with landed := true, acked := true }] })
    | none =>
      match s2.stackFault out descs with
      | some (k, d) =>
        let s3 := (s2.dmaReject p i k 0x08E2).count (Reg.dieStkCount d 7) 1
        (if out then s3 else s3.zeroLanding p land.1 land.2).modTile p (fun ts =>
          { ts with dma := ts.dma ++ [{ x with landed := true, acked := true }] })
      | none =>
        let s3 := s2.modTile p (fun ts => { ts with dma := ts.dma ++ [x] })
        { s3 with petals := s3.petals ++ s3.chainPetals t i out descs }

/-- DMA_IN (R301). -/
def execDmaIn (t : Tile) (env : OpEnv) (s : State) : Host.Outcome State Fault Refusal :=
  match s.start t.val (fun w => wOpcode w == 0x40) with
  | none => .next s
  | some (w, i, s1) => .next (s1.dmaIssue t.val i w env false)

/-- DMA_OUT (R301). -/
def execDmaOut (t : Tile) (env : OpEnv) (s : State) : Host.Outcome State Fault Refusal :=
  match s.start t.val (fun w => wOpcode w == 0x41) with
  | none => .next s
  | some (w, i, s1) => .next (s1.dmaIssue t.val i w env true)

/-- One report of a DMA operation whose issue phase lost more cycles than its guard (R301). -/
def State.reportDmaLate (s : State) (p : Nat) : State :=
  if 0 < (s.tile p).lateDma then (s.modTile p (fun ts => { ts with lateDma := ts.lateDma - 1 })).tileError p 0x091B 0 else s

/-- DMA_LATE (R301). -/
def execDmaLate (t : Tile) (s : State) : Host.Outcome State Fault Refusal := .next (s.reportDmaLate (s.phys t.val))

/-! ### Moving the data (R291, R295 to R298) -/

/-- One piece of a descriptor: source offset, destination offset, bytes; `odd` when the last byte's high nibble is zero. -/
structure Piece where
  src : Nat
  dst : Nat
  len : Nat
  odd : Bool
  deriving DecidableEq, Repr

/-- The pieces of a COPY (runs) or TRANSPOSE (elements), in order. -/
def Desc.pieces (d : Desc) : List Piece :=
  (List.range (d.n 3)).flatMap (fun i3 => (List.range (d.n 2)).flatMap (fun i2 => (List.range (d.n 1)).flatMap (fun i1 =>
    let so := i2 * d.sStride.getD 2 0 + i3 * d.sStride.getD 3 0
    let do_ := i2 * d.dStride.getD 2 0 + i3 * d.dStride.getD 3 0
    if d.kind = 1 then
      (List.range (d.n 0)).map (fun c => ⟨so + i1 * d.sStride.getD 1 0 + c * d.w, do_ + c * d.dStride.getD 1 0 + i1 * d.w, d.w, false⟩)
    else [⟨so + i1 * d.sStride.getD 1 0, do_ + i1 * d.dStride.getD 1 0, d.run, d.fmt == 6 && d.n 0 % 2 == 1⟩])))

/-- Bytes as an unfenced descriptor reads them: where an earlier descriptor of the chain changed a byte, old or new, which one is
not fixed (R292): a free choice. -/
def mixBytes (ctr : Nat) : List Byte → List Byte → List Byte
  | a :: as, b :: bs => (if a = b then b else if (Config.free ctr).toNat % 2 = 0 then a else b) :: mixBytes (ctr + 1) as bs
  | _, _ => []

/-- Writes bytes into an overlay; where two elements of one descriptor fall on a byte, one of them stands, which one is not fixed
(R291): a free choice. -/
def overlay (ctr : Nat) (o : Sparse (Option Byte)) (a : Nat) : List Byte → Sparse (Option Byte)
  | [] => o
  | b :: bs =>
    let o1 := match Sparse.get (fun _ => none) o a with
      | none => Sparse.set (fun _ => none) o a (some b)
      | some c => if c = b then o else if (Config.free ctr).toNat % 2 = 0 then o else Sparse.set (fun _ => none) o a (some b)
    overlay (ctr + 1) o1 (a + 1) bs

/-- Bytes of one side, tile-local or by device address. -/
def State.sideRead (v : State) (p : Nat) (dev : Bool) (a n : Nat) : List Byte := if dev then v.devRead a n else v.bankRead p a n

/-- The runs that count as accesses: a row of a matrix for a TRANSPOSE, a run for a COPY. -/
def Desc.rows (d : Desc) (src : Bool) : List (Nat × Nat) :=
  let st := if src then d.sStride else d.dStride
  let a := if src then d.src else d.dst
  let inner := if d.kind = 1 && !src then d.n 0 else d.n 1
  let len := if d.kind = 1 && !src then d.n 1 * d.w else d.run
  (List.range (d.n 3)).flatMap (fun i3 => (List.range (d.n 2)).flatMap (fun i2 => (List.range inner).map (fun i1 =>
    (a + i1 * st.getD 1 0 + i2 * st.getD 2 0 + i3 * st.getD 3 0, len))))

/-- What one descriptor counts (R304): an access that starts off a line boundary passes the byte-lane rotator (R164, R288). -/
def State.descCounts (s : State) (p : Nat) (d : Desc) : State :=
  let side := fun (s : State) (src : Bool) =>
    let dev := if src then d.srcDev else d.dstDev
    (d.rows src).foldl (fun s r =>
      if dev then
        (if src || isHostAddr r.1 then s else s.count (Reg.tlDmaCount p 4) (partialAtoms r.1 r.2).length)
      else
        let s1 := s.count (Reg.tlDmaCount p (if src then 3 else 2)) (byteRun r.1 r.2).count
        let k := rotatorAccesses r.1 r.2
        (s1.count (Reg.tlDmaCount p 5) k).count (Reg.tlBankCount p (12 + bankOf r.1)) k) s
  let s1 := side (side (s.count (Reg.tlDmaCount p 0) 1) true) false
  if d.kind = 1 then s1.count (Reg.tlDmaCount p 6) ((d.n 0 + 63) / 64 * ((d.n 1 + 63) / 64) * d.n 2 * d.n 3) else s1

/-- The atoms of HBM that a descriptor merges, and the address runs that it reads, merge reads included, and writes. -/
def Desc.merges (d : Desc) : List Nat := if d.dstDev then (d.rows false).flatMap (fun r => partialAtoms r.1 r.2) else []
def Desc.hbmReads (d : Desc) : List AddrRun :=
  (if d.srcDev then (d.rows true).map (fun r => ⟨r.1, r.2⟩) else []) ++ d.merges.map (fun a => ⟨a, 64⟩)
def Desc.hbmWrites (d : Desc) : List AddrRun := if d.dstDev then (d.rows false).map (fun r => ⟨r.1, r.2⟩) else []

/-- Runs of lines that a descriptor reads in the tile. -/
def Desc.tileRuns (d : Desc) : List LineRun := if d.srcDev then [] else (d.rows true).map (fun r => byteRun r.1 r.2)

/-- The bytes that one descriptor writes, by destination address, and the free choices made; `base` is the state before the descriptors that
are not fenced off from it. What the tile computed after an uncorrectable error does not leave it (R40). -/
def State.descBytes (base s : State) (p : Nat) (mem : MemEnv) (d : Desc) : Sparse (Option Byte) × Nat :=
  let look := fun (q : State) => (q.delivered mem).view p .dma false
  let old := look base
  let new := look s
  let ps := d.pieces.filter (fun q => !(d.dstDev && (!d.srcDev && base.isLate p (d.src + q.src) q.len)))
  ps.foldl (fun (acc : Sparse (Option Byte) × Nat) q =>
    let b := mixBytes acc.2 (old.sideRead p d.srcDev (d.src + q.src) q.len) (new.sideRead p d.srcDev (d.src + q.src) q.len)
    let b1 := if q.odd then b.take (q.len - 1) ++ (b.drop (q.len - 1)).map (fun x => Byte.of (x.toNat % 16)) else b
    (overlay (acc.2 + q.len) acc.1 (d.dst + q.dst) b1, acc.2 + 2 * q.len)) (([] : Sparse (Option Byte)), s.freeCtr)

/-- The pairs of address and byte of an overlay. -/
def overlaid (o : Sparse (Option Byte)) : List (Nat × Byte) := o.filterMap (fun e => e.2.map (fun b => (e.1, b)))

/-- Carries out one descriptor on `s`: its bytes are written on the tile's side, and those of device memory wait in the second component. -/
def State.runDesc (base s : State) (p : Nat) (mem : MemEnv) (d : Desc) : State × List (Nat × Byte) :=
  let r := base.descBytes s p mem d
  let bs := overlaid r.1
  let s1 := { s with freeCtr := r.2 }
  if d.dstDev then (s1.descCounts p d, bs)
  else ((bs.foldl (fun s e => s.unitWrite p .dma false e.1 [e.2]) s1).descCounts p d, [])

/-- Carries out the COPY and TRANSPOSE descriptors of a chain in order (R292): the state, and the bytes for device memory in order. -/
def runChain (p : Nat) (mem : MemEnv) : State → State → List (List Byte) → State × List (Nat × Byte)
  | _, s, [] => (s, [])
  | base, s, b :: rest =>
    let d := descOf b
    if allZero b || (d.kind == 2 || d.void) then runChain p mem base (s.count (Reg.tlDmaCount p 0) 1) rest
    else
      let base1 := if d.fence then s else base
      let r := base1.runDesc s p mem d
      let q := runChain p mem base1 r.1 rest
      (q.1, r.2 ++ q.2)

/-- Descriptors of a transfer that move data themselves. -/
def DmaXfer.moving (x : DmaXfer) : List Desc :=
  (x.descs.filter (fun b => !allZero b && (leAt b 0 1 != 2 && !(descOf b).void))).map descOf

/-- Moves a whole chain on the tile's side, and reads what it sends to device memory: bank and atom checks, port contention, the data. Bytes for
device memory are in the second component. -/
def State.dmaMove (s : State) (p : Nat) (x : DmaXfer) (env : OpEnv) (mem : MemEnv) : State × List (Nat × Byte) :=
  let ds := x.moving
  let runs := ds.flatMap Desc.tileRuns
  let e := s.bankEcc p env.flips (accesses (s.openReads p .dma false s.offset runs))
  let blocked := s.blockedReads p .dma false runs
    ++ s.blockedWrites p .dma false (ds.flatMap (fun d => if d.dstDev then [] else [byteRun d.dst d.dExt]))
  let reads := if x.out then [] else ds.flatMap Desc.hbmReads
  let s1 := ((e.1.clashes p env.clashes).ownerCheck p blocked).hbmAccess mem reads
  runChain p mem s1 s1 x.descs

/-- The writes of a DMA_OUT in device memory, with what they meet there (R257, R295). -/
def State.dmaWrite (s : State) (x : DmaXfer) (mem : MemEnv) (data : List (Nat × Byte)) : State :=
  let ds := x.moving
  let s1 := (s.hbmAccess mem (ds.flatMap Desc.hbmReads) (ds.flatMap Desc.hbmWrites)).mergeAtoms mem (ds.flatMap Desc.merges)
  (data.foldl (fun s e => s.devWrite e.1 [e.2]) s1).spoilAtoms mem (ds.flatMap Desc.hbmWrites)

/-! ### Landing and completion -/

/-- Frame f of die d. -/
def State.frame (s : State) (d f : Nat) : Frame := Sparse.get (fun _ => Frame.reset) s.frames (d * 4096 + f)
def State.setFrame (s : State) (d f : Nat) (x : Frame) : State :=
  { s with frames := Sparse.set (fun _ => Frame.reset) s.frames (d * 4096 + f) x }

/-- A frame state that occupies the ring: PUSHING, RESIDENT, OFFLOADING, PREFETCHING, POPPING (R314). -/
def frameHolds (st : Nat) : Bool := st == 1 || st == 2 || st == 3 || st == 5 || st == 6

/-- The frame's range is free: no other frame that holds the ring overlaps it (R314). -/
def State.rangeFree (s : State) (d f : Nat) : Bool :=
  let r := s.frameRec d f
  (List.range (s.frameCount d)).all (fun g =>
    let q := s.frameRec d g
    g == f || (!frameHolds (s.frame d g).st || !meets r.off r.bytes q.off q.bytes))

/-- The frames (die, frame) that a transfer pushes, issued in their PUSH_MOVE, or pops, issued in their POP_MOVE (R315, R318). -/
def State.xferFrames (s : State) (x : DmaXfer) : List (Nat × Nat) :=
  x.moving.flatMap (fun q =>
    let r := q.devRange x.out
    if (if x.out then q.dstDev else q.srcDev) then
      (List.range 4).flatMap (fun d => ((List.range (s.frameCount d)).filter (fun f =>
        let q := s.frameRec d f
        q.policy != 2 && (s.inFrame d f r.1 r.2 && (if x.out then q.push else q.pop) == s.moveInStep x.issue))).map (fun f => (d, f)))
    else [])

/-- The activation stack lets the transfer read now (R315, R318). -/
def State.stackReady (s : State) (x : DmaXfer) : Bool :=
  (s.xferFrames x).all (fun k =>
    if x.out then (s.frame k.1 k.2).st == 1 && s.rangeFree k.1 k.2 else (s.frame k.1 k.2).st == 6)

/-- Petal commands of a transfer that have not completed. -/
def State.xferPetals (s : State) (t : Nat) (x : DmaXfer) : List PetalCmd :=
  s.petals.filter (fun q => !q.host && (q.tile == t && (q.opIndex == x.opIndex && (q.issue == x.issue && q.out == x.out))))

/-- Replaces open transfer `k` of a tile. -/
def State.setXfer (s : State) (p k : Nat) (x : DmaXfer) : State := s.modTile p (fun ts => { ts with dma := ts.dma.set k x })

/-- Whether the job lets outstanding transfers run: RUNNING, or STOPPED but not under R40 (R303). -/
def State.xfersRun (s : State) : Bool :=
  (s.running || s.jobState == jobSTOPPED) && !s.job.mustRestore

/-- Whether an open transfer of one direction still works on frame f of die d. -/
def State.frameBusy (s : State) (d f : Nat) (out : Bool) : Bool :=
  s.tiles.any (fun e => e.2.dma.any (fun x =>
    x.out == out && (!(if out then x.acked else x.landed) && (s.xferFrames x).contains (d, f))))

/-- A frame whose push or pop move has ended leaves PUSHING or POPPING once every transfer of it is complete (R315, R318). -/
def State.settleFrames (s : State) : State :=
  s.frames.foldl (fun s e =>
    let d := e.1 / 4096
    let f := e.1 % 4096
    let r := s.frameRec d f
    if e.2.st = 1 && (r.push != s.stepMove && !s.frameBusy d f true) then s.setFrame d f { e.2 with st := 2 }
    else if e.2.st = 6 && (r.pop != s.stepMove && !s.frameBusy d f false) then s.setFrame d f { e.2 with st := 0 }
    else s) s

/-- The transposing path serves the TRANSPOSE descriptors of a tile one at a time, in issue order (R297): no earlier transfer of the tile still
has one to move before transfer `k`. -/
def transposeFree (dma : List DmaXfer) (k : Nat) (x : DmaXfer) : Bool :=
  !x.moving.any (fun d => d.kind == 1) || (dma.take k).all (fun y => y.landed || !y.moving.any (fun d => d.kind == 1))

/-- Transfer `k` of a tile may move its data: the job lets it, the activation stack is ready, the transposing path is free. -/
def State.xferReady (s : State) (p k : Nat) (x : DmaXfer) : Bool :=
  s.xfersRun && (s.stackReady x && transposeFree (s.tile p).dma k x)

/-- The source of open DMA_OUT number `k` is read: its data waits for memory's acknowledgement (R301). -/
def State.readSource (s : State) (p k : Nat) (x : DmaXfer) (env : OpEnv) (mem : MemEnv) : State :=
  let r := s.dmaMove p x env mem
  r.1.setXfer p k { x with landed := true, data := r.2 }

/-- Memory has acknowledged the last write of open DMA_OUT number `k`. -/
def State.ackWrites (s : State) (p k : Nat) (x : DmaXfer) (mem : MemEnv) : State :=
  ((s.dmaWrite x mem x.data).setXfer p k { x with acked := true, data := [] }).settleFrames

/-- TRANSFER_LANDED (R25, R301): the data of open DMA_IN number `k` of the tile lands. Of a DMA_OUT it is the step in which its last source
byte has been read and its data is on its way (log entry 40). -/
def execTransferLanded (t : Tile) (k : Nat) (env : OpEnv) (mem : MemEnv) (s : State) : Host.Outcome State Fault Refusal :=
  let p := s.phys t.val
  match (s.tile p).dma[k]? with
  | none => .next s
  | some x =>
    if x.landed || !s.xferReady p k x then .next s
    else if x.out then
      (if (s.xferPetals t.val x).any (fun q => q.stage == 0) then .next s else .next (s.readSource p k x env mem))
    else if !(s.xferPetals t.val x).isEmpty then .next s
    else .next (((s.dmaMove p x env mem).1.setXfer p k { x with landed := true }).settleFrames)

/-- DMA_OUT_COMPLETE (R301): memory has acknowledged the last write of open DMA_OUT number `k`, whose source bytes, where they have not been,
are read in the same step. -/
def execDmaOutComplete (t : Tile) (k : Nat) (env : OpEnv) (mem : MemEnv) (s : State) : Host.Outcome State Fault Refusal :=
  let p := s.phys t.val
  match (s.tile p).dma[k]? with
  | none => .next s
  | some x =>
    if !x.out || x.acked || !s.xfersRun then .next s
    else if x.landed then .next (s.ackWrites p k x mem)
    else if (s.xferPetals t.val x).any (fun q => q.stage == 0) || !s.xferReady p k x then .next s
    else
      let s1 := s.readSource p k x env mem
      .next (s1.ackWrites p k (((s1.tile p).dma[k]?).getD x) mem)

end Sys2Proof.Machine
end

