-- ==== Sys2Proof/Machine/Petal.lean ====
section
/-! DEFINITION. The Petal units (R261 to R272): the dispatcher's checks, gathering and pooling, row updates, block compression,
fill and copy, and the completion of a command. -/

namespace Sys2Proof.Machine

/-- The fields of a Petal command (R262). -/
structure Petal where
  op : Nat
  mode : Nat
  fmtT : Nat
  fmtX : Nat
  ovf : Bool
  idx64 : Bool
  gate : Bool
  due : Nat
  se : Nat
  count : Nat
  dim : Nat
  a0 : Nat
  a1 : Nat
  a2 : Nat
  a3 : Nat
  lim0 : Nat
  lim1 : Nat
  p0 : Nat
  p1 : Nat
  deriving DecidableEq, Repr

def petalOf (bs : List Byte) : Petal where
  op := leAt bs 0 1
  mode := leAt bs 1 1
  fmtT := leAt bs 2 1 % 16
  fmtX := leAt bs 2 1 / 16
  ovf := isBit (leAt bs 3 1) 0
  idx64 := isBit (leAt bs 3 1) 1
  gate := isBit (leAt bs 3 1) 2
  due := leAt bs 4 1
  se := leAt bs 5 1
  count := leAt bs 8 4
  dim := leAt bs 12 4
  a0 := leAt bs 16 8
  a1 := leAt bs 24 8
  a2 := leAt bs 32 8
  a3 := leAt bs 40 8
  lim0 := leAt bs 48 4
  lim1 := leAt bs 52 4
  p0 := leAt bs 56 4
  p1 := leAt bs 60 4

/-- Bytes of an index or offset entry. -/
def Petal.iw (c : Petal) : Nat := if c.idx64 then 8 else 4

/-- Bytes of an element of a format. -/
def fmtW (fmt : Nat) : Nat := fmtBits fmt / 8

/-- OSTRIDE (R265), and the stride of source rows (R267). -/
def Petal.ostride (c : Petal) : Nat := alignUp (c.dim * fmtW c.fmtX) 64

/-- Stride of a MOMENTUM state row (R268). -/
def Petal.mstride (c : Petal) : Nat := alignUp (4 * c.dim) 64

/-- The operation works on table rows. -/
def Petal.rows (c : Petal) : Bool := c.op == 1 || (c.op == 2 || c.op == 3)

/-- OP, MODE, formats and carrier (R263): false for code 0x0401. `host` and `out` say how the command came. -/
def Petal.opOk (c : Petal) (host out : Bool) : Bool :=
  let f4 := fun x => decide (x ≤ 4)
  match c.op with
  | 1 => decide (c.mode ≤ 2) && (f4 c.fmtT && (f4 c.fmtX && (host || !out)))
  | 2 => c.mode == 0 && (f4 c.fmtT && (f4 c.fmtX && (host || out)))
  | 3 => decide (c.mode ≤ 2) && (f4 c.fmtT && (f4 c.fmtX && (host || out)))
  | 4 => c.mode == 0 && (f4 c.fmtT && ((c.fmtX == 3 || c.fmtX == 4) && (host || out)))
  | 5 => decide (c.mode ≤ 1) && (f4 c.fmtT && ((c.fmtX == 3 || c.fmtX == 4) && (host || out)))
  | 6 => c.mode == 0 && (host || out)
  | 7 => c.mode == 0 && (host || out)
  | _ => false

/-- Reserved fields, alignments and ranges of fields (R13, R263, R264): false for code 0x0402. -/
def Petal.fieldsOk (c : Petal) (bs : List Byte) (host out : Bool) : Bool :=
  let z := fun (x : Nat) => x == 0
  let al := fun (x n : Nat) => x % n == 0
  decide (leAt bs 3 1 < 8) && (zeroAt bs 6 2
  && ((if out && !host then decide (1 ≤ c.due) else z c.due)
  && (c.count != 2 ^ 32 - 1 && (c.dim != 2 ^ 32 - 1 && (c.lim0 != 2 ^ 32 - 1 && (c.lim1 != 2 ^ 32 - 1
  && ((if c.rows then decide (6 ≤ c.se) && (decide (c.se ≤ 12) && decide (c.dim * fmtW c.fmtT ≤ 2 ^ c.se)) else z c.se && z c.dim)
  && (match c.op with
    | 1 => al c.a0 4096 && (al c.a1 c.iw && (al c.a2 c.iw && ((if c.mode = 2 then al c.a3 64 else z c.a3) && (z c.p0 && z c.p1))))
    | 2 => al c.a0 4096 && (al c.a1 c.iw && (z c.a2 && (z c.a3 && (z c.lim1 && (z c.p0 && z c.p1)))))
    | 3 => al c.a0 4096 && (al c.a1 c.iw && ((if c.mode = 0 then z c.a2 && z c.p1 else al c.a2 4096) && (z c.a3 && z c.lim1)))
    | 4 => al c.a0 64 && (al c.a1 64 && (al c.a2 4096 && (z c.a3 && (z c.lim0 && (z c.lim1 && (z c.p0 && z c.p1))))))
    | 5 => al c.a0 64 && (al c.a1 64 && (al c.a2 4096 && (z c.a3 && (z c.lim0 && (z c.lim1 && (z c.p0 && z c.p1))))))
    | 6 => al c.a0 8 && (z c.a2 && (z c.a3 && (z c.lim0 && (z c.lim1 && (z c.p0 && (z c.p1 && z (leAt bs 2 1)))))))
    | _ => al c.a0 64 && (al c.a1 64 && (z c.a2 && (z c.a3 && (z c.lim0 && (z c.lim1 && (z c.p0 && (z c.p1 && z (leAt bs 2 1)))))))))
  )))))))

/-- The command requests no operation (R16). -/
def Petal.void (c : Petal) : Bool :=
  c.count == 0 || (c.rows && (c.dim == 0 || (c.lim0 == 0 || (c.op == 1 && c.lim1 == 0))))

/-- The ranges that a command reads or writes in HBM. -/
def Petal.ranges (c : Petal) : List (Nat × Nat) :=
  match c.op with
  | 1 => [(c.a0, c.lim0 * 2 ^ c.se), (c.a1, c.lim1 * c.iw), (c.a2, (c.count + 1) * c.iw)]
      ++ (if c.mode = 2 then [(c.a3, 4 * c.lim1)] else [])
  | 2 => [(c.a0, c.lim0 * 2 ^ c.se), (c.a1, c.count * c.iw)]
  | 3 => [(c.a0, c.lim0 * 2 ^ c.se), (c.a1, c.count * c.iw)]
      ++ (if c.mode = 1 then [(c.a2, c.lim0 * c.mstride)] else if c.mode = 2 then [(c.a2, 4 * c.lim0)] else [])
  | 4 => [(c.a0, c.count * (2048 * fmtW c.fmtT)), (c.a1, 2112 * c.count), (c.a2, 64 * c.count)]
  | 5 => [(c.a0, 2112 * c.count), (c.a1, c.count * (2048 * fmtW c.fmtT)), (c.a2, 64 * c.count)]
  | 6 => [(c.a0, 64 * c.count)]
  | _ => [(c.a0, 64 * c.count), (c.a1, 64 * c.count)]

/-- Stacks that a range reaches: eight granules reach all four of a die. -/
def rangeStacks (r : Nat × Nat) : List Nat :=
  if r.2 = 0 then []
  else ((List.range (min 8 ((r.1 + r.2 - 1) / 4096 + 1 - r.1 / 4096))).map (fun i => stackOf ((r.1 / 4096 + i) * 4096))).eraseDups

/-- Stacks whose units a command reaches. -/
def Petal.stacks (c : Petal) : List Nat := (c.ranges.flatMap rangeStacks).eraseDups

/-- The code that the dispatcher rejects a command with, 0 for none (R263, R264, R270). -/
def State.petalCode (s : State) (q : PetalCmd) : Nat :=
  let c := petalOf q.cmd
  if !c.opOk q.host q.out then 0x0401
  else if !c.fieldsOk q.cmd q.host q.out then 0x0402
  else if c.void then 0
  else if !q.host && (c.op == 1 || (c.op == 2 || c.op == 3)) && decide (q.bytes < c.count * c.ostride) then 0x0102
  else if c.ranges.any (fun r => !s.inJob r.1 r.2) || (q.host && (c.op == 1 && !s.inJob q.dest (c.count * c.ostride))) then 0x0403
  else if c.op == 7 && meets c.a0 (64 * c.count) c.a1 (64 * c.count) then 0x0404
  else if c.stacks.any (fun k => s.fld (Reg.petStatus k) 1 1 == 0) then 0x0407
  else 0

/-- PET_FIRST keeps its first record (R264). -/
def State.petFirst (s : State) (k code : Nat) (q : PetalCmd) (pos : Nat) : State :=
  s.first (Reg.petFirst k) 31 (code * 2 ^ 48 + (if q.host then 0 else q.tile % 1024) * 2 ^ 38 + b2n q.host * 2 ^ 37 + 2 ^ 31 + pos % 2 ^ 24)

/-- The stack that a command's counts without a row of their own go to: that of ADDR0 (log entry 15). -/
def Petal.home (c : Petal) : Nat := stackOf (c.a0 % 2 ^ 40)

/-- A counted data fault of a unit. -/
def State.petFault (s : State) (k i code : Nat) (q : PetalCmd) (pos : Nat) : State :=
  (s.count (Reg.petCount k i) 1).petFirst k code q pos

/-- Rejection of a command (R264, R294): the record, PET_FIRST, and the carrier's end. -/
def State.petalReject (s : State) (q : PetalCmd) (code : Nat) : State :=
  let c := petalOf q.cmd
  let k := c.home
  let s1 := ((s.event code sevERROR srcHbm k [it2 code, it2 k, it2 (if q.host then 0xFFFF else q.tile)]).count
    (Reg.petCount k 1) 1).petFirst k code q 0
  if q.host then ({ s1 with petals := s1.petals.filter (fun x => !(x.host && (x.ring == q.ring && x.seq == q.seq))) }).finish q.ring q.seq code 0 0
  else
    let p := s1.phys q.tile
    let s2 := s1.dmaReject p q.opIndex q.desc code
    let same := fun (x : DmaXfer) => x.opIndex == q.opIndex && (x.issue == q.issue && x.out == q.out)
    let s3 := { s2 with petals := s2.petals.filter (fun x =>
      x.host || !(x.tile == q.tile && (x.opIndex == q.opIndex && (x.issue == q.issue && x.out == q.out)))) }
    let s4 := ((s3.tile p).dma.filter same).foldl (fun s x => if x.out then s else s.zeroLanding p x.landLine x.landLines) s3
    s4.modTile p (fun ts => { ts with dma := ts.dma.map (fun x =>
      if same x then { x with landed := true, acked := true } else x) })

/-- Replaces Petal command number `k`. -/
def State.setPetal (s : State) (k : Nat) (q : PetalCmd) : State := { s with petals := s.petals.set k q }

/-- Every unit that a command reaches has room for it: a queue holds 64 commands, and a full one delays the command (R261). -/
def State.petalRoom (s : State) (c : Petal) : Bool :=
  c.stacks.all (fun k => decide ((s.petals.filter (fun x => x.stage == 1 && (petalOf x.cmd).stacks.contains k)).length < 64))

/-- The source rows of a command that tile p's DMA_OUT carries, with what reading them meets (R167, R172, R179, R304). -/
def State.petalRows (s : State) (p : Nat) (env : OpEnv) (a n : Nat) : State × List Byte :=
  let run := byteRun a n
  let e := s.bankEcc p env.flips (accesses (s.openReads p .dma false s.offset [run]))
  let s1 := ((e.1.clashes p env.clashes).ownerCheck p (s.blockedReads p .dma false [run])).count (Reg.tlDmaCount p 3) run.count
  (s1, (s1.view p .dma false).bankRead p a n)

/-- Bytes of source rows that a command reads from the tile whose DMA_OUT carries it. -/
def PetalCmd.rowBytes (q : PetalCmd) : Nat :=
  let c := petalOf q.cmd
  if c.op = 2 || c.op = 3 then c.count * c.ostride else 0

/-- The command waits at the dispatcher, since its source rows were computed after an uncorrectable error of the move and so do not leave the
tile (R40). -/
def State.petalHeldBack (s : State) (q : PetalCmd) : Bool :=
  q.stage == 0 && (!q.host && (q.out && s.isLate (s.phys q.tile) q.dest q.rowBytes))

/-- PETAL_DISPATCH (R264): the oldest command at the dispatcher is checked, and queued at its units with its source rows. The gradient rows of a
command that the host submits lie where no rule says: free bytes (log entry 16). -/
def execPetalDispatch (s : State) (env : OpEnv := .quiet) : Host.Outcome State Fault Refusal :=
  match (List.range s.petals.length).find? (fun k => match s.petals[k]? with
    | some q => q.stage == 0
    | none => false) with
  | none => .next s
  | some k =>
    match s.petals[k]? with
    | none => .next s
    | some q =>
      if (!q.host && !s.xfersRun) || s.petalHeldBack q then .next s
      else
        let code := s.petalCode q
        if code ≠ 0 then .next (s.petalReject q code)
        else if !s.petalRoom (petalOf q.cmd) then .next s
        else
          let n := q.rowBytes
          if q.host then
            let s1 := { s with freeCtr := s.freeCtr + n }
            .next (s1.setPetal k { q with stage := 1, rows := freeRow s.freeCtr n })
          else if q.out && n != 0 then
            let r := s.petalRows (s.phys q.tile) env q.dest n
            .next (r.1.setPetal k { q with stage := 1, rows := r.2 })
          else .next (s.setPetal k { q with stage := 1, rows := [] })

/-- Command `k` may run: queued, none of its chain still at the dispatcher, and no earlier queued command at one of its units. -/
def State.petalReady (s : State) (k op : Nat) (q : PetalCmd) : Bool :=
  let c := petalOf q.cmd
  c.op == op && (q.stage == 1 && ((q.host || s.xfersRun)
  && (s.petals.all (fun x => !(x.stage == 0 && (!x.host && (!q.host && (x.tile == q.tile && (x.opIndex == q.opIndex && x.issue == q.issue))))))
  && ((s.petals.take k).all (fun x => !(x.stage == 1) || ((petalOf x.cmd).stacks.all (fun j => !c.stacks.contains j)))))))

/-- Runs `act` on queued command `k` when its operation is `op` and it may run; the command is then carried out. -/
def State.petalRun (s : State) (k op : Nat) (act : State → PetalCmd → Petal → State × List Byte) : State :=
  match s.petals[k]? with
  | none => s
  | some q =>
    if !s.petalReady k op q then s
    else
      let r := if (petalOf q.cmd).void then (s, []) else act s q (petalOf q.cmd)
      r.1.setPetal k { q with stage := 2, result := r.2 }

/-! ### Gathering and pooling (R265, R266) -/

/-- The address of table row r. -/
def Petal.rowAddr (c : Petal) (r : Nat) : Nat := c.a0 + r * 2 ^ c.se

/-- The elements of a row at a device address, as values. -/
def rowNums (m : Mem) (a fmt n : Nat) : List Num :=
  let bs := Mem.read m a (n * fmtW fmt)
  (List.range n).map (fun i => fmtDecode fmt (elemAt fmt bs i))

/-- The offsets of a GATHER_POOL after the clamp at INDEX_MAX. -/
def Petal.offsets (c : Petal) (m : Mem) : List Nat :=
  (List.range (c.count + 1)).map (fun b => min (Mem.le m (c.a2 + b * c.iw) c.iw) c.lim1)

/-- Index positions of a list in the order of arrival `order`, those it does not name after the others. -/
def arrival (order ps : List Nat) : List Nat :=
  let a := (order.filter (fun x => ps.contains x)).eraseDups
  a ++ ps.filter (fun x => !a.contains x)

/-- One row added to an accumulator row (R265). -/
def poolAdd (c : Petal) (m : Mem) (acc : List Nat) (i : Nat) : List Nat :=
  let r := Mem.le m (c.a1 + i * c.iw) c.iw
  let xs := (rowNums m (c.rowAddr r) c.fmtT c.dim).map toF32
  let w := Mem.le m (c.a3 + 4 * i) 4
  List.zipWith (fun a x => if c.mode = 2 then f32Fma w x a else f32Add a x) acc xs

/-- The pooled row of bag b: partials by stack, their exact sum, the mean (R265). -/
def poolBag (c : Petal) (m : Mem) (order : List Nat) (lo hi : Nat) : List Nat :=
  let len := hi - lo
  let good := ((List.range len).map (fun i => lo + i)).filter (fun i => decide (Mem.le m (c.a1 + i * c.iw) c.iw < c.lim0))
  let stackAt := fun i => stackOf (c.rowAddr (Mem.le m (c.a1 + i * c.iw) c.iw))
  let ks := (good.map stackAt).eraseDups
  let parts := ks.map (fun k => (arrival order (good.filter (fun i => stackAt i == k))).foldl (poolAdd c m) (List.replicate c.dim 0))
  (List.range c.dim).map (fun j =>
    let v := if parts.isEmpty then 0 else toF32 (exactSum (parts.map (fun r => f32 (r.getD j 0))))
    if c.mode = 1 && decide (0 < len) then toF32 (Num.div (f32 v) (Num.int (len : Int))) else v)

/-- The counter of a conversion event of a Petal unit (R269, R281). -/
def petCvt : CvtEvent → Option Nat
  | .none => none
  | .nan => some 7
  | .sat => some 8
  | .ovf => some 9
  | .intNan => some 7

/-- Counts conversion events at a unit. -/
def State.petCvts (s : State) (k : Nat) (es : List CvtEvent) : State :=
  es.foldl (fun s e => match petCvt e with
    | none => s
    | some i => s.count (Reg.petCount k i) 1) s

/-- The index that entry i names. -/
def Petal.index (c : Petal) (m : Mem) (i : Nat) : Nat := Mem.le m (c.a1 + i * c.iw) c.iw

/-- The bytes of table row r. -/
def Petal.rowRun (c : Petal) (r : Nat) : AddrRun := ⟨c.rowAddr r, c.dim * fmtW c.fmtT⟩

/-- What a GATHER_POOL reads: the offsets, the index positions of its bags, their weights, and the rows they name. -/
def Petal.gatherReads (c : Petal) (m : Mem) (spans : List (Nat × Nat)) : List AddrRun :=
  ⟨c.a2, (c.count + 1) * c.iw⟩ :: (spans.filter (fun sp => decide (0 < sp.2))).flatMap (fun sp =>
    ⟨c.a1 + sp.1 * c.iw, sp.2 * c.iw⟩ :: ((if c.mode = 2 then [⟨c.a3 + 4 * sp.1, 4 * sp.2⟩] else [])
      ++ (((List.range sp.2).map (fun i => c.index m (sp.1 + i))).filter (fun r => decide (r < c.lim0))).map c.rowRun))

/-- GATHER_POOL (R265, R266): the bags' bytes, OSTRIDE each. -/
def State.gatherPool (s : State) (q : PetalCmd) (c : Petal) (order : List Nat) (mem : MemEnv) : State × List Byte :=
  let m := (s.delivered mem).hbm
  let raw := (List.range (c.count + 1)).map (fun b => Mem.le m (c.a2 + b * c.iw) c.iw)
  let offs := c.offsets m
  let k := c.home
  let spans := List.zipWith (fun a b => (a, b - a)) offs (offs.drop 1)
  let s1 := s.hbmAccess mem (c.gatherReads m spans) (if q.host then [⟨q.dest, c.count * c.ostride⟩] else [])
  let s2 := (List.range raw.length).foldl (fun s b => if c.lim1 < raw.getD b 0 then s.petFault k 3 0x0406 q b else s) s1
  let s3 := (List.range c.count).foldl (fun s b =>
    if offs.getD (b + 1) 0 < offs.getD b 0 then s.petFault k 3 0x0406 q b else s) s2
  let idx := spans.flatMap (fun sp => (List.range sp.2).map (fun i => sp.1 + i))
  let s4 := idx.foldl (fun s i =>
    let r := Mem.le m (c.a1 + i * c.iw) c.iw
    if c.lim0 ≤ r then s.petFault k 2 0x0405 q i else s.count (Reg.petCount (stackOf (c.rowAddr r)) 5) 1) s3
  let res := spans.map (fun sp => (poolBag c m order sp.1 (sp.1 + sp.2)).map (fun v => narrow c.fmtX c.ovf (f32 v)))
  let s5 := s4.petCvts k ((res.flatMap (fun r => r)).map (fun e => e.2))
  (s5, res.flatMap (fun r => padTo c.ostride (elemBytes c.fmtX (r.map (fun e => e.1)))))

/-- GATHER_POOL (R265): command `k` runs; `order` is the order in which its rows arrive. -/
def execGatherPool (k : Nat) (order : List Nat) (mem : MemEnv) (s : State) : Host.Outcome State Fault Refusal :=
  .next (s.petalRun k 1 (fun s q c => s.gatherPool q c order mem))

/-! ### Row updates (R267, R268) -/

/-- The gradient row of entry i, as FP32 patterns. -/
def gradRow (c : Petal) (rows : List Byte) (i : Nat) : List Nat :=
  let bs := (rows.drop (i * c.ostride)).take (c.dim * fmtW c.fmtX)
  (List.range c.dim).map (fun j => toF32 (fmtDecode c.fmtX (elemAt c.fmtX bs j)))

/-- Writes a table row, merged with what its last atom holds, and counts its conversions and the update. -/
def State.putRow (s : State) (c : Petal) (r : Nat) (es : List (Nat × CvtEvent)) : State :=
  let k := stackOf (c.rowAddr r)
  let s1 := s.petCvts k (es.map (fun e => e.2))
  let bs := elemBytes c.fmtT (es.map (fun (e : Nat × CvtEvent) => e.1))
  let s2 := { s1 with hbm := Mem.write s1.hbm (c.rowAddr r) bs }
  s2.count (Reg.petCount k 6) 1

/-- The table rows and states that an update of rows reads and writes. -/
def Petal.updateRuns (c : Petal) (m : Mem) : List AddrRun :=
  let rs := ((List.range c.count).map (c.index m)).filter (fun r => decide (r < c.lim0))
  rs.map c.rowRun ++ (if c.op = 3 ∧ c.mode = 1 then rs.map (fun r => ⟨c.a2 + r * c.mstride, 4 * c.dim⟩)
    else if c.op = 3 ∧ c.mode = 2 then rs.map (fun r => ⟨c.a2 + 4 * r, 4⟩) else [])

/-- The atoms of runs. -/
def runAtoms (rs : List AddrRun) : List Nat :=
  rs.flatMap (fun r => (List.range (if r.bytes = 0 then 0 else (r.addr + r.bytes - 1) / 64 + 1 - r.addr / 64)).map (fun i => (r.addr / 64 + i) * 64))

/-- Runs `upd` for every index entry in order of arrival; an index out of range is counted and skipped (R266). A row that cannot be corrected is
read, and written back, as zeros with its update (R257). -/
def State.eachEntry (s : State) (q : PetalCmd) (c : Petal) (order : List Nat) (mem : MemEnv)
    (upd : State → Nat → List Nat → State) : State :=
  let m := (s.delivered mem).hbm
  let runs := c.updateRuns m
  let s1 := (s.hbmAccess mem (⟨c.a1, c.count * c.iw⟩ :: runs) runs).mergeAtoms mem (runAtoms runs)
  (arrival order (List.range c.count)).foldl (fun s i =>
    let r := c.index (s.delivered mem).hbm i
    if c.lim0 ≤ r then s.petFault c.home 2 0x0405 q i else upd s r (gradRow c q.rows i)) s1

/-- SCATTER_ADD (R267). -/
def State.scatterAdd (s : State) (q : PetalCmd) (c : Petal) (order : List Nat) (mem : MemEnv) : State :=
  s.eachEntry q c order mem (fun s r g =>
    let old := (rowNums s.hbm (c.rowAddr r) c.fmtT c.dim).map toF32
    s.putRow c r (List.zipWith (fun a x => narrow c.fmtT c.ovf (f32 (f32Add a x))) old g))

def execScatterAdd (k : Nat) (order : List Nat) (mem : MemEnv) (s : State) : Host.Outcome State Fault Refusal :=
  .next (s.petalRun k 2 (fun s q c => (s.scatterAdd q c order mem, [])))

/-- The negative of an FP32 pattern. -/
def f32Neg (v : Nat) : Nat := if isBit v 31 then v - 2 ^ 31 else v + 2 ^ 31

/-- One row of SPARSE_OPTIM (R268). -/
def State.sparseRow (s : State) (c : Petal) (r : Nat) (g : List Nat) : State :=
  let m := s.hbm
  let w := (rowNums m (c.rowAddr r) c.fmtT c.dim).map toF32
  let put := fun (s : State) (ws : List Nat) => s.putRow c r (ws.map (fun x => narrow c.fmtT c.ovf (f32 x)))
  match c.mode with
  | 0 => put s (List.zipWith (fun a x => f32Fma (f32Neg c.p0) x a) w g)
  | 1 =>
    let ma := c.a2 + r * c.mstride
    let mo := (List.range c.dim).map (fun j => Mem.le m (ma + 4 * j) 4)
    let mn := List.zipWith (fun a x => f32Fma c.p1 a x) mo g
    put { s with hbm := Mem.write s.hbm ma (elemBytes 0 mn) } (List.zipWith (fun a x => f32Fma (f32Neg c.p0) x a) w mn)
  | _ =>
    let sa := c.a2 + 4 * r
    let sq := (treePlain (g.map (fun x => Num.mul (f32 x) (f32 x)))).1
    let sn := f32Add (Mem.le m sa 4) (f32Div sq (toF32 (Num.int (c.dim : Int))))
    let qv := f32Div c.p0 (f32Add (f32Sqrt sn) c.p1)
    put { s with hbm := Mem.write s.hbm sa (leBytes 4 sn) } (List.zipWith (fun a x => f32Fma (f32Neg qv) x a) w g)

/-- SPARSE_OPTIM (R268). With VOTE_GATE the unit waits for the final vote, and a false vote skips the command. -/
def execSparseOptim (k : Nat) (order : List Nat) (mem : MemEnv) (s : State) : Host.Outcome State Fault Refusal :=
  match s.petals[k]? with
  | none => .next s
  | some q =>
    if (petalOf q.cmd).gate && s.fld Reg.netVoteStatus 0 0 == 0 then .next s
    else .next (s.petalRun k 3 (fun s q c =>
      if c.gate && !s.voteTrue then (c.stacks.foldl (fun s j => s.count (Reg.petCount j 4) 1) s, [])
      else (s.eachEntry q c order mem (fun s r g => s.sparseRow c r g), [])))

/-! ### Compression, fill and copy (R269, R270) -/

/-- One block of COMPRESS: a reduce block (R410, R412, R413). -/
def State.compressBlock (s : State) (c : Petal) (m : Mem) (i : Nat) : State :=
  let src := c.a0 + i * (2048 * fmtW c.fmtT)
  let dst := c.a1 + 2112 * i
  let vals := (List.range 32).map (fun g => rowNums m (src + g * (64 * fmtW c.fmtT)) c.fmtT 64)
  let exps := (List.range 32).map (fun g => (Mem.byte m (c.a2 + 64 * i + g)).toNat)
  let enc := (List.range 32).map (fun g => (vals.getD g []).map (fun x => (x, wireEnc c.fmtX (exps.getD g 0) x)))
  let all : List (Num × Nat × CvtEvent) := enc.flatMap (fun g => g)
  let sat := (all.filter (fun e => e.2.2 == .sat)).length
  let under := (all.filter (fun e => wireUnder c.fmtX e.1 e.2)).length
  let fin := all.all (fun e => e.1.isFin)
  let need := vals.map (fun xs => Byte.of (unsigned 8 (needOf c.fmtX xs)))
  let k := stackOf dst
  let s1 := ((s.petCvts k (all.map (fun e => e.2.2))).count (Reg.petCount k 10) under)
  let s2 := { s1 with hbm := Mem.write s1.hbm dst (need ++ (leBytes 4 sat ++ (leBytes 4 under ++ padTo 24 [Byte.of (b2n fin)]))) }
  { s2 with hbm := (List.range 32).foldl (fun h g =>
      Mem.write h (dst + 64 + 64 * g) (elemBytes c.fmtX ((enc.getD g []).map (fun e => e.2.1)))) s2.hbm }

/-- PETAL_COMPRESS (R269). -/
def execPetalCompress (k : Nat) (mem : MemEnv) (s : State) : Host.Outcome State Fault Refusal :=
  .next (s.petalRun k 4 (fun s _ c =>
    let m := (s.delivered mem).hbm
    (((List.range c.count).foldl (fun s i => s.compressBlock c m i) (s.hbmAccess mem [⟨c.a0, c.count * (2048 * fmtW c.fmtT)⟩,
      ⟨c.a2, 64 * c.count⟩] [⟨c.a1, 2112 * c.count⟩])).spoilAtoms mem [⟨c.a1, 2112 * c.count⟩], [])))

/-- One block of DECOMPRESS: WRITE, or ACCUMULATE as SCATTER_ADD adds. -/
def State.decompressBlock (s : State) (c : Petal) (m : Mem) (i : Nat) : State :=
  let src := c.a0 + 2112 * i
  let dst := c.a1 + i * (2048 * fmtW c.fmtT)
  let k := stackOf dst
  (List.range 32).foldl (fun s g =>
    let xs := (wireVals c.fmtX (Mem.byte m (c.a2 + 64 * i + g)).toNat (Mem.read m (src + 64 + 64 * g) 64)).map toF32
    let a := dst + g * (64 * fmtW c.fmtT)
    let ys := if c.mode = 0 then xs else List.zipWith (fun o x => f32Add o x) ((rowNums m a c.fmtT 64).map toF32) xs
    let es : List (Nat × CvtEvent) := ys.map (fun y => narrow c.fmtT c.ovf (f32 y))
    let under := ((ys.zip es).filter (fun (e : Nat × Nat × CvtEvent) => wireUnder c.fmtT (f32 e.1) e.2)).length
    let s1 := (s.petCvts k (es.map (fun e => e.2))).count (Reg.petCount k 10) under
    let bs := elemBytes c.fmtT (es.map (fun e => e.1))
    { s1 with hbm := Mem.write s1.hbm a bs }) s

/-- DECOMPRESS (R269). -/
def execDecompress (k : Nat) (mem : MemEnv) (s : State) : Host.Outcome State Fault Refusal :=
  .next (s.petalRun k 5 (fun s _ c =>
    let m := (s.delivered mem).hbm
    let out : AddrRun := ⟨c.a1, c.count * (2048 * fmtW c.fmtT)⟩
    (((List.range c.count).foldl (fun s i => s.decompressBlock c m i) (s.hbmAccess mem ([⟨c.a0, 2112 * c.count⟩,
      ⟨c.a2, 64 * c.count⟩] ++ (if c.mode = 1 then [out] else [])) [out])).spoilAtoms mem [out], [])))

/-- Atoms of a run by stack, counted in PET_COUNT[11]. -/
def State.countAtoms (s : State) (a n : Nat) : State :=
  (List.range n).foldl (fun s i => s.count (Reg.petCount (stackOf (a + 64 * i)) 11) 1) s

/-- FILL (R270): a first and a last atom that it covers in part are merged (R264, R295). -/
def execPetalFill (k : Nat) (s : State) (mem : MemEnv := []) : Host.Outcome State Fault Refusal :=
  .next (s.petalRun k 6 (fun s _ c =>
    let s1 := s.hbmAccess mem ((partialAtoms c.a0 (64 * c.count)).map (fun a => ⟨a, 64⟩)) [⟨c.a0, 64 * c.count⟩]
    ((s1.hbmPut mem c.a0 ((List.range (8 * c.count)).flatMap (fun _ => leBytes 8 c.a1))).countAtoms c.a0 c.count, [])))

/-- PETAL_COPY (R270). -/
def execPetalCopy (k : Nat) (mem : MemEnv) (s : State) : Host.Outcome State Fault Refusal :=
  .next (s.petalRun k 7 (fun s _ c =>
    let bs := Mem.read (s.delivered mem).hbm c.a0 (64 * c.count)
    let s1 := s.hbmAccess mem [⟨c.a0, 64 * c.count⟩] [⟨c.a1, 64 * c.count⟩]
    ((s1.hbmPut mem c.a1 bs).countAtoms c.a1 c.count, [])))

/-! ### Completion (R261) -/

/-- PETAL_COMPLETE (R261): every unit has written the last atom of command `k`; pooled rows land, a host command ends. -/
def execPetalComplete (k : Nat) (s : State) : Host.Outcome State Fault Refusal :=
  match s.petals[k]? with
  | none => .next s
  | some q =>
    if q.stage ≠ 2 then .next s
    else
      let c := petalOf q.cmd
      let s1 := { s with petals := s.petals.eraseIdx k }
      let s2 := c.stacks.foldl (fun s j => s.count (Reg.petCount j 0) 1) s1
      if q.host then
        .next (({ s2 with hbm := Mem.write s2.hbm q.dest q.result }).finish q.ring q.seq 0 0 0)
      else
        let p := s2.phys q.tile
        let run := byteRun q.dest q.result.length
        .next (((s2.ownerCheck p (s2.blockedWrites p .dma false [run])).count (Reg.tlDmaCount p 2) run.count).unitWrite p .dma false q.dest q.result)

end Sys2Proof.Machine
end

