-- ==== Sys2Proof/Machine/Link.lean ====
section
/-! DEFINITION. The Frakel ports and their link layer (R370 to R387): training, identity, flits, replay, credits, the choice at a
flit boundary. A flit arrives as its peer sent it, with the damage its symbols took on the way. -/

namespace Sys2Proof.Machine

def State.port (s : State) (p : Nat) : PortState := Sparse.get (fun _ => PortState.reset) s.ports p
def State.setPort (s : State) (p : Nat) (x : PortState) : State :=
  { s with ports := Sparse.set (fun _ => PortState.reset) s.ports p x }
def State.modPort (s : State) (p : Nat) (f : PortState → PortState) : State := s.setPort p (f (s.port p))

/-- Length of axis i (0 is A). -/
def State.axisLen (s : State) (i : Nat) : Nat := s.fld Reg.frkAxes (31 - 8 * i) (24 - 8 * i)

/-- Coordinate of a device address on axis i (R384). -/
def coord (a i : Nat) : Nat := bits a (19 - 5 * i) (15 - 5 * i)

/-- This device's address. -/
def State.ownAddr (s : State) : Nat := s.fld Reg.frkAddr 19 0

/-- A port that may train: ENABLE 1 and an axis longer than 1 (R385). -/
def State.portEnabled (s : State) (p : Nat) : Bool := isBit (s.reg (Reg.frkPortCtl p)) 0 && decide (1 < s.axisLen (p / 2))

def portDOWN : Nat := 1
def portTRAINING : Nat := 2
def portIDENT : Nat := 3
def portACTIVE : Nat := 4
def portMISWIRED : Nat := 5
def portFAILED : Nat := 6

/-- FRK_PORT_STATUS.STATE, DISABLED for a port that may not train. -/
def State.portSt (s : State) (p : Nat) : Nat := if s.portEnabled p then s.fld (Reg.frkPortStatus p) 2 0 else 0
def State.setPortSt (s : State) (p st : Nat) : State := s.setFld (Reg.frkPortStatus p) 2 0 st

/-- A record of a port. -/
def State.portEvent (s : State) (code sev p : Nat) : State := s.event code sev srcFrakel p [it2 code, it2 p]

/-- A failed port: its state, its record, and its entry for the repair record (R387, R445). -/
def State.portFail (s : State) (p code : Nat) : State :=
  let s1 := (s.setPortSt p portFAILED).portEvent code sevERROR p
  { s1 with repairsDue := s1.repairsDue ++ [[Byte.of 7, Byte.of p, 0, 0, 0, 0, 0, 0] ++ leBytes 8 s1.utcSeconds] }

/-! ### Training and identity (R386, R387) -/

/-- PORT_SIGNAL_DETECT (R386): a port stays DOWN while the fabric reference is absent (R524). -/
def execPortSignalDetect (p : Port) (s : State) : Host.Outcome State Fault Refusal :=
  if s.portSt p.val = portDOWN ∧ (s.port p.val).retry = false ∧ s.mgmt.fclkBad = false then .next (s.setPortSt p.val portTRAINING) else .next s

/-- A LINK flit's bytes from byte 4 on: kind and fields (R379). -/
def linkBytes (kind : Nat) (fields : List Byte) : List Byte := padTo 240 (Byte.of kind :: fields)

/-- The fields of this device's IDENT on a port (R386). -/
def State.identFields (s : State) (p : Nat) : List Byte :=
  leBytes 8 Config.uid.toNat ++ leBytes 4 (s.reg Reg.frkAddr) ++ leBytes 4 (s.reg Reg.frkAxes) ++ leBytes 1 p ++ leBytes 1 0xB0
    ++ leBytes 2 (s.port p).rxNext ++ leBytes 2 0

/-- Queues a LINK flit. -/
def State.sendLink (s : State) (p kind : Nat) (fields : List Byte) : State :=
  s.modPort p (fun x => { x with linkQ := x.linkQ ++ [linkBytes kind fields] })

/-- The width that lanes without fault allow (R372): 2 for x8, 1 for x4, 0 for none. -/
def State.widthOf (s : State) (p lanes : Nat) : Nat :=
  if lanes % 256 = 255 then 2
  else if isBit (s.reg (Reg.frkPortCtl p)) 1 && (lanes % 16 == 15 || bits lanes 7 4 == 15) then 1
  else 0

/-- PORT_TRAINED (R386): lanes are equalised, aligned and locked; the port enters IDENT, sends PROBE 16 times and its IDENT. -/
def execPortTrained (p : Port) (lanes : Nat) (s : State) : Host.Outcome State Fault Refusal :=
  let w := s.widthOf p.val lanes
  if s.portSt p.val ≠ portTRAINING ∨ w = 0 then .next s
  else
    let r := Reg.frkPortStatus p.val
    let s1 := ((((s.setPortSt p.val portIDENT).setFld r 15 8 lanes).setFld r 7 6 w).setFld r 31 16 0)
    let s2 := (List.range 16).foldl (fun s i => s.sendLink p.val 2 (leBytes 4 i)) s1
    .next (s2.sendLink p.val 4 (s2.identFields p.val))

/-- A training, or the identification after it, fails (R387, R380): DOWN and a new try after a second; FAILED after three retrains. -/
def State.trainFail (s : State) (p : Nat) : State :=
  let x := s.port p
  let n := if x.retraining then x.fails + 1 else x.fails
  let s1 := (s.setReg (Reg.frkPortPeer p) 0).setReg (Reg.frkPortPeerUid p) 0
  if x.retraining && decide (3 ≤ n) then
    ((s1.modPort p (fun x => { x with fails := 0, retraining := false, retry := false })).portEvent 0x0701 sevERROR p).portFail p 0x0705
  else ((s1.setPortSt p portDOWN).modPort p (fun x => { x with fails := n, retry := true })).portEvent 0x0701 sevERROR p

/-- PORT_TRAINING_TIMEOUT (R386, R387): a limit passes in TRAINING, or in IDENT before the peer's IDENT has arrived. -/
def execPortTrainingTimeout (p : Port) (s : State) : Host.Outcome State Fault Refusal :=
  if s.portSt p.val = portTRAINING ∨ (s.portSt p.val = portIDENT ∧ isBit (s.reg (Reg.frkPortPeer p.val)) 31 = false) then
    .next (s.trainFail p.val)
  else .next s

/-- PORT_TRAINING_RETRY (R387): one second after a failed training. -/
def execPortTrainingRetry (p : Port) (s : State) : Host.Outcome State Fault Refusal :=
  if s.portSt p.val = portDOWN ∧ (s.port p.val).retry = true then
    .next ((s.setPortSt p.val portTRAINING).modPort p.val (fun x => { x with retry := false }))
  else .next s

/-- A retrain (R380): the replay buffer, the sequence numbers and every buffer stay. -/
def State.retrain (s : State) (p : Nat) : State :=
  let s1 := ((s.setPortSt p portTRAINING).setReg (Reg.frkPortPeer p) 0).setReg (Reg.frkPortPeerUid p) 0
  ((s1.modPort p (fun x => { x with retraining := true, replay := x.replay.map (fun f => { f with resent := 0 }), nack := none, retry := false })).count (Reg.frkPortCount p 5) 1).portEvent
    0x0704 sevWARNING p

/-- Queues a NACK that names the next expected SEQ (R377). -/
def State.sendNack (s : State) (p : Nat) : State :=
  let n := (s.port p).rxNext
  if (s.port p).nack = some n then s
  else (s.modPort p (fun x => { x with nack := some n })).sendLink p 1 (leBytes 2 n)

/-- LINK_PROBE (R386): answered with ECHO. -/
def execLinkProbe (p : Port) (n : Nat) (s : State) : Host.Outcome State Fault Refusal :=
  if s.portSt p.val = portIDENT ∨ s.portSt p.val = portACTIVE then .next (s.sendLink p.val 3 (leBytes 4 n)) else .next s

/-- LINK_ECHO (R386): RTT_NS is the longest echo. -/
def execLinkEcho (p : Port) (rtt : Nat) (s : State) : Host.Outcome State Fault Refusal :=
  if s.portSt p.val ≠ portIDENT then .next s
  else .next (s.setFld (Reg.frkPortStatus p.val) 31 16 (max (s.fld (Reg.frkPortStatus p.val) 31 16) (min rtt 0xFFFF)))

/-- The fields of a received IDENT (R386). -/
structure Ident where
  uid : Nat
  addr : Nat
  axes : Nat
  port : Nat
  next : Nat
  deriving DecidableEq, Repr

def identOf (f : List Byte) : Ident := ⟨leAt f 0 8, leAt f 8 4, leAt f 12 4, leAt f 16 1, leAt f 18 2⟩

/-- The peer is the one the axes place at this port (R387). -/
def State.peerOk (s : State) (p : Nat) (x : Ident) : Bool :=
  let i := p / 2
  let l := s.axisLen i
  let c := coord s.ownAddr i
  (x.port == (if p % 2 = 0 then p + 1 else p - 1)) && (x.axes == s.reg Reg.frkAxes
    && (coord x.addr i == (if p % 2 = 0 then (c + 1) % l else (c + l - 1) % l)
    && (List.range 4).all (fun j => j == i || coord x.addr j == coord s.ownAddr j)))

/-- Entering ACTIVE (R380, R404): the sender resends from the peer's next expected SEQ. -/
def State.portUp (s : State) (p next : Nat) : State :=
  let s1 := s.modPort p (fun x =>
    let keep := x.replay.dropWhile (fun f => f.seq != next)
    let r := if x.replay.any (fun f => f.seq == next) then keep else if next = x.txNext then [] else x.replay
    { x with replay := r, resend := if r.isEmpty then none else some 0, fails := 0, retraining := false })
  let s2 := (s1.setPortSt p portACTIVE).portEvent 0x0712 sevINFO p
  if s2.fld (Reg.frkPortStatus p) 7 6 = 1 then s2.portEvent 0x0703 sevWARNING p else s2

/-- The check of the peer after the IDENT exchange (R387), and again when either side's identity changes (log entry 129). -/
def State.identCheck (s : State) (p : Nat) : State :=
  let x := identOf (s.port p).ident
  if 256 < s.fld (Reg.frkPortStatus p) 31 16 then s.portFail p 0x0713
  else if !isBit x.addr 31 || !isBit (s.reg Reg.frkAddr) 31 then s.setPortSt p portIDENT
  else if s.peerOk p x then (if s.portSt p = portACTIVE then s else s.portUp p (x.next % 4096))
  else (s.setPortSt p portMISWIRED).portEvent 0x0702 sevERROR p

/-- LINK_IDENT (R387): the peer's identity, and its check. -/
def execLinkIdent (p : Port) (fields : List Byte) (s : State) : Host.Outcome State Fault Refusal :=
  let st := s.portSt p.val
  if st ≠ portIDENT ∧ st ≠ portACTIVE then .next s
  else
    let x := identOf fields
    let s1 := ((s.setReg (Reg.frkPortPeerUid p.val) x.uid).setReg (Reg.frkPortPeer p.val)
      (2 ^ 31 + bit x.addr 31 * 2 ^ 30 + x.port % 8 * 2 ^ 27 + x.addr % 2 ^ 20)).modPort p.val (fun y => { y with ident := fields })
    .next (s1.identCheck p.val)

/-- LINK_RETRAIN (R380): the peer asks for a retrain. -/
def execLinkRetrain (p : Port) (s : State) : Host.Outcome State Fault Refusal :=
  if s.portSt p.val = portACTIVE then .next (s.retrain p.val) else .next s

/-- LINK_MARKER_LOST (R380): the marker has not been found in three successive frames. -/
def execLinkMarkerLost (p : Port) (s : State) : Host.Outcome State Fault Refusal :=
  if s.portSt p.val = portACTIVE then .next (s.retrain p.val) else .next s

/-- PORT_RETRAIN (R380, R387): software writes FRK_PORT_CTL.RETRAIN: an ACTIVE port retrains; a FAILED or MISWIRED port trains
again. -/
def execPortRetrain (p : Port) (s : State) : Host.Outcome State Fault Refusal :=
  let st := s.portSt p.val
  if st = portACTIVE ∨ st = portIDENT then .next (s.retrain p.val)
  else if st = portFAILED ∨ st = portMISWIRED then
    .next ((((s.setPortSt p.val portTRAINING).setReg (Reg.frkPortPeer p.val) 0).setReg (Reg.frkPortPeerUid p.val) 0).modPort p.val
      (fun x => { x with fails := 0, retraining := false, retry := false, nack := none }))
  else .next s

/-- FRK_ADDR_WRITE (R384, R386): a write of FRK_ADDR or FRK_AXES, accepted in EMPTY alone and where every coordinate lies below its
axis length, each length lies in 1 to 32 and their product is at most 65,536; IDENT is sent again. -/
def execFrkAddrWrite (axes : Bool) (value : Nat) (s : State) : Host.Outcome State Fault Refusal :=
  if s.jobState ≠ jobEMPTY then .next s
  else
    let s1 := if axes then s.setReg Reg.frkAxes (value % 2 ^ 32) else s.setReg Reg.frkAddr (bit value 31 * 2 ^ 31 + value % 2 ^ 20)
    let ls := (List.range 4).map (fun i => s1.axisLen i)
    let ok := ls.all (fun l => decide (1 ≤ l) && decide (l ≤ 32)) && (decide (ls.foldl (· * ·) 1 ≤ 65536)
      && (List.range 4).all (fun i => decide (coord s1.ownAddr i < s1.axisLen i)))
    if ok then .next ((List.range 8).foldl (fun s p =>
      if s.portSt p = portIDENT ∨ s.portSt p = portACTIVE then
        (let s2 := s.sendLink p 4 (s.identFields p)
         if isBit (s2.reg (Reg.frkPortPeer p)) 31 then s2.identCheck p else s2)
      else s) s1)
    else .next s

/-! ### Credits and acknowledgement (R375, R376, R378, R382) -/

/-- Buffer number of a virtual channel and a class. -/
def bufNo (vc cls : Nat) : Nat := vc * 4 + cls
/-- Flits a buffer holds (R382). -/
def bufDepth (vc : Nat) : Nat := if vc = 0 then 64 else 32

/-- The credits a sender holds for a buffer: its depth, plus the flits the peer has freed, less the flits sent (log entry 20). -/
def PortState.credit (x : PortState) (vc cls : Nat) : Nat :=
  let b := bufNo vc cls
  let out := (Sparse.get (fun _ => 0) x.used b + 4096 - Sparse.get (fun _ => 0) x.peerFreed b) % 4096
  bufDepth vc - out

/-- Takes the sixteen cumulative counts of a marker or CREDIT flit, four bytes each. -/
def PortState.takeCredits (x : PortState) (counts : List Byte) : PortState :=
  { x with peerFreed := (List.range 16).foldl (fun m b => Sparse.set (fun _ => 0) m b (leAt counts (4 * b) 4 % 4096)) x.peerFreed }

/-- An ACK covers every flit up to its SEQ (R376). -/
def PortState.takeAck (x : PortState) (a : Nat) : PortState :=
  if x.replay.any (fun f => f.seq == a) then
    let r := (x.replay.dropWhile (fun f => f.seq != a)).drop 1
    let n := x.replay.length - r.length
    { x with replay := r, resend := match x.resend with
        | none => none
        | some k => if r.length ≤ k - n then none else some (k - n) }
  else x

/-- LINK_CREDIT (R382). -/
def execLinkCredit (p : Port) (counts : List Byte) (s : State) : Host.Outcome State Fault Refusal :=
  if s.portSt p.val = portACTIVE then .next (s.modPort p.val (fun x => x.takeCredits counts)) else .next s

/-- MARKER_RECEIVE (R375): the marker keeps the lanes aligned and brings cumulative credits. -/
def execMarkerReceive (p : Port) (counts : List Byte) (s : State) : Host.Outcome State Fault Refusal :=
  if s.portSt p.val = portIDENT ∨ s.portSt p.val = portACTIVE then .next (s.modPort p.val (fun x => x.takeCredits counts)) else .next s

/-- LINK_NACK (R378, R380): the sender resends its replay buffer from the named SEQ; a SEQ that has been resent eight times and is still not
accepted makes the port retrain. -/
def execLinkNack (p : Port) (seq : Nat) (s : State) : Host.Outcome State Fault Refusal :=
  if s.portSt p.val ≠ portACTIVE then .next s
  else
    let x := s.port p.val
    match x.replay.findIdx? (fun f => f.seq == seq % 4096) with
    | none => .next s
    | some k =>
      if (x.replay.drop k).any (fun f => decide (8 ≤ f.resent)) then .next (s.retrain p.val)
      else .next (s.setPort p.val { x with resend := some k })

/-- NACK_REPEAT (R378): the next expected SEQ has not advanced since the NACK. -/
def execNackRepeat (p : Port) (s : State) : Host.Outcome State Fault Refusal :=
  let x := s.port p.val
  if s.portSt p.val = portACTIVE ∧ x.nack = some x.rxNext then .next (s.sendLink p.val 1 (leBytes 2 x.rxNext)) else .next s

/-! ### Receiving (R373, R377) -/

/-- The damaged symbols of one codeword of a flit: 0 the even-numbered bytes, 1 the odd-numbered ones (R373). -/
def damageOf (damage : List (Nat × Byte)) (c : Nat) : List (Nat × Byte) := damage.filter (fun q => q.1 % 2 == c)

/-- A flit as its decoder delivers it (R373), and the symbols corrected: each codeword corrects up to two damaged symbols; one with more
is delivered as it arrived (log entry 130). -/
def fecDecode (damage : List (Nat × Byte)) (bytes : List Byte) : List Byte × Nat :=
  [0, 1].foldl (fun x c =>
    let d := damageOf damage c
    if d.length ≤ 2 then (x.1, x.2 + d.length)
    else (d.foldl (fun bs q => bs.set q.1 ((bs.getD q.1 0) ^^^ q.2)) x.1, x.2)) (bytes, 0)

/-- FLIT_RECEIVE (R373, R377): a flit, with the damage its symbols took on the way (position and flipped bits), is decoded, checked and
accepted in sequence, or discarded. -/
def execFlitReceive (p : Port) (damage : List (Nat × Byte)) (raw : List Byte) (s : State) : Host.Outcome State Fault Refusal :=
  if s.portSt p.val ≠ portACTIVE then .next s
  else
    let bytes := (fecDecode damage raw).1
    let s1 := s.count (Reg.frkPortCount p.val 2) (fecDecode damage raw).2
    let h := leAt bytes 0 4
    let typ := bits h 2 0
    if crc32c (bytes.take 244) ≠ leAt bytes 244 4 ∨ typ = 7 then .next ((s1.count (Reg.frkPortCount p.val 3) 1).sendNack p.val)
    else
      let s2 := if isBit h 31 then s1.modPort p.val (fun x => x.takeAck (bits h 30 19)) else s1
      if typ = 0 ∨ 5 ≤ typ then .next s2
      else
        let x := s2.port p.val
        if bits h 18 7 ≠ x.rxNext then .next (s2.sendNack p.val)
        else
          let vc := bits h 4 3
          let cls := bits h 6 5
          let b := bufNo vc cls
          let old := if typ = 1 ∨ typ = 4 then [] else Sparse.get (fun _ => []) x.parts b
          let msg := old ++ (bytes.drop 4).take 240
          let done := typ == 3 || typ == 4
          let s3 := (s2.setPort p.val { x with
            accepted := true, rxNext := (x.rxNext + 1) % 4096, nack := none
            parts := Sparse.set (fun _ => []) x.parts b (if done then [] else msg) }).count (Reg.frkPortCount p.val 1) 1
          if done then .next { s3 with arrived := s3.arrived ++ [⟨p.val, vc, cls, msg.length / 240, msg⟩] } else .next s3

/-- The buffer of a message that has left it is free again: cumulative credits (R382). -/
def State.freeFlits (s : State) (m : NetMsg) : State :=
  if 8 ≤ m.port then s
  else s.modPort m.port (fun x =>
    let b := bufNo m.vc m.cls
    { x with freed := Sparse.set (fun _ => 0) x.freed b ((Sparse.get (fun _ => 0) x.freed b + m.flits) % 4096) })

/-! ### Sending (R374, R376, R383) -/

/-- ACKV and ACK of a flit header: the latest accepted SEQ (R374, R377). -/
def PortState.ackBits (x : PortState) : Nat := if x.accepted then 2 ^ 31 + (x.rxNext + 4095) % 4096 * 2 ^ 19 else 0

/-- The first 248 bytes of a flit with a header (R373). -/
def sealFlit (h : Nat) (payload : List Byte) : List Byte :=
  let b := leBytes 4 h ++ padTo 240 payload
  b ++ leBytes 4 (crc32c b)

/-- The first 248 bytes of a flit (R373, R374). -/
def PortState.flit (x : PortState) (typ vc cls seq : Nat) (payload : List Byte) : List Byte :=
  sealFlit (x.ackBits + seq * 2 ^ 7 + cls * 2 ^ 5 + vc * 2 ^ 3 + typ) payload

/-- A flit of the replay buffer as it is sent again: its original contents, with the present ACK, which every flit carries (R377, R378). -/
def PortState.again (x : PortState) (f : FlitRec) : List Byte := sealFlit (x.ackBits + leAt f.bytes 0 4 % 2 ^ 19) ((f.bytes.drop 4).take 240)

/-- The check symbols of a flit, bytes 248 to 255: four of each of the two interleaved codewords (R373). -/
def fecBytes (b : List Byte) : List Byte :=
  let word := fun (c : Nat) => leNat ((List.range 124).map (fun i => b.getD (2 * i + c) 0))
  (List.range 8).map (fun i => Config.fec (word (i % 2)) (i / 2))

/-- The bytes of a flit that each lane of its port carries (R372): 32 to a lane at x8; 64 to a lane of the trained group at x4, lanes 0 to 3
when both groups trained. -/
def State.striped (s : State) (p : Nat) (b : List Byte) : List (Nat × List Byte) :=
  let st := s.reg (Reg.frkPortStatus p)
  if bits st 7 6 = 2 then (List.range 8).map (fun l => (l, (b.drop (32 * l)).take 32))
  else
    let g := if bits st 11 8 = 15 then 0 else 4
    (List.range 4).map (fun l => (g + l, (b.drop (64 * l)).take 64))

/-- A flit leaves the port. -/
def State.emit (s : State) (p : Nat) (b : List Byte) : State :=
  ({ s with sent := s.sent ++ [Sent.flit p (s.striped p (b ++ fecBytes b))] }).count (Reg.frkPortCount p 0) 1

/-- The marker of a frame (R375). -/
def PortState.markerBytes (x : PortState) (late : Bool) : List Byte :=
  (List.range 64).map Config.lanePattern ++ (List.range 16).flatMap (fun b => leBytes 4 (Sparse.get (fun _ => 0) x.freed b))
    ++ leBytes 4 x.frame ++ [Byte.of (b2n late)]

/-- Message number `k` of a queue is the first of its virtual channel and class. -/
def headOf (q : List OutFlits) (k : Nat) : Bool :=
  match q[k]? with
  | none => false
  | some m => (q.take k).all (fun n => !(n.vc == m.vc && n.cls == m.cls))

/-- The first message of a virtual channel that may send a flit: head of its class, with a credit; messages under way first. -/
def PortState.pick (x : PortState) (vc : Nat) : Option Nat :=
  let ks := (List.range x.queue.length).filter (fun k => headOf x.queue k && (match x.queue[k]? with
    | none => false
    | some m => m.vc == vc && decide (0 < x.credit m.vc m.cls)))
  match ks.find? (fun k => match x.queue[k]? with
    | none => false
    | some m => m.started) with
  | some k => some k
  | none => ks.head?

/-- A message of a virtual channel is under way. -/
def PortState.under (x : PortState) (vc : Nat) : Bool := x.queue.any (fun m => m.vc == vc && m.started)

/-- The message whose flit goes next (R383): CONTROL, then RESPONSE, then REDUCE and BULK by turns, message by message. -/
def PortState.choose (x : PortState) : Option Nat :=
  let bulkFirst := if x.under 1 then false else if x.under 2 then true else !x.lastBulk
  let order := if bulkFirst then [0, 3, 2, 1] else [0, 3, 1, 2]
  order.findSome? (fun vc => x.pick vc)

/-- Sends the next flit of message `k`: numbered, kept in the replay buffer, charged to its buffer (R376). -/
def State.sendFlit (s : State) (p k : Nat) : State :=
  let x := s.port p
  match x.queue[k]? with
  | none => s
  | some m =>
    let last := decide (m.rest.length ≤ 1)
    let typ := if m.started then (if last then 3 else 2) else (if last then 4 else 1)
    let b := x.flit typ m.vc m.cls x.txNext (m.rest.headD [])
    let n := bufNo m.vc m.cls
    let pre := m.vc == 0 && x.queue.any (fun q => q.vc != 0 && q.started)
    let y := { x with
      txNext := (x.txNext + 1) % 4096
      replay := x.replay ++ [⟨x.txNext, 0, b⟩]
      used := Sparse.set (fun _ => 0) x.used n ((Sparse.get (fun _ => 0) x.used n + 1) % 4096)
      lastBulk := if last && (m.vc == 1 || m.vc == 2) then m.vc == 2 else x.lastBulk
      queue := if last then x.queue.eraseIdx k else x.queue.set k { m with rest := m.rest.drop 1, started := true } }
    ((s.setPort p y).count (Reg.frkPortCount p 6) (b2n pre)).emit p b

/-- Slot and frame after a flit time (R375). -/
def State.nextSlot (s : State) (p : Nat) : State :=
  s.modPort p (fun x => if x.slot = 79 then { x with slot := 0, frame := (x.frame + 1) % 2 ^ 32 } else { x with slot := x.slot + 1 })

/-- FLIT_BOUNDARY (R383): the output port chooses the next flit and sends it. -/
def execFlitBoundary (p : Port) (s : State) : Host.Outcome State Fault Refusal :=
  let st := s.portSt p.val
  if st ≠ portIDENT ∧ st ≠ portACTIVE then .next s
  else
    let s0 := s.modPort p.val (fun x => { x with marker := x.marker || x.slot == 0 })
    let x := s0.port p.val
    let act := st == portACTIVE
    let new := if act && (x.resend.isNone && decide (x.replay.length < 512)) then x.choose else none
    let control := match new with
      | none => false
      | some k => match x.queue[k]? with
        | none => false
        | some m => m.vc == 0
    let s1 := match x.linkQ with
      | l :: rest => (s0.setPort p.val { x with linkQ := rest }).emit p.val (x.flit 5 0 0 0 l)
      | [] =>
        if x.marker && !(x.slot == 0 && control) then
          (s0.setPort p.val { x with marker := false }).emit p.val (x.flit 6 0 0 0 (x.markerBytes (x.slot != 0)))
        else
          let s2 := if x.marker then s0.count (Reg.frkPortCount p.val 7) 1 else s0
          match act, x.resend with
          | true, some k =>
            match x.replay[k]? with
            | none => s2.setPort p.val { x with resend := none }
            | some f => ((s2.setPort p.val { x with
                replay := x.replay.set k { f with resent := f.resent + 1 }
                resend := if k + 1 < x.replay.length then some (k + 1) else none }).count
                (Reg.frkPortCount p.val 4) 1).emit p.val (x.again f)
          | _, _ =>
            match new with
            | some k => s2.sendFlit p.val k
            | none =>
              let dry := act && (!x.queue.isEmpty && decide (x.replay.length < 512))
              (s2.count (Reg.frkPortCount p.val 8) (b2n dry)).emit p.val (x.flit 0 0 0 0 [])
    .next (s1.nextSlot p.val)

end Sys2Proof.Machine
end

