-- ==== Sys2Proof/Machine/Transport.lean ====
section
/-! DEFINITION. Routing, messages and connections of the Frakel fabric (R384, R388 to R401): the routing table, hop-by-hop
forwarding, exactly-once delivery, acknowledgement and resending. A new message leaves in the step that creates it, or in the
step that frees its window or credit. -/

namespace Sys2Proof.Machine

/-! ### Routing (R384, R388 to R392) -/

/-- The device index of an address (R384). -/
def State.devIndex (s : State) (a : Nat) : Nat :=
  ((coord a 0 * s.axisLen 1 + coord a 1) * s.axisLen 2 + coord a 2) * s.axisLen 3 + coord a 3

def State.routeEntry (s : State) (i : Nat) : Nat := (Sparse.get (fun _ => (0 : W64)) s.routes i).toNat

/-- The direction bits towards a target without an override (R389). -/
def State.dirBits (s : State) (target : Nat) : Nat :=
  (List.range 4).foldl (fun v i =>
    let l := s.axisLen i
    let h := (coord target i + l - coord s.ownAddr i) % l
    if h ≤ l - h then v else v + 2 ^ i) 0

/-- The ROUTE byte, VIA and VIA_DIR of a message to a destination (R389, R390). -/
def State.routeOf (s : State) (dst : Nat) : Nat × Nat × Nat :=
  let e := s.routeEntry (s.devIndex dst)
  if isBit e 63 then
    (if isBit e 47 then (bits e 55 52 + 16, bits e 19 0, bits e 51 48) else (bits e 55 52, 0, 0))
  else (s.dirBits dst, 0, 0)

/-- The first axis on which the target differs (R388). -/
def State.firstAxis (s : State) (target : Nat) : Option Nat := (List.range 4).find? (fun i => coord s.ownAddr i != coord target i)

/-- Header fields of a message (R393). -/
def mTyp (b : List Byte) : Nat := leAt b 0 1
def mVc (b : List Byte) : Nat := leAt b 1 1 % 4
def mLen (b : List Byte) : Nat := leAt b 2 2
def mDst (b : List Byte) : Nat := leAt b 4 3 % 2 ^ 20
def mRoute (b : List Byte) : Nat := leAt b 7 1
def mSrc (b : List Byte) : Nat := leAt b 8 3 % 2 ^ 20
def mSeq (b : List Byte) : Nat := leAt b 12 4
def mVia (b : List Byte) : Nat := leAt b 16 3 % 2 ^ 20
def mAddr (b : List Byte) : Nat := leAt b 20 6
def mPayload (b : List Byte) : List Byte := (b.drop 32).take (mLen b)

/-- The target of a message: VIA while PHASE is 1, DST otherwise (R388). -/
def mTarget (b : List Byte) : Nat := if isBit (mRoute b) 4 then mVia b else mDst b
/-- Its direction bit for an axis. -/
def mDir (b : List Byte) (i : Nat) : Nat := bit (if isBit (mRoute b) 4 then leAt b 19 1 else mRoute b) i

/-- A first record in FRK_MSG_FIRST (R405). -/
def State.msgFirst (s : State) (code typ src : Nat) : State :=
  s.first Reg.frkMsgFirst 32 (code * 2 ^ 48 + typ % 256 * 2 ^ 40 + 2 ^ 32 + src % 2 ^ 20)

/-- The payloads of the flits of a message: 240 bytes each, the last padded (R393). -/
def flitsOf : Nat → List Byte → List (List Byte)
  | 0, _ => []
  | fuel + 1, b => if b.length ≤ 240 then [padTo 240 b] else b.take 240 :: flitsOf fuel (b.drop 240)

/-- Puts a message on its next port; `from_` is the port and class it came by, none at its source (R388, R391, R392). The state, and
whether it was dropped. -/
def State.inject (s : State) (b : List Byte) (from_ : Option (Nat × Nat)) : State :=
  match s.firstAxis (mTarget b) with
  | none => { s with arrived := s.arrived ++ [⟨8, mVc b, 0, (b.length + 239) / 240, b⟩] }
  | some i =>
    let d := mDir b i
    let p := 2 * i + d
    if s.portSt p ≠ portACTIVE then (s.count (Reg.frkMsgCount 10) 1).msgFirst 0x070F (mTyp b) (mDst b)
    else
      let c := coord s.ownAddr i
      let wrap := if d = 0 then c + 1 == s.axisLen i else c == 0
      let base := if isBit (mRoute b) 4 then 2 else 0
      let cls := match from_ with
        | some (q, old) => if q / 2 = i then (if wrap then base + 1 else old) else base + b2n wrap
        | none => base + b2n wrap
      s.modPort p (fun x => { x with queue := x.queue ++ [⟨from_.isNone, mVc b, cls, flitsOf (b.length / 240 + 1) b, false⟩] })

/-- A message with its PHASE bit cleared. -/
def clearPhase (b : List Byte) : List Byte := patch b 7 [Byte.of (mRoute b % 16)]

/-- MSG_FORWARD (R388, R391, R392): arrived message `k` goes on to its next device; the device that is its VIA clears PHASE. -/
def execMsgForward (k : Nat) (s : State) : Host.Outcome State Fault Refusal :=
  match s.arrived[k]? with
  | none => .next s
  | some m =>
    let atVia := isBit (mRoute m.bytes) 4 && mVia m.bytes == s.ownAddr
    let b := if atVia then clearPhase m.bytes else m.bytes
    if mTarget b = s.ownAddr then (if atVia then .next { s with arrived := s.arrived.set k { m with bytes := b } } else .next s)
    else
      let s1 := ({ s with arrived := s.arrived.eraseIdx k }).freeFlits m
      let s2 := match s1.firstAxis (mTarget b) with
        | none => s1
        | some i =>
          let p := 2 * i + mDir b i
          if s1.portSt p = portACTIVE then s1.count (Reg.frkPortCount p 9) 1 else s1
      .next (s2.inject b (if atVia then none else some (m.port, m.cls)))

/-- FRK_ROUTE_READ (R390). -/
def execFrkRouteRead (s : State) : Host.Outcome State Fault Refusal :=
  .next (s.setReg Reg.frkRouteData (s.routeEntry (s.fld Reg.frkRouteIndex 15 0)))

/-- A message with the route of the present table (R389, R390): direction bits, PHASE, VIA and VIA_DIR, under a new trailer. -/
def State.reroute (s : State) (b : List Byte) : List Byte :=
  let r := s.routeOf (mDst b)
  let n := 32 + mLen b
  let c := (patch (patch b 7 [Byte.of r.1]) 16 (leBytes 3 r.2.1 ++ leBytes 1 r.2.2)).take n
  c ++ leBytes 4 (crc32c (patch c 7 [Byte.of (r.1 % 16)]))

/-- The bytes of a message of this device whose first flit has not left, when it goes to the device of an index. -/
def State.unsent (s : State) (i : Nat) (m : OutFlits) : Option (List Byte) :=
  let b := m.rest.flatMap (fun f => f)
  if m.own && (!m.started && s.devIndex (mDst b) == i) then some b else none

/-- A new entry governs the messages whose first flit leaves after its write (R390): those that wait at this device, their source, take it. -/
def State.rerouteAll (s : State) (i : Nat) : State :=
  let bs := (List.range 8).flatMap (fun p => (s.port p).queue.filterMap (s.unsent i))
  let s1 := (List.range 8).foldl (fun s p => s.modPort p (fun x => { x with queue := x.queue.filter (fun m => (s.unsent i m).isNone) })) s
  bs.foldl (fun s b => s.inject (s.reroute b) none) s1

/-- FRK_ROUTE_WRITE (R390, R405): an entry with a reserved bit set is not written. -/
def execFrkRouteWrite (s : State) : Host.Outcome State Fault Refusal :=
  let v := s.reg Reg.frkRouteData
  let i := s.fld Reg.frkRouteIndex 15 0
  if bits v 62 56 ≠ 0 ∨ bits v 46 20 ≠ 0 then .next s
  else .next ({ s with routes := Sparse.set (fun _ => 0) s.routes i (W64.of v) }.rerouteAll i)

/-! ### Connections (R396, R397) -/

/-- A connection record (R396). -/
structure ConnRec where
  conn : Nat
  vc : Nat
  peer : Nat
  window : Nat
  credits : Nat
  coalesce : Nat
  deriving DecidableEq, Repr

def State.connRecs (s : State) : List ConnRec :=
  let bs := s.devSection 0x50
  (List.range (leAt bs 0 2)).map (fun i =>
    let r := (bs.drop (8 + 16 * i)).take 16
    ⟨leAt r 0 2, leAt r 2 1, leAt r 4 4 % 2 ^ 20, leAt r 8 2, leAt r 10 2, leAt r 12 1⟩)

def State.connRec (s : State) (c : Nat) : Option ConnRec := s.connRecs.find? (fun r => r.conn == c)
def State.connTo (s : State) (peer vc : Nat) : Option ConnRec := s.connRecs.find? (fun r => r.peer == peer && r.vc == vc)

def State.conn (s : State) (c : Nat) : ConnState := Sparse.get (fun _ => ConnState.reset) s.conns c
def State.setConn (s : State) (c : Nat) (x : ConnState) : State :=
  { s with conns := Sparse.set (fun _ => ConnState.reset) s.conns c x }

/-- Whole bytes of a message (R393); bit 4 of byte 7 counts as 0 in the CRC. -/
def State.msgBytes (s : State) (typ vc dst seq addr tag : Nat) (payload : List Byte) : List Byte :=
  let r := s.routeOf dst
  let h := leBytes 1 typ ++ leBytes 1 vc ++ leBytes 2 payload.length ++ leBytes 3 dst ++ leBytes 1 r.1 ++ leBytes 3 s.ownAddr
    ++ leBytes 1 (s.fld Reg.frkXportCtl 31 24) ++ leBytes 4 seq ++ leBytes 3 r.2.1 ++ leBytes 1 r.2.2 ++ leBytes 8 addr ++ leBytes 4 tag
  let b := h ++ payload
  b ++ leBytes 4 (crc32c (patch b 7 [Byte.of (r.1 % 16)]))

/-- Transmits one message of a connection. -/
def State.transmit (s : State) (r : ConnRec) (m : OutMsg) : State :=
  s.inject (s.msgBytes m.typ r.vc r.peer m.seq m.addr m.tag m.payload) none

/-- The credits a sender starts with, 1 to 4,096 (R396, R397). -/
def startCredits (c : Nat) : Nat := 1 + (Config.peerCredits c) % 4096

/-- Sends held messages while window and credits allow; on CONTROL only when every earlier message is acknowledged (R397, R428). -/
def State.pump (r : ConnRec) : Nat → State → State
  | 0, s => s
  | fuel + 1, s =>
    let x := s.conn r.conn
    match x.held with
    | [] => s
    | m :: rest =>
      if x.unacked.length < (if r.vc = 0 then 1 else r.window) && decide (x.spent < startCredits r.conn + x.returned) then
        let m1 := { m with seq := x.next }
        let s1 := s.setConn r.conn { x with held := rest, unacked := x.unacked ++ [m1], next := (x.next + 1) % 2 ^ 32, spent := x.spent + 1 }
        State.pump r fuel ((s1.count (Reg.frkMsgCount 0) 1).transmit r m1)
      else s

/-- Hands a message to a connection. -/
def State.post (s : State) (r : ConnRec) (typ addr tag : Nat) (payload : List Byte) : State :=
  let x := s.conn r.conn
  State.pump r (x.held.length + 1) (s.setConn r.conn { x with held := x.held ++ [⟨0, typ, addr, tag, payload⟩] })

/-- Hands a message to the connection to a peer on a virtual channel, if one is declared. -/
def State.postTo (s : State) (peer vc typ addr tag : Nat) (payload : List Byte) : State :=
  match s.connTo peer vc with
  | none => s
  | some r => s.post r typ addr tag payload

/-- XPORT_RESEND (R397): the timeout of connection `c` has passed for the unacknowledged messages whose SEQ is in `due`: they are resent, in
SEQ order. -/
def execXportResend (c : Nat) (s : State) (due : List Nat := []) : Host.Outcome State Fault Refusal :=
  match s.connRec c with
  | none => .next s
  | some r =>
    let x := s.conn c
    let old := x.unacked.filter (fun m => due.contains m.seq)
    if old.isEmpty then .next s
    else
      let s1 := old.foldl (fun s m => (s.count (Reg.frkMsgCount 1) 1).transmit r m) s
      let n := x.retries + 1
      let s2 := s1.setConn c { x with retries := n }
      let lim := s2.fld Reg.frkXportCtl 23 16
      if lim ≠ 0 ∧ n % lim = 0 then
        .next ((s2.count (Reg.frkMsgCount 11) 1).event 0x0710 sevWARNING srcFrakel c [it2 c, itN 4 r.peer])
      else .next s2

/-- The ACK payload of a connection (R395). -/
def ConnState.ackPayload (x : ConnState) (vc : Nat) : List Byte :=
  leBytes 4 x.recvNext ++ leBytes 8 ((List.range 64).foldl (fun v i =>
      if x.recvBits.contains ((x.recvNext + 1 + i) % 2 ^ 32) then v + 2 ^ i else v) 0)
    ++ leBytes 4 x.freed ++ leBytes 1 vc ++ List.replicate 15 0

/-- ACK_SEND (R398): an ACK of connection `c`, once ACK_COALESCE messages wait for it or 2 µs have passed since the first. -/
def execAckSend (c : Nat) (s : State) : Host.Outcome State Fault Refusal :=
  match s.connRec c with
  | none => .next s
  | some r =>
    let x := s.conn c
    if x.pendingAck = 0 ∧ x.ackNow = false then .next s
    else .next ((s.setConn c { x with pendingAck := 0, ackNow := false }).inject
      (s.msgBytes 0x0A 3 r.peer 0 0 0 (x.ackPayload r.vc)) none)

/-! ### Receiving (R394, R395, R398) -/

/-- The virtual channel of a message type; none for a reserved type. -/
def typeVc (t : Nat) : Option Nat :=
  match t with
  | 1 => some 2
  | 2 => some 2
  | 3 => some 3
  | 4 => some 1
  | 5 => some 2
  | 6 => some 2
  | 7 => some 0
  | 8 => some 0
  | 9 => some 2
  | 10 => some 3
  | _ => none

/-- Check 2 of R398. -/
def msgFormatOk (b : List Byte) : Bool :=
  let t := mTyp b
  let n := mLen b
  let pl := mPayload b
  let z := fun (x : Nat) => x == 0
  typeVc t == some (mVc b)
  && (z (leAt b 1 1 / 4) && (z (leAt b 4 3 / 2 ^ 20) && (z (mRoute b / 32) && (z (leAt b 8 3 / 2 ^ 20) && (z (leAt b 16 3 / 2 ^ 20)
  && (z (leAt b 19 1 / 16) && (z (leAt b 26 2)
  && (match t with
    | 1 => decide (n ≤ 4096) && z (leAt b 30 2)
    | 2 => n == 16 && (z (leAt b 28 4) && (zeroAt pl 12 4 && (decide (leAt pl 8 4 ≤ 4096) && z (leAt pl 6 2))))
    | 3 => decide (n ≤ 4096)
    | 4 => decide (n ≤ 4096) && decide (leAt b 29 1 < 32)
    | 5 => decide (n ≤ 4096) && z (leAt b 30 2)
    | 6 => decide (n ≤ 4096) && z (leAt b 30 2)
    | 7 => n == 1296 && (z (leAt b 20 8) && (z (leAt b 28 4) && (decide (leAt pl 8 1 < 2) && zeroAt pl 9 7)))
    | 8 => n == 16 && (z (leAt b 20 8) && (z (leAt b 28 4) && zeroAt pl 8 8))
    | 9 => decide (n ≤ 4096)
    | 10 => n == 32 && (z (leAt b 20 8) && (z (leAt b 28 4) && (z (mSeq b) && (decide (leAt pl 16 1 < 4) && zeroAt pl 17 15))))
    | _ => false))))))))

/-- The trailer of a message holds its CRC (check 1). -/
def msgCrcOk (b : List Byte) : Bool :=
  let n := 32 + mLen b
  decide (n + 4 ≤ b.length) && crc32c ((patch b 7 [Byte.of (mRoute b % 16 + mRoute b / 32 * 32)]).take n) == leAt b n 4

/-- A dropped message: counted, recorded first. -/
def State.msgDrop (s : State) (i code : Nat) (b : List Byte) : State := (s.count (Reg.frkMsgCount i) 1).msgFirst code (mTyp b) (mSrc b)

/-- How far SEQ lies above NEXT, as a signed distance mod 2^32. -/
def seqDist (seq next : Nat) : Int := signed 32 ((seq + 2 ^ 32 - next) % 2 ^ 32)

/-- NEXT moves over every set bit (R398). -/
def advance : Nat → Nat → List Nat → Nat × List Nat
  | 0, n, bs => (n, bs)
  | fuel + 1, n, bs => if bs.contains n then advance fuel ((n + 1) % 2 ^ 32) (bs.filter (fun b => b != n)) else (n, bs)

/-- Marks a message received: its bit, NEXT, its credit, an ACK due (R398). -/
def ConnState.take (x : ConnState) (seq coalesce : Nat) : ConnState :=
  let r := advance 4097 x.recvNext (seq :: x.recvBits)
  { x with recvNext := r.1, recvBits := r.2, freed := (x.freed + 1) % 2 ^ 32, pendingAck := x.pendingAck + 1
           ackNow := x.ackNow || decide (coalesce ≤ x.pendingAck + 1) }

/-- Checks 1 to 7 of R398 on arrived message `k`, taken as a message of type `typ`. `region` is check 7. The message leaves its
buffer; a message that passes stands beside the state, for check 8 and the delivery. -/
def State.accept (s : State) (k typ : Nat) (region : State → List Byte → Bool) : State × Option (List Byte) :=
  match s.arrived[k]? with
  | none => (s, none)
  | some m =>
    let b := m.bytes
    if mTarget b ≠ s.ownAddr ∨ isBit (mRoute b) 4 then (s, none)
    else
      let s1 := ({ s with arrived := s.arrived.eraseIdx k }).freeFlits m
      if !msgCrcOk b then (s1.msgDrop 4 0x0708 b, none)
      else if mTyp b ≠ typ && (typeVc (mTyp b)).isSome then (s, none)
      else if !msgFormatOk b then (s1.msgDrop 5 0x0709 b, none)
      else if leAt b 11 1 ≠ s1.fld Reg.frkXportCtl 31 24 then (s1.msgDrop 8 0x070D b, none)
      else match s1.connTo (mSrc b) (mVc b) with
        | none => (s1.msgDrop 6 0x070A b, none)
        | some r =>
          let x := s1.conn r.conn
          let d := seqDist (mSeq b) x.recvNext
          if d < -4096 ∨ 4095 < d then (s1.msgDrop 7 0x070B b, none)
          else if d < 0 || x.recvBits.contains (mSeq b) then
            ((s1.count (Reg.frkMsgCount 3) 1).setConn r.conn { x with ackNow := true }, none)
          else
            let s2 := s1.setConn r.conn (x.take (mSeq b) r.coalesce)
            if !region s2 b then (s2.msgDrop 9 0x070E b, none)
            else (s2.count (Reg.frkMsgCount 2) 1, some b)

/-- A message that passes is handed to `deliver`, which carries out check 8 and the delivery. -/
def State.receive (s : State) (k typ : Nat) (region : State → List Byte → Bool) (deliver : State → List Byte → State) : State :=
  match s.accept k typ region with
  | (s1, none) => s1
  | (s1, some b) => deliver s1 b

/-- Check 7 for a type whose ADDR names the job region. -/
def State.jobRange (s : State) (b : List Byte) : Bool := s.inJob (mAddr b) (mLen b)

/-- MSG_READ_REQ (R401): the read data goes back as a READ_RESP on the RESPONSE connection. -/
def execMsgReadReq (k : Nat) (mem : MemEnv) (s : State) : Host.Outcome State Fault Refusal :=
  .next (s.receive k 2
    (fun s b => let n := leAt (mPayload b) 8 4; s.inJob (mAddr b) n && s.inJob (leAt (mPayload b) 0 8) n)
    (fun s b =>
      let n := leAt (mPayload b) 8 4
      let s1 := s.hbmAccess mem [⟨mAddr b, n⟩]
      s1.postTo (mSrc b) 3 3 (leAt (mPayload b) 0 6) (mSeq b) ((s1.delivered mem).devRead (mAddr b) n)))

/-- MSG_READ_RESP (R394): the data lands at the return address. -/
def execMsgReadResp (k : Nat) (s : State) : Host.Outcome State Fault Refusal :=
  .next (s.receive k 3 State.jobRange (fun s b => s.devWrite (mAddr b) (mPayload b)))

/-- Whether an ACK covers SEQ `q` (R395, R397). -/
def ackCovers (next bitmap q : Nat) : Bool :=
  let d := seqDist q next
  decide (d < 0) || (decide (1 ≤ d) && (decide (d ≤ 64) && isBit bitmap (d - 1).toNat))

/-- An ACK frees messages, adds returned credits and resets the timeout; what waited may leave (R397). -/
def State.takeAckMsg (s : State) (r : ConnRec) (pl : List Byte) : State :=
  let x := s.conn r.conn
  let keep := x.unacked.filter (fun m => !ackCovers (leAt pl 0 4) (leAt pl 4 8) m.seq)
  let rise := (leAt pl 12 4 + 2 ^ 32 - x.returned % 2 ^ 32) % 2 ^ 32
  let x1 := { x with
    unacked := keep
    returned := if rise < 2 ^ 31 then x.returned + rise else x.returned
    retries := if keep.length < x.unacked.length then 0 else x.retries }
  State.pump r (x.held.length + 1) (s.setConn r.conn x1)

/-- MSG_ACK (R397, R398): an ACK travels on no connection; it names its own by its source and the channel in its payload. -/
def execMsgAck (k : Nat) (s : State) : Host.Outcome State Fault Refusal :=
  match s.arrived[k]? with
  | none => .next s
  | some m =>
    let b := m.bytes
    if mTarget b ≠ s.ownAddr ∨ isBit (mRoute b) 4 then .next s
    else
      let s1 := ({ s with arrived := s.arrived.eraseIdx k }).freeFlits m
      if !msgCrcOk b then .next (s1.msgDrop 4 0x0708 b)
      else if mTyp b ≠ 10 ∧ (typeVc (mTyp b)).isSome then .next s
      else if !msgFormatOk b then .next (s1.msgDrop 5 0x0709 b)
      else if leAt b 11 1 ≠ s1.fld Reg.frkXportCtl 31 24 then .next (s1.msgDrop 8 0x070D b)
      else match s1.connTo (mSrc b) (leAt (mPayload b) 16 1) with
        | none => .next s1
        | some r => .next (s1.takeAckMsg r (mPayload b))

/-- The counted codes of a port and of messages, with their counters (R404 to R407). -/
def portCodes : List (Nat × Nat) := [(2, 0x0706), (4, 0x0707), (5, 0x0704)]
def msgCodes : List (Nat × Nat) :=
  [(3, 0x070C), (4, 0x0708), (5, 0x0709), (6, 0x070A), (7, 0x070B), (8, 0x070D), (9, 0x070E), (10, 0x070F), (11, 0x0710)]

/-- The severity of a counted code (R404). -/
def countSev (code : Nat) : Nat := if code = 0x0706 ∨ code = 0x0707 ∨ code = 0x070C then sevNOTICE else sevERROR

/-- One record for a counter that rose (R404). -/
def State.countRecord (s : State) (key code src wher : Nat) : State :=
  if s.rise key = 0 then s
  else (s.event code (countSev code) src wher [it2 code, it2 wher, it8 (s.rise key)]).clearRise key

/-- FRAKEL_COUNT_REPORT (R404): the counts of a port, or of messages, that rose since their last report. -/
def execFrakelCountReport (port : Option Port) (s : State) : Host.Outcome State Fault Refusal :=
  match port with
  | some p => .next (portCodes.foldl (fun s c => s.countRecord (Reg.frkPortCount p.val c.1) c.2 srcFrakel p.val) s)
  | none => .next (msgCodes.foldl (fun s c => s.countRecord (Reg.frkMsgCount c.1) c.2 srcFrakel 0) s)

end Sys2Proof.Machine
end

