-- ==== Sys2Proof/Machine/Training.lean ====
section
/-! DEFINITION. The finite vote, the exchanges, the decisions of premoves and the loss scale (R322 to R327, R356 to R358, R427,
R428), with the scale tick of the tensor scale slots (R123 to R125). -/

namespace Sys2Proof.Machine

/-! ### Exchanges (R427, R428) -/

/-- The other devices of the ring of axis i through this device. -/
def State.ringPeers (s : State) (i : Nat) : List Nat :=
  let sh := 15 - 5 * i
  let c := coord s.ownAddr i
  ((List.range (s.axisLen i)).filter (fun j => j != c)).map (fun j => s.ownAddr - c * 2 ^ sh + j * 2 ^ sh)

/-- The VOTE payload of a partial (R395). -/
def Exchange.payload (x : Exchange) : List Byte :=
  leBytes 8 x.step ++ (leBytes 8 (b2n x.bit)
    ++ ((List.range 64).flatMap (fun d => leBytes 4 (Sparse.get (fun _ => 0) x.sums d))
    ++ (List.range 256).flatMap (fun g => leBytes 4 (Sparse.get (fun _ => (0 : W32)) x.norms g).toNat)))

/-- The partial combined with those of the ring's other devices: AND, saturating sums, exact sums rounded once (R427). -/
def Exchange.combine (x : Exchange) (pls : List (List Byte)) : Exchange :=
  { x with
    bit := x.bit && pls.all (fun p => isBit (leAt p 8 1) 0)
    others := x.others && pls.all (fun p => isBit (leAt p 8 1) 0)
    sums := (List.range 64).foldl (fun m d =>
      Sparse.set (fun _ => 0) m d (min (pls.foldl (fun v p => v + leAt p (16 + 4 * d) 4) (Sparse.get (fun _ => 0) x.sums d)) 0xFFFFFFFF)) []
    norms := (List.range 256).foldl (fun m g =>
      Sparse.set (fun _ => (0 : W32)) m g (W32.of (toF32 (exactSum
        (f32 (Sparse.get (fun _ => (0 : W32)) x.norms g).toNat :: pls.map (fun p => f32 (leAt p (272 + 4 * g) 4))))))) [] }

/-- The first VOTE of a source that waits, if it is of the step. -/
def State.voteOf (s : State) (src step : Nat) : Option (List Byte) :=
  match s.votes.find? (fun v => v.1 == src) with
  | none => none
  | some v => if leAt v.2 0 8 = step then some v.2 else none

/-- Removes the first entry of each listed source. -/
def dropFirst {α : Type} (srcs : List Nat) (l : List (Nat × α)) : List (Nat × α) :=
  srcs.foldl (fun l c => l.eraseIdx (l.findIdx (fun v => v.1 == c))) l

/-- Runs the exchange's stages as far as the VOTEs that have arrived allow; axes of length 1 are skipped. -/
def State.exchAdvance : Nat → State → State
  | 0, s => s
  | fuel + 1, s =>
    match s.exch with
    | none => s
    | some x =>
      if 4 ≤ x.axis then s
      else if s.axisLen x.axis ≤ 1 then State.exchAdvance fuel { s with exch := some { x with axis := x.axis + 1 } }
      else
        let peers := s.ringPeers x.axis
        if !x.sent then
          State.exchAdvance fuel (peers.foldl (fun s c => s.postTo c 0 7 0 0 x.payload) { s with exch := some { x with sent := true } })
        else
          let got := peers.filterMap (fun c => s.voteOf c x.step)
          if got.length < peers.length then s
          else State.exchAdvance fuel
            { s with votes := dropFirst peers s.votes, exch := some { x.combine got with axis := x.axis + 1, sent := false } }

/-- The exchange goes on as far as it can; at a stop under R40 the engines start nothing further (R432). -/
def State.exchRun (s : State) : State := if s.job.mustRestore then s else s.exchAdvance 9

/-- MSG_VOTE (R428): a VOTE of the present step waits for its stage, one of the next is kept, any other is dropped. -/
def execMsgVote (k : Nat) (s : State) : Host.Outcome State Fault Refusal :=
  .next (s.receive k 7 (fun _ _ => true) (fun s b =>
    let pl := mPayload b
    let st := leAt pl 0 8
    if st ≠ s.stepNumber ∧ st ≠ s.stepNumber + 1 then s.count (Reg.netExchCount 3) 1
    else
      let s1 := { s with votes := s.votes ++ [(mSrc b, pl)] }
      (if st = s.stepNumber then s1 else s1.count (Reg.netExchCount 2) 1).exchRun))

/-! ### The vote (R322, R323, R325) -/

/-- VOTE_MOVE, VOTE_OFFSET, VOTE_DUE, GROUP_COUNT of the TRAINING section. -/
def State.voteMove (s : State) : Nat := leAt s.trainSec 4 4
def State.voteOffset (s : State) : Nat := leAt s.trainSec 8 3
def State.voteDue (s : State) : Nat := leAt s.trainSec 11 1
def State.groupCount (s : State) : Nat := leAt s.trainSec 12 2

/-- A slot of the training class that is in use, with its effective policy (R123). -/
def slotTraining (c : Nat) : Bool := isBit c 0 && !isBit c 9
def slotSkips (c : Nat) : Bool := bits c 13 12 == 2 || (bits c 13 12 == 0 && bits c 11 10 == 2)

/-- The physical tiles that carry the logical tiles, in logical order. -/
def State.physTiles (s : State) : List Nat := (List.range 1024).map s.phys

/-- The lowest slot index of which some slot keeps the vote from being true (R125). -/
def State.saturatedSlot (s : State) : Option Nat :=
  (List.range 16).find? (fun i => s.physTiles.any (fun p =>
    let c := s.reg (Reg.tlQntSlotCtl p i)
    slotTraining c && (slotSkips c && decide (0 < s.reg (Reg.tlQntSlotSat p i)))))

/-- Whether a word's operation bears on the vote: a WEIGHT_GRAD drain or a VEC_NORM (R323). -/
def State.bearsOnVote (s : State) (t i w : Nat) : Bool :=
  wOpcode w == 0x39 || (match s.backOf t i with
    | some r => leAt r 1 1 == 2
    | none => false)

/-- Every such operation of the present move has been started on every tile. -/
def State.votersDone (s : State) : Bool :=
  (List.range 1024).all (fun t =>
    let b := s.body t s.plan
    let n := (s.tile (s.phys t)).next
    (List.range b.length).all (fun i => decide (i < n) || !(s.bearsOnVote t i (b.getD i 0))))

/-- The device total of clip group g: the exact sum of the dies' accumulators, rounded once (R328). -/
def State.groupNorm (s : State) (g : Nat) : Nat := toF32 (exactSum ((List.range 4).map (fun d => (s.normOf d g).num)))

/-- VOTE_FORMATION (R322, R323). -/
def execVoteFormation (s : State) : Host.Outcome State Fault Refusal :=
  if s.running && (!s.job.err && (!s.trainSec.isEmpty && (s.stepMove == s.voteMove && (!s.training.formed && s.votersDone)))) then
    let sat := s.saturatedSlot
    let causes := if sat.isSome then s.training.causes ||| 2 else s.training.causes
    let norms := (List.range s.groupCount).foldl (fun m g => Sparse.set (fun _ => (0 : W32)) m g (W32.of (s.groupNorm g))) []
    let s1 := { s.setFld Reg.netMoveOffset 23 0 (max s.offset s.voteOffset) with
      training := { s.training with causes := causes, formed := true, satSlot := sat }
      exch := some ⟨0, s.stepNumber, 0, false, true, causes == 0, [], norms⟩ }
    .next s1.exchRun
  else .next s

/-- The clip groups' totals are all finite (R323). -/
def Exchange.normsFinite (x : Exchange) (n : Nat) : Bool :=
  (List.range n).all (fun g => f32Finite (Sparse.get (fun _ => (0 : W32)) x.norms g).toNat)

/-- VOTE_FINAL (R323): the exchange has landed; the final vote, its causes, and of a true vote the clip factors and bias corrections of the step
(R327, R330). -/
def execVoteFinal (s : State) : Host.Outcome State Fault Refusal :=
  match s.exch with
  | none => .next s
  | some x =>
    if x.kind ≠ 0 ∨ x.axis < 4 then .next s
    else
      let fin := x.normsFinite s.groupCount
      let vote := x.bit && fin
      let causes := s.training.causes ||| (b2n (!x.others) * 16 ||| b2n (!fin) * 32)
      let r := Reg.netVoteStatus
      let s1 := (s.setFld r 1 0 (1 + 2 * b2n vote)).count (Reg.netExchCount 0) 1
      let s2 := if vote then s1 else s1.setFld r 13 8 causes
      let s3 := { s2 with exch := none, training := { s2.training with totals := x.norms } }
      .next (if vote then s3.formFactors else s3)

/-! ### Decisions (R358) -/

/-- The final sum of a domain: its decision (R358). -/
def State.decide_ (s : State) (r : DomainRec) (sum : Nat) : State :=
  let yes := decide (r.continueMin ≤ sum)
  (s.setReg (Reg.netDecStatus r.domain) (sum * 2 ^ 32 + b2n yes * 8 + 4)).count (Reg.netDecCount (if yes then 0 else 1)) 1

/-- DECISION_FORMATION (R358) of domain d. -/
def execDecisionFormation (d : Fin 64) (s : State) : Host.Outcome State Fault Refusal :=
  match s.domains.find? (fun r => r.domain == d.val) with
  | none => .next s
  | some r =>
    let k := Reg.netDecStatus d.val
    if s.running && (!s.job.err && (s.stepMove == r.formMove && (bits (s.reg k) 2 1 == 0 && decide (s.offset ≤ r.formOff)))) then
      let sum := Sparse.get (fun _ => 0) s.domSums d.val
      let s1 := s.setFld Reg.netMoveOffset 23 0 r.formOff
      if r.scope = 0 then .next (s1.decide_ r sum)
      else
        .next ({ s1.setReg k (sum * 2 ^ 32 + bit (s1.reg k) 3 * 8 + 2) with
          exch := some ⟨d.val + 1, s.stepNumber, 0, false, true, true, Sparse.set (fun _ => 0) [] d.val sum, []⟩ }).exchRun
    else .next s

/-- DECISION_FINAL (R358): the survivor sum over the job has landed. -/
def execDecisionFinal (s : State) : Host.Outcome State Fault Refusal :=
  match s.exch with
  | none => .next s
  | some x =>
    if x.kind = 0 ∨ x.axis < 4 then .next s
    else
      let s1 := { s with exch := none }.count (Reg.netExchCount 0) 1
      match s.domains.find? (fun r => r.domain + 1 == x.kind) with
      | none => .next s1
      | some r => .next (s1.decide_ r (Sparse.get (fun _ => 0) x.sums r.domain))

/-! ### The scale tick (R124) -/

/-- Largest finite value of a slot's FORMAT as a number. -/
def slotMax (fmt : Nat) : Num :=
  match fmt with
  | 5 => .fin false 127 0
  | 6 => .fin false 7 0
  | f => match fmtOf f with
    | some x => x.decode x.maxBits
    | none => .fin false 0 0

/-- The least n ≥ 1 with AMAX ≤ fmax × 2^n, n at most `fuel`. -/
def scaleInc (amax fmax : Num) : Nat → Nat → Nat
  | 0, n => n
  | fuel + 1, n => if Num.lt (Num.mul fmax (Num.pow2 n)) amax then scaleInc amax fmax fuel (n + 1) else n

/-- The new exponent of a slot index (R124). -/
def scaleRule (e : Int) (sat under lim : Nat) (amax fmax : Num) : Int :=
  if 0 < sat then min (e + (scaleInc amax fmax 280 1 : Nat)) 127
  else if 2 ^ lim < under ∧ !Num.lt fmax (Num.mul (.fin false 2 0) amax) then max (e - 1) (-126)
  else e

/-- The adaptation of slot index i over the device (R124). DESIGN CHOICE, log entry 118: host writes can give the slots of one index different
classes; then e is that of the lowest tile whose slot is in use and of the training class, and only such slots are written. -/
def State.scaleSlot (s : State) (i : Nat) : State :=
  let ps := s.physTiles.filter (fun p => slotTraining (s.reg (Reg.tlQntSlotCtl p i)))
  match ps with
  | [] => s
  | p0 :: _ =>
    let c := s.reg (Reg.tlQntSlotCtl p0 i)
    let sat := (ps.map (fun p => s.reg (Reg.tlQntSlotSat p i))).foldl (· + ·) 0
    let under := (ps.map (fun p => s.reg (Reg.tlQntSlotUnder p i))).foldl (· + ·) 0
    let amax := (ps.map (fun p => (Sparse.get (fun _ => (0 : W32)) (s.tile p).amax i).toNat)).foldl max 0
    let e := scaleRule (signed 8 (bits c 31 24)) sat under (bits c 19 16) (f32 amax) (slotMax (bits c 23 20))
    ps.foldl (fun s p =>
      let old := s.fld (Reg.tlQntSlotCtl p i) 31 24
      ((((s.setReg (Reg.tlQntSlotAmax p i) (old * 2 ^ 24)).setFld (Reg.tlQntSlotCtl p i) 31 24 (unsigned 8 e)).setReg
        (Reg.tlQntSlotSat p i) 0).setReg (Reg.tlQntSlotUnder p i) 0).modTile p
          (fun t => { t with amax := Sparse.set (fun _ => 0) t.amax i 0 })) s

/-- The adaptation of every slot index. -/
def State.scaleAll (s : State) : State := (List.range 16).foldl State.scaleSlot s

/-! ### The loss scale (R325, R326) -/

/-- A change of the exponent e. -/
def State.setLossExp (s : State) (e : Int) : State := s.setFld Reg.netLossCtl 7 0 (unsigned 8 e)

/-- The loss-scale rule with the records of a skipped step. It needs the final vote. The slot index of record 0x0212 takes two bytes (DESIGN
CHOICE, log entry 119). -/
def State.lossRule (s : State) : State :=
  let e := s.lossExp
  let r := Reg.netVoteStatus
  if isBit (s.reg r) 1 then
    let s1 := (s.count (Reg.netTrnCount 0) 1).setReg Reg.netTrnUpdates ((s.reg Reg.netTrnUpdates + 1) % 2 ^ 64)
    let clean := s1.fld Reg.netLossClean 15 0 + 1
    if clean < s1.fld Reg.netLossCtl 31 16 then s1.setFld Reg.netLossClean 15 0 clean
    else
      let s2 := s1.setFld Reg.netLossClean 15 0 0
      if e < 63 then (s2.setLossExp (e + 1)).count (Reg.netTrnCount 3) 1
      else (s2.count (Reg.netTrnCount 5) 1).event 0x08E5 sevNOTICE srcDevice 0 []
  else
    let s1 := (s.count (Reg.netTrnCount 1) 1).event 0x08E4 sevNOTICE srcDevice 0 [it8 s.stepNumber, itN 1 (s.fld r 13 8)]
    let s2 := match s.training.satSlot with
      | some i => s1.event 0x0212 sevNOTICE srcDevice 0 [it2 i]
      | none => s1
    let s3 := s2.setFld Reg.netLossClean 15 0 0
    if -32 < e then (s3.setLossExp (e - 1)).count (Reg.netTrnCount 2) 1
    else (s3.count (Reg.netTrnCount 4) 1).event 0x08E5 sevNOTICE srcDevice 0 []

end Sys2Proof.Machine
end

