-- ==== Sys2Proof/Machine/Collective.lean ====
section
/-! DEFINITION. Reduction, gathering and re-sharding (R408 to R432): the staging copy, the stages, the messages that land blocks,
barriers and the phases of a re-shard. -/

namespace Sys2Proof.Machine

/-! ### Records (R419) -/

/-- A record of the COLLECTIVES section. -/
structure CollRec where
  coll : Nat
  kind : Nat
  axis : Nat
  minus : Bool
  wire : Nat
  localFmt : Nat
  initExp : Nat
  inference : Bool
  policy : Nat
  conn : Nat
  pair : Nat
  stageMoves : Nat
  due : Nat
  tensor : Nat
  blocks : Nat
  startMove : Nat
  copyMove : Nat
  send : Nat
  recv : Nat
  local_ : Nat
  source : Nat
  owned : Nat
  ownedBytes : Nat
  deriving DecidableEq, Repr

def collRecOf (r : List Byte) : CollRec where
  coll := leAt r 0 1
  kind := leAt r 1 1
  axis := leAt r 2 1
  minus := leAt r 3 1 == 1
  wire := leAt r 4 1
  localFmt := leAt r 5 1
  initExp := leAt r 6 1
  inference := isBit (leAt r 7 1) 0
  policy := bits (leAt r 7 1) 2 1
  conn := leAt r 8 2
  pair := leAt r 10 1
  stageMoves := leAt r 11 1
  due := leAt r 12 1
  tensor := leAt r 16 4
  blocks := leAt r 20 4
  startMove := leAt r 24 4
  copyMove := leAt r 28 4
  send := leAt r 32 8
  recv := leAt r 40 8
  local_ := leAt r 48 8
  source := leAt r 56 8
  owned := leAt r 64 8
  ownedBytes := leAt r 72 8

/-- The COLLECTIVES section. -/
def State.collSec (s : State) : List Byte := s.devSection 0x60
def State.collRecs (s : State) : List CollRec :=
  (List.range (leAt s.collSec 6 2)).map (fun i => collRecOf ((s.collSec.drop (32 + 96 * i)).take 96))
def State.collRec (s : State) (c : Nat) : Option CollRec := s.collRecs.find? (fun r => r.coll == c)

def State.coll (s : State) (c : Nat) : CollState := Sparse.get (fun _ => CollState.reset) s.colls c
def State.setColl (s : State) (c : Nat) (x : CollState) : State :=
  { s with colls := Sparse.set (fun _ => CollState.reset) s.colls c x }

/-- The present layout epoch (R434). -/
def State.layoutEpoch (s : State) : Nat := s.fld Reg.netLayout 7 0

/-! ### Positions and owners (R417, R418) -/

/-- Owner address and owned position of block b; none where no valid entry of the present epoch covers it. -/
def State.blockOwner (s : State) (r : CollRec) (b : Nat) : Option (Nat × Nat) :=
  match s.dtensor r.tensor with
  | none => none
  | some (first, entries, block) =>
    let u := 2 ^ (3 + block)
    if entries ≤ b / u then none
    else
      let e := s.ownerEntry 0 (first + b / u)
      if !isBit e 63 || bits e 62 55 != s.layoutEpoch || bits e 54 51 != block then none
      else some (bits e 50 31, (bits e 23 0 * 65536 - r.owned) / r.ownedBytes * u + b % u)

/-- Coordinate x + d × k on the record's axis, mod L; the direction gives the sign of d. -/
def State.ringCoord (s : State) (r : CollRec) (k : Int) : Nat :=
  let l : Int := s.axisLen r.axis
  (((coord s.ownAddr r.axis : Nat) : Int) + (if r.minus then -k else k)).emod l |>.toNat

/-- The blocks whose owner has coordinate c on the axis: position and block, in ascending position. -/
def State.blocksOf (s : State) (r : CollRec) (c : Nat) : List (Nat × Nat) :=
  let all := (List.range (r.blocks * s.axisLen r.axis)).filterMap (fun b =>
    match s.blockOwner r b with
    | some (o, p) => if coord o r.axis = c then some (p, b) else none
    | none => none)
  (List.range r.blocks).filterMap (fun p => all.find? (fun e => e.1 == p))

/-- The lookups of the blocks, as the owner caches see them (R275, R276). -/
def State.lookups (s : State) (mem : MemEnv) (r : CollRec) (bs : List (Nat × Nat)) : State :=
  bs.foldl (fun s e => (s.ownerLookup mem 0 r.tensor (8192 * e.2) s.layoutEpoch).1) s

/-- A write into [a, a + n) that was issued before move m is not acknowledged yet. -/
def State.writesOpen (s : State) (a n m : Nat) : Bool :=
  s.tiles.any (fun e => e.2.dma.any (fun x =>
    x.out && (!x.acked && (decide (x.issue < m) && x.moving.any (fun d => d.dstDev && meets d.dst d.dExt a n)))))
  || s.petals.any (fun q => !q.host && (decide (q.issue < m) && (let c := petalOf q.cmd
      c.op != 1 && c.ranges.any (fun r => meets r.1 r.2 a n))))

/-! ### The staging copy (R420) -/

/-- Bytes of a LOCAL slot. -/
def CollRec.localBytes (r : CollRec) : Nat := 64 + 2048 * fmtW r.localFmt

/-- REDUCE_STAGING_COPY (R420) of collective c. -/
def execReduceStagingCopy (c : Nat) (mem : MemEnv) (s : State) : Host.Outcome State Fault Refusal :=
  match s.collRec c with
  | none => .next s
  | some r =>
    let l := s.axisLen r.axis
    let bytes := 2048 * fmtW r.localFmt
    let start := s.move - s.stepMove + r.copyMove
    if s.xfersRun && (s.running && (r.kind == 0 && (!(s.coll c).copied && (decide (r.copyMove ≤ s.stepMove) && (decide (s.stepMove < r.startMove)
        && !s.writesOpen r.source (r.blocks * l * bytes) start))))) then
      let dest := match s.collRec r.pair with
        | some q => q.recv
        | none => 0
      let js := List.range l
      let blocks := js.map (fun (j : Nat) => (j, s.blocksOf r (s.ringCoord r (-((j : Int) + 1)))))
      let runs := blocks.flatMap (fun q => q.2.flatMap (fun e => [⟨dest + 2176 * e.2 + 64, 64⟩, ⟨r.source + e.2 * bytes, bytes⟩]))
      let outs := blocks.flatMap (fun q => q.2.map (fun e => (⟨r.local_ + (q.1 * r.blocks + e.1) * r.localBytes, r.localBytes⟩ : AddrRun)))
      let s1 := blocks.foldl (fun s q => s.lookups mem r q.2) (s.hbmAccess mem runs outs)
      let v := s.delivered mem
      let s2 := blocks.foldl (fun s q => q.2.foldl (fun s e =>
        s.devPut mem (r.local_ + (q.1 * r.blocks + e.1) * r.localBytes)
          (v.devRead (dest + 2176 * e.2 + 64) 64 ++ v.devRead (r.source + e.2 * bytes) bytes)) s) s1
      let n := (blocks.map (fun q => q.2.length)).foldl (· + ·) 0
      .next ((s2.count (collKey c 3) n).setColl c { s2.coll c with copied := true })
    else .next s

/-! ### The stages (R421) -/

/-- The first move, counted from the start of the job, of stage k in the present step. -/
def State.stageMove (s : State) (r : CollRec) (k : Nat) : Nat := s.move - s.stepMove + r.startMove + k * r.stageMoves

/-- COLLECTIVE_STAGE (R418, R421): the next stage of collective c in the present step. -/
def execCollectiveStage (c : Nat) (mem : MemEnv) (s : State) : Host.Outcome State Fault Refusal :=
  match s.collRec c with
  | none => .next s
  | some r =>
    match s.connRec r.conn with
    | none => .next s
    | some q =>
      let x := s.coll c
      let k := x.stages
      let size := if r.kind = 0 then 2112 else 2176
      let bs := s.blocksOf r (s.ringCoord r (if r.kind = 0 then -((k : Int) + 1) else -(k : Int)))
      let src := fun (e : Nat × Nat) =>
        if r.kind = 0 then r.send + (k * r.blocks + e.1) * 2112
        else if k = 0 then r.send + 2176 * e.1 else r.recv + 2176 * e.2
      if s.xfersRun && (s.running && (decide (k + 1 < s.axisLen r.axis) && (decide (s.stageMove r k ≤ s.move)
          && !bs.any (fun e => s.writesOpen (src e) size (s.stageMove r k))))) then
        let outs := if r.kind = 0 ∨ 0 < k then [] else bs.map (fun e => (⟨r.recv + 2176 * e.2, size⟩ : AddrRun))
        let s1 := (s.hbmAccess mem (bs.map (fun e => ⟨src e, size⟩)) outs).lookups mem r bs
        let v := s.delivered mem
        let s2 := bs.foldl (fun s e =>
          let pl := v.devRead (src e) size
          if r.kind = 0 then
            s.post q 4 (r.recv + (k * r.blocks + e.1) * 2112)
              (s.layoutEpoch + (r.wire + 16 * bit (leAt pl 40 1) 0) * 2 ^ 8 + e.2 * 2 ^ 16) pl
          else
            (if k = 0 then s.devPut mem (r.recv + 2176 * e.2) pl else s).post q 1 (r.recv + 2176 * e.2) c pl) s1
        let s3 := (s2.count (collKey c 0) bs.length).count (collKey c 2) (if r.kind = 1 ∧ 0 < k then bs.length else 0)
        .next (s3.setColl c { s3.coll c with stages := k + 1 })
      else .next s

/-! ### Landing (R422) -/

/-- A block has landed in stage k. -/
def State.blockLanded (s : State) (c k : Nat) : State :=
  let x := s.coll c
  (s.count (collKey c 1) 1).setColl c
    { x with landed := Sparse.set (fun _ => 0) x.landed k (Sparse.get (fun _ => 0) x.landed k + 1) }

/-- The REDUCE_SCATTER whose RECV area holds an address, with the stage and position of the slot that starts there. -/
def State.recvSlot (s : State) (a : Nat) : Option (CollRec × Nat × Nat × Bool) :=
  match s.collRecs.find? (fun r => r.kind == 0 && (decide (r.recv ≤ a)
      && decide (a < r.recv + (s.axisLen r.axis - 1) * r.blocks * 2112))) with
  | none => none
  | some r =>
    let i := (a - r.recv) / 2112
    some (r, i / r.blocks, i % r.blocks, (a - r.recv) % 2112 == 0)

/-- The slot (k, p) of a REDUCE_SCATTER carries block b in the present layout. -/
def State.slotCarries (s : State) (r : CollRec) (k p b : Nat) : Bool :=
  match s.blockOwner r b with
  | none => false
  | some (o, q) => coord o r.axis == s.ringCoord r (-((k : Int) + 2)) && q == p

/-- MSG_REDUCE (R422); at its owner's last stage the finite bit counts for the vote (R322). A header with a reserved format code is rejected
before any data moves (R44): the message is dropped under check 8, and no count or record takes code 0x0201 (log entry 128). -/
def execMsgReduce (k : Nat) (s : State) : Host.Outcome State Fault Refusal :=
  .next (s.receive k 4 State.jobRange (fun s b =>
    let a := mAddr b
    let blk := leAt b 30 2
    if 8 ≤ leAt b 29 1 % 16 then s
    else match s.recvSlot a with
    | none => s.count (collKey 0 (if leAt b 28 1 = s.layoutEpoch then 5 else 4)) 1
    | some (r, st, p, starts) =>
      if leAt b 28 1 ≠ s.layoutEpoch then s.count (collKey r.coll 4) 1
      else if !starts || !s.slotCarries r st p blk then s.count (collKey r.coll 5) 1
      else
        let s1 := (s.devWrite a (mPayload b)).blockLanded r.coll st
        if st + 2 = s.axisLen r.axis && (!r.inference && (!isBit (leAt b 29 1) 4 && !s1.training.formed)) then
          { s1 with training := { s1.training with causes := s1.training.causes ||| 4 } }
        else s1))

/-! ### Barriers (R428) -/

/-- Whether the first BARRIER of a source that waits is that of the round. -/
def State.barrierOf (s : State) (src id round : Nat) : Bool :=
  match s.barriers.find? (fun v => v.1 == src) with
  | none => false
  | some v => v.2.1 == id && v.2.2 == round

/-- Runs the stages of barrier round r as far as it can; the axis is 4 once the round is complete. -/
def State.barrierAdvance (r : Nat) : Nat → State → State
  | 0, s => s
  | fuel + 1, s =>
    match s.reshard with
    | none => s
    | some x =>
      if 4 ≤ x.axis then s
      else if s.axisLen x.axis ≤ 1 then State.barrierAdvance r fuel { s with reshard := some { x with axis := x.axis + 1 } }
      else
        let peers := s.ringPeers x.axis
        let round := 4 * r + x.axis
        if !x.sent then
          State.barrierAdvance r fuel (peers.foldl (fun s c => s.postTo c 0 8 0 0 (leBytes 4 x.barrier ++ leBytes 4 round ++ leBytes 8 0))
            { s with reshard := some { x with sent := true } })
        else if peers.all (fun c => s.barrierOf c x.barrier round) then
          State.barrierAdvance r fuel
            { s with barriers := dropFirst peers s.barriers, reshard := some { x with axis := x.axis + 1, sent := false } }
        else s

/-! ### The phases of a re-shard (R431) -/

/-- The REDUCE_SCATTER of a tensor. -/
def State.tensorRec (s : State) (t : Nat) : Option CollRec := s.collRecs.find? (fun r => r.kind == 0 && r.tensor == t)

def State.stageArea (s : State) : Nat := leAt s.collSec 8 8
def State.stageBytes (s : State) : Nat := leAt s.collSec 16 8
def State.planArea (s : State) : Nat := leAt s.collSec 24 8

/-- Owner and base of an owner-table entry. -/
def entOwner (e : Nat) : Nat := bits e 50 31
def entBase (e : Nat) : Nat := bits e 23 0

/-- The plan changes the owner or the base of entry i. -/
def State.entMoves (s : State) (i new : Nat) : Bool :=
  let e := s.ownerEntry 0 i
  entOwner e != entOwner new || entBase e != entBase new

/-- The position that an entry names. -/
def entPos (r : CollRec) (e : Nat) : Nat := (entBase e * 65536 - r.owned) / r.ownedBytes

/-- The units that the plan assigns to this device: record and new position. -/
def State.unitsIn (s : State) (x : Reshard) : List (CollRec × Nat) :=
  x.entries.filterMap (fun q =>
    if entOwner q.2.2 = s.ownAddr && s.entMoves q.2.1 q.2.2 then
      (s.tensorRec q.1).map (fun r => (r, entPos r q.2.2)) else none)

/-- Phase 3: this device sends the units it owns (R431). -/
def State.sendUnits (s : State) (x : Reshard) : State :=
  x.entries.foldl (fun s q =>
    match s.tensorRec q.1 with
    | none => s
    | some r =>
      let e := s.ownerEntry 0 q.2.1
      if entOwner e = s.ownAddr && s.entMoves q.2.1 q.2.2 then
        let dst := s.stageArea + entPos r q.2.2 * r.ownedBytes
        (List.range (r.ownedBytes / 4096)).foldl (fun s i =>
          let pl := s.devRead (entBase e * 65536 + 4096 * i) 4096
          if entOwner q.2.2 = s.ownAddr then
            { s.devWrite (dst + 4096 * i) pl with reshard := s.reshard.map (fun y => { y with landed := (dst + 4096 * i) :: y.landed }) }
          else s.postTo (entOwner q.2.2) 2 1 (dst + 4096 * i) 0xFFF pl) s
      else s) s

/-- Every unit that the plan assigns to this device has landed. -/
def State.unitsLanded (s : State) (x : Reshard) : Bool :=
  (s.unitsIn x).all (fun u => (List.range (u.1.ownedBytes / 4096)).all (fun i =>
    x.landed.contains (s.stageArea + u.2 * u.1.ownedBytes + 4096 * i)))

/-- Phase 5: staged units go to their places, the owner-table writes are presented, the epoch changes (R431). -/
def State.installUnits (s : State) (x : Reshard) : State :=
  let s1 := (s.unitsIn x).foldl (fun s u =>
    s.devWrite (u.1.owned + u.2 * u.1.ownedBytes) (s.devRead (s.stageArea + u.2 * u.1.ownedBytes) u.1.ownedBytes)) s
  let old := (s1.collRecs.map (fun r => r.tensor)).eraseDups.flatMap (fun t =>
    match s1.dtensor t with
    | none => []
    | some (first, n, _) => (List.range n).filterMap (fun j =>
        let e := s1.ownerEntry 0 (first + j)
        if isBit e 63 && !x.entries.any (fun q => q.2.1 == first + j) then some (first + j, W64.of (setBits e 62 55 x.epoch)) else none))
  let new := x.entries.map (fun q => (q.2.1, W64.of (setBits q.2.2 62 55 x.epoch)))
  { s1.setFld Reg.netLayout 7 0 x.epoch with stagedNew := s1.stagedNew ++ (new ++ old) }

/-- Enters a phase, with a fresh barrier stage. -/
def State.reshardPhase (s : State) (n : Nat) : State :=
  { s.setFld Reg.netLayout 19 17 n with reshard := s.reshard.map (fun x => { x with phase := n, axis := 0, sent := false }) }

/-- The phases from the completion of barrier round 0 on, as far as they can run. -/
def State.reshardAdvance : Nat → State → State
  | 0, s => s
  | fuel + 1, s =>
    match s.reshard with
    | none => s
    | some x =>
      let done := fun (q : State) => match q.reshard with
        | some y => decide (4 ≤ y.axis)
        | none => false
      if x.phase = 2 then
        let s1 := s.barrierAdvance 0 9
        if done s1 then
          State.reshardAdvance fuel (((s1.count (Reg.netExchCount 1) 1).reshardPhase 3).sendUnits x)
        else s1
      else if x.phase = 3 then (if s.unitsLanded x then State.reshardAdvance fuel (s.reshardPhase 4) else s)
      else if x.phase = 4 then
        let s1 := s.barrierAdvance 1 9
        if done s1 then
          State.reshardAdvance fuel (((((s1.count (Reg.netExchCount 1) 1).reshardPhase 5)).installUnits x).reshardPhase 6)
        else s1
      else if x.phase = 6 then
        let s1 := s.barrierAdvance 2 9
        if done s1 then
          let s2 := { (s1.count (Reg.netExchCount 1) 1).setFld Reg.netLayout 19 16 0 with reshard := none }
          if (s2.jobCmd 9).isSome then s2.endJob 0 0 0 else s2
        else s1
      else s

/-- The re-shard goes on as far as it can; an error under R40 abandons it. -/
def State.reshardRun (s : State) : State := if s.job.err || s.job.mustRestore then s else s.reshardAdvance 6

/-- MSG_BARRIER (R428): processed in the order of arrival from each peer. -/
def execMsgBarrier (k : Nat) (s : State) : Host.Outcome State Fault Refusal :=
  .next (s.receive k 8 (fun _ _ => true) (fun s b =>
    { s with barriers := s.barriers ++ [(mSrc b, leAt (mPayload b) 0 4, leAt (mPayload b) 4 4)] }.reshardRun))

/-! ### WRITE (R394, R422, R431) -/

/-- A piece of a unit lands in the staging area in phase 3. -/
def State.unitPiece (s : State) (b : List Byte) : State :=
  let a := mAddr b
  match s.reshard with
  | some x =>
    if x.phase = 3 ∧ s.stageArea ≤ a ∧ a + mLen b ≤ s.stageArea + s.stageBytes then
      { s.devWrite a (mPayload b) with reshard := some { x with landed := a :: x.landed } }.reshardRun
    else s.count (collKey 0 5) 1
  | none => s.count (collKey 0 5) 1

/-- A gather block lands at the start of its DEST block. -/
def State.gatherBlock (s : State) (b : List Byte) : State :=
  let a := mAddr b
  let c := leAt b 28 2
  match s.collRec c with
  | none => s.count (collKey (c % 256) 5) 1
  | some r =>
    let blk := (a - r.recv) / 2176
    if r.kind = 1 ∧ r.recv ≤ a ∧ (a - r.recv) % 2176 = 0 ∧ blk < r.blocks * s.axisLen r.axis then
      match s.blockOwner r blk with
      | none => s.count (collKey c 5) 1
      | some (o, _) =>
        let l := s.axisLen r.axis
        let x := coord s.ownAddr r.axis
        let y := coord o r.axis
        let dist := if r.minus then (y + l - x) % l else (x + l - y) % l
        if dist = 0 then s.count (collKey c 5) 1 else (s.devWrite a (mPayload b)).blockLanded c (dist - 1)
    else s.count (collKey c 5) 1

/-- MSG_WRITE (R394): landing tag 0xFFF marks a piece of a re-shard, any other the collective of a gather block (R422). -/
def execMsgWrite (k : Nat) (s : State) : Host.Outcome State Fault Refusal :=
  .next (s.receive k 1 State.jobRange (fun s b => if leAt b 28 2 = 0xFFF then s.unitPiece b else s.gatherBlock b))

/-! ### What holds a tick, and what a tick does -/

/-- Every landing of a collective that is due at the tick that ends step-relative move m (R420, R421). -/
def State.collsLanded (s : State) (m : Nat) : Bool :=
  s.collRecs.all (fun r =>
    let x := s.coll r.coll
    (r.kind == 1 || (m + 1 != r.startMove || x.copied))
    && (List.range (s.axisLen r.axis - 1)).all (fun k =>
      m + 1 != r.startMove + k * r.stageMoves + r.due
        || (decide (r.blocks ≤ Sparse.get (fun _ => 0) x.landed k) && (r.kind == 0 || (k != 0 || decide (0 < x.stages))))))

/-- At the tick, the blocks of the stages that were due are accounted for; at the end of a step the stages start afresh. -/
def State.collsTick (s : State) (m : Nat) : State :=
  s.collRecs.foldl (fun s r =>
    let x := s.coll r.coll
    let due := (List.range (s.axisLen r.axis - 1)).filter (fun k => m + 1 == r.startMove + k * r.stageMoves + r.due)
    let y := due.foldl (fun (x : CollState) k =>
      { x with landed := Sparse.set (fun _ => 0) x.landed k (Sparse.get (fun _ => 0) x.landed k - r.blocks) }) x
    s.setColl r.coll (if m + 1 = s.stepMoves then { y with copied := false, stages := 0 } else y)) s

end Sys2Proof.Machine
end

