-- ==== Sys2Proof/Machine/Experts.lean ====
section
/-! DEFINITION. Expert layers (R343 to R354): the placement of choices, dispatch, return and combine, and the messages between
sources and owners. -/

namespace Sys2Proof.Machine

/-! ### Records (R343, R344) -/

structure LayerRec where
  layer : Nat
  k : Nat
  e : Nat
  quota : Nat
  sources : Nat
  index : Nat
  outFmt : Nat
  ovf : Bool
  ansFmt : Nat
  rowBytes : Nat
  dim : Nat
  tokens : Nat
  dispatchMove : Nat
  returnMove : Nat
  queueDue : Nat
  answerDue : Nat
  mapFirst : Nat
  choices : Nat
  tokensAddr : Nat
  residual : Nat
  answers : Nat
  output : Nat
  deriving DecidableEq, Repr

def layerRecOf (r : List Byte) : LayerRec where
  layer := leAt r 0 1
  k := leAt r 1 1
  e := leAt r 2 2
  quota := leAt r 4 2
  sources := leAt r 6 2
  index := leAt r 8 2
  outFmt := leAt r 10 1 % 16
  ovf := isBit (leAt r 10 1) 4
  ansFmt := leAt r 11 1 % 16
  rowBytes := leAt r 12 2
  dim := leAt r 14 2
  tokens := leAt r 16 4
  dispatchMove := leAt r 20 4
  returnMove := leAt r 24 4
  queueDue := leAt r 28 1
  answerDue := leAt r 29 1
  mapFirst := leAt r 30 2
  choices := leAt r 32 8
  tokensAddr := leAt r 40 8
  residual := leAt r 48 8
  answers := leAt r 56 8
  output := leAt r 64 8

def State.expertSec (s : State) : List Byte := s.devSection 0x41
def State.layerRecs (s : State) : List LayerRec :=
  (List.range (leAt s.expertSec 0 2)).map (fun i => layerRecOf ((s.expertSec.drop (8 + 96 * i)).take 96))
def State.layerRec (s : State) (l : Nat) : Option LayerRec := s.layerRecs.find? (fun r => r.layer == l)

def State.layer (s : State) (l : Nat) : LayerState := Sparse.get (fun _ => LayerState.reset) s.layers l
def State.setLayer (s : State) (l : Nat) (x : LayerState) : State :=
  { s with layers := Sparse.set (fun _ => LayerState.reset) s.layers l x }

/-- Owner, QUEUE and ANSWER of expert e (R344). -/
def State.expertMap (s : State) (r : LayerRec) (e : Nat) : Nat × Nat × Nat :=
  let m := (s.expertSec.drop (8 + 96 * leAt s.expertSec 0 2 + 32 * (r.mapFirst + e))).take 32
  (leAt m 0 4 % 2 ^ 20, leAt m 8 8, leAt m 16 8)

def State.ownsExpert (s : State) (r : LayerRec) (e : Nat) : Bool := (s.expertMap r e).1 == s.ownAddr

/-- Bytes of a row of DIM elements in a format, of a queue region and of an answer region. -/
def LayerRec.outBytes (r : LayerRec) : Nat := alignUp (r.dim * fmtW r.outFmt) 64
def LayerRec.ansBytes (r : LayerRec) : Nat := alignUp (r.dim * fmtW r.ansFmt) 64
def LayerRec.qreg (r : LayerRec) : Nat := 64 + r.quota * r.rowBytes
def LayerRec.areg (r : LayerRec) : Nat := 64 + r.quota * r.ansBytes

/-- The present generation (R349). -/
def State.expGen (s : State) : Nat := s.fld Reg.netExpRun 3 0 * 16 + s.stepNumber % 16

/-- A queue or answer header (R349). -/
def queueHeader (count gen layer source expert : Nat) : List Byte :=
  leBytes 2 count ++ (leBytes 1 gen ++ (leBytes 1 layer ++ (leBytes 2 source ++ (leBytes 2 expert ++ List.replicate 56 0))))

/-- Key of an expert and a source. -/
def esKey (e j : Nat) : Nat := e * 4096 + j

/-! ### Landings (R350, R352) -/

/-- The header taken for a region. -/
def Landings.head (x : Landings) (k : Nat) : RegionHead := Sparse.get (fun _ => RegionHead.none) x.heads k

/-- Bytes of a region's rows that have landed. -/
def Landings.bytes (x : Landings) (k : Nat) : Nat := Sparse.get (fun _ => 0) x.landed k

def Landings.takeHead (x : Landings) (k : Nat) (h : RegionHead) : Landings :=
  { x with heads := Sparse.set (fun _ => RegionHead.none) x.heads k h }

def Landings.addLanded (x : Landings) (k n : Nat) : Landings :=
  { x with landed := Sparse.set (fun _ => 0) x.landed k (x.bytes k + n) }

/-- The rows of a region have landed: its header, and the rows it counts (R350, R352). -/
def Landings.full (x : Landings) (k rowBytes : Nat) : Bool :=
  (x.head k).known && decide ((x.head k).count * rowBytes ≤ x.bytes k)

/-- A header at `base` with COUNT `raw` brings a message at address `a`, in pieces of 4,096 bytes. -/
def covers (base raw rowBytes a : Nat) : Bool :=
  decide (base < a) && (decide (a < base + 64 + raw * rowBytes) && (a - base) % 4096 == 0)

/-- A region of one side of a layer: its key and its first byte. -/
structure Region where
  key : Nat
  base : Nat
  deriving DecidableEq, Repr

/-- What becomes of a piece, as far as the headers taken say. -/
inductive PieceFate where
  | waits | discarded | past | rows
  deriving DecidableEq, Repr

/-- A piece at an address in region `r`: rows of a dropped header and of another sender are discarded, and so is what an over-long header of
a lower region of the same sender brings past its own region; until the headers of the lower regions are there, it waits. -/
def Landings.fate (x : Landings) (rowBytes : Nat) (r : Region) (lower : List Region) (p : RowPiece) : PieceFate :=
  let h := x.head r.key
  if x.dropped.any (fun d => d.1 == p.src && covers d.2.1 d.2.2 rowBytes p.addr) then .discarded
  else if !h.known then .waits
  else if h.src ≠ p.src then .discarded
  else if lower.any (fun q => !(x.head q.key).known) then .waits
  else if !x.beyond.contains p.addr && lower.any (fun q => (x.head q.key).src == p.src && covers q.base (x.head q.key).raw rowBytes p.addr) then .past
  else .rows

/-! ### Dispatch (R346 to R348) -/

/-- The placement of choices: accepted slots (expert, slot, token, choice), dropped experts in order, invalid choices, and the
tokens that had a valid choice. -/
structure Placing where
  slots : List (Nat × Nat × Nat × Nat)
  drops : List Nat
  invalid : Nat
  valid : List Nat
  deriving DecidableEq, Repr

/-- One choice of one token (R347). -/
def Placing.step (r : LayerRec) (rec_ : List Byte) (t c : Nat) (x : Placing) : Placing :=
  let e := leAt rec_ (if c = 1 then 4 else 6) 2
  if e = 0xFFFF then x
  else if r.e ≤ e || (c == 2 && e == leAt rec_ 4 2) || leAt rec_ 0 4 != t then { x with invalid := x.invalid + 1 }
  else
    let q := (x.slots.filter (fun y => y.1 == e)).length
    if q < r.quota then { x with slots := x.slots ++ [(e, q, t, c)], valid := t :: x.valid }
    else { x with drops := x.drops ++ [e], valid := t :: x.valid }

/-- Both passes over the choices (R347). -/
def placeAll (r : LayerRec) (recs : List (List Byte)) : Placing :=
  ((List.range (min r.k 2)).map (fun i => i + 1)).foldl (fun x c =>
    (List.range r.tokens).foldl (fun x t => x.step r (recs.getD t []) t c) x) ⟨[], [], 0, []⟩

/-- Tokens with a valid choice and none accepted. -/
def Placing.skipped (r : LayerRec) (x : Placing) : Nat :=
  ((List.range r.tokens).filter (fun t => x.valid.contains t && !x.slots.any (fun y => y.2.2.1 == t))).length

/-- Sends a region to a device in messages of at most 4,096 bytes: 5 DISPATCH, 6 ANSWER (R394). -/
def State.sendRegion (s : State) (dst typ addr gen layer : Nat) (bs : List Byte) : State :=
  (List.range ((bs.length + 4095) / 4096)).foldl (fun s i =>
    s.postTo dst 2 typ (addr + 4096 * i) (gen + layer * 256) ((bs.drop (4096 * i)).take 4096)) s

/-- The queue regions of one expert are filled: locally where this device owns it, over the fabric otherwise (R348). -/
def State.dispatchExpert (s v : State) (mem : MemEnv) (r : LayerRec) (slots : List (Nat × Nat × Nat × Nat)) (gen e : Nat) : State :=
  let mine := slots.filter (fun y => y.1 == e)
  let head := queueHeader mine.length gen r.layer r.index e
  let (owner, queue, _) := s.expertMap r e
  if owner = s.ownAddr then
    let idx := (List.range r.quota).flatMap (fun q =>
      leBytes 4 (match mine.find? (fun y => y.2.1 == q) with
        | some y => y.2.2.1
        | none => r.tokens))
    let a := queue + r.index * r.qreg
    let s1 := (s.hbmAccess mem [] [⟨a, 64 + 4 * r.quota⟩]).devPut mem a (head ++ idx)
    let x := s1.layer r.layer
    s1.setLayer r.layer { x with
      queues := (x.queues.takeHead (esKey e r.index) ⟨true, s.ownAddr, gen, mine.length, mine.length⟩).addLanded (esKey e r.index)
        (mine.length * r.rowBytes) }
  else
    let rows := mine.flatMap (fun y => v.devRead (r.tokensAddr + y.2.2.1 * r.rowBytes) r.rowBytes)
    s.sendRegion owner 5 (Config.peerQueue r.layer e + r.index * r.qreg) gen r.layer (head ++ rows)

/-- EXPERT_DISPATCH (R346 to R348) of a layer. -/
def execExpertDispatch (l : Nat) (mem : MemEnv) (s : State) : Host.Outcome State Fault Refusal :=
  match s.layerRec l with
  | none => .next s
  | some r =>
    let start := s.move - s.stepMove + r.dispatchMove
    if s.xfersRun && (s.running && (!(s.layer l).dispatched && (decide (r.dispatchMove ≤ s.stepMove)
        && (!s.writesOpen r.choices (16 * r.tokens) start && !s.writesOpen r.tokensAddr ((r.tokens + 1) * r.rowBytes) start)))) then
      let v := s.delivered mem
      let x := placeAll r ((List.range r.tokens).map (fun t => v.devRead (r.choices + 16 * t) 16))
      let gen := s.expGen
      let s1 := s.hbmAccess mem ([⟨r.choices, 16 * r.tokens⟩] ++ x.slots.map (fun y => ⟨r.tokensAddr + y.2.2.1 * r.rowBytes, r.rowBytes⟩))
      let s2 := (((s1.count (layerKey l 0) x.slots.length).count (layerKey l 1) x.drops.length).count (layerKey l 2) (x.skipped r)).count
        (layerKey l 7) x.invalid
      let s3 := x.drops.foldl (fun s e => s.count (layerKey l (256 + e)) 1) s2
      let s4 := s3.setLayer l { s3.layer l with gen := gen, dispatched := true, slots := x.slots }
      .next ((List.range r.e).foldl (fun s e => s.dispatchExpert v mem r x.slots gen e) s4)
    else .next s

/-- The queue region of an owned expert that holds an address: expert, source, base. -/
def State.queueRegion (s : State) (r : LayerRec) (a : Nat) : Option (Nat × Nat × Nat) :=
  match (List.range r.e).find? (fun e => s.ownsExpert r e && (let q := (s.expertMap r e).2.1
      decide (q ≤ a) && decide (a < q + r.sources * r.qreg))) with
  | none => none
  | some e =>
    let q := (s.expertMap r e).2.1
    let j := (a - q) / r.qreg
    some (e, j, q + j * r.qreg)

/-- The queue regions of the source that an address in region (e, j) belongs to, of the owned experts below it. -/
def State.lowerQueues (s : State) (r : LayerRec) (e j : Nat) : List Region :=
  ((List.range r.e).filter (fun x => s.ownsExpert r x && decide ((s.expertMap r x).2.1 < (s.expertMap r e).2.1))).map (fun x =>
    ⟨esKey x j, (s.expertMap r x).2.1 + j * r.qreg⟩)

/-- One waiting piece of a queue: its rows are written, as far as the header counts them, or it is discarded, or it waits on (R350). -/
def State.queuePiece (r : LayerRec) (s : State) (p : RowPiece) : State :=
  let x := s.layer r.layer
  let keep := fun (q : Landings) => s.setLayer r.layer { x with queues := q }
  match s.queueRegion r p.addr with
  | none => s
  | some (e, j, base) =>
    let k := esKey e j
    match x.queues.fate r.rowBytes ⟨k, base⟩ (s.lowerQueues r e j) p with
    | .waits => keep { x.queues with pieces := x.queues.pieces ++ [p] }
    | .discarded => s
    | .past => keep { x.queues with beyond := p.addr :: x.queues.beyond }
    | .rows =>
      let pl := p.bytes.take (base + 64 + (x.queues.head k).count * r.rowBytes - p.addr)
      (s.devWrite p.addr pl).setLayer r.layer { x with queues := x.queues.addLanded k pl.length }

/-- The waiting pieces of a layer's queues, in the order of their arrival, after a header or another piece has come. -/
def State.queuePieces (s : State) (r : LayerRec) : State :=
  let x := s.layer r.layer
  x.queues.pieces.foldl (State.queuePiece r) (s.setLayer r.layer { x with queues := { x.queues with pieces := [] } })

/-- A queue header and the rows behind it (R350). -/
def State.takeHeader (s : State) (r : LayerRec) (b : List Byte) (base e j : Nat) : State :=
  let pl := mPayload b
  let l := r.layer
  let x := s.layer l
  let drop := fun (i : Nat) =>
    (s.count (layerKey l i) 1).setLayer l { x with queues := { x.queues with dropped := (mSrc b, base, leAt pl 0 2) :: x.queues.dropped } }
  if leAt pl 2 1 ≠ s.expGen then drop 3
  else if leAt pl 3 1 ≠ l ∨ leAt pl 4 2 ≠ j ∨ leAt pl 6 2 ≠ e then drop 5
  else
    let c := min (leAt pl 0 2) r.quota
    let rows := pl.take (64 + c * r.rowBytes)
    let s1 := (s.count (layerKey l 5) (b2n (decide (r.quota < leAt pl 0 2)))).devWrite base rows
    let s2 := (List.range (r.quota - c)).foldl (fun s i =>
      s.devWrite (base + 64 + (c + i) * r.rowBytes) (List.replicate r.rowBytes 0)) s1
    s2.setLayer l { x with
      queues := (x.queues.takeHead (esKey e j) ⟨true, mSrc b, leAt pl 2 1, c, leAt pl 0 2⟩).addLanded (esKey e j) (rows.length - 64) }

/-- MSG_DISPATCH (R350). -/
def execMsgDispatch (k : Nat) (s : State) : Host.Outcome State Fault Refusal :=
  .next (s.receive k 5 State.jobRange (fun s b =>
    let a := mAddr b
    let l := leAt b 29 1
    match s.layerRec l with
    | none => s.count (layerKey l 5) 1
    | some r =>
      match s.queueRegion r a with
      | none => s.count (layerKey l 5) 1
      | some (e, j, base) =>
        if a = base then (s.takeHeader r b base e j).queuePieces r
        else if leAt b 28 1 ≠ s.expGen then s
        else
          let x := s.layer l
          (s.setLayer l { x with queues := { x.queues with pieces := x.queues.pieces ++ [⟨mSrc b, a, mPayload b⟩] } }).queuePieces r))

/-- The queues of a layer have landed: every source's header and counted rows, for every owned expert (R350). -/
def State.queuesLanded (s : State) (r : LayerRec) : Bool :=
  let x := s.layer r.layer
  x.dispatched && (List.range r.e).all (fun e => !s.ownsExpert r e || (List.range r.sources).all (fun j => x.queues.full (esKey e j) r.rowBytes))

/-! ### Return (R351, R352) -/

/-- EXPERT_RETURN (R351) of a layer: each region goes back with the COUNT and GEN of its queue header. -/
def execExpertReturn (l : Nat) (mem : MemEnv) (s : State) : Host.Outcome State Fault Refusal :=
  match s.layerRec l with
  | none => .next s
  | some r =>
    let start := s.move - s.stepMove + r.returnMove
    let own := (List.range r.e).filter (fun e => s.ownsExpert r e)
    let x := s.layer l
    if s.xfersRun && (s.running && (x.dispatched && (!x.returned && (decide (r.returnMove ≤ s.stepMove)
        && own.all (fun e => !s.writesOpen (s.expertMap r e).2.2 (r.sources * r.areg) start))))) then
      let regions := own.flatMap (fun e => ((List.range r.sources).filter (fun j => j != r.index)).filterMap (fun j =>
        let h := x.queues.head (esKey e j)
        if h.known then some (e, j, h) else none))
      let at_ := fun (q : Nat × Nat × RegionHead) => (s.expertMap r q.1).2.2 + q.2.1 * r.areg + 64
      let v := s.delivered mem
      let s1 := s.hbmAccess mem (regions.map (fun q => ⟨at_ q, q.2.2.count * r.ansBytes⟩))
      let s2 := regions.foldl (fun s q =>
        s.sendRegion q.2.2.src 6 (Config.peerAnswers l q.2.2.src + q.1 * r.areg) q.2.2.gen l
          (queueHeader q.2.2.count q.2.2.gen l q.2.1 q.1 ++ v.devRead (at_ q) (q.2.2.count * r.ansBytes))) s1
      .next (s2.setLayer l { s2.layer l with returned := true })
    else .next s

/-- Choices that this source dispatched to expert e. -/
def LayerState.sent (x : LayerState) (e : Nat) : Nat := (x.slots.filter (fun y => y.1 == e)).length

/-- The answer regions of the experts below e that one owner answers for. -/
def State.lowerAnswers (s : State) (r : LayerRec) (e : Nat) : List Region :=
  ((List.range e).filter (fun x => (s.expertMap r x).1 == (s.expertMap r e).1)).map (fun x => ⟨x, r.answers + x * r.areg⟩)

/-- One waiting piece of an answer, as for a queue (R352). -/
def State.answerPiece (r : LayerRec) (s : State) (p : RowPiece) : State :=
  let x := s.layer r.layer
  let keep := fun (q : Landings) => s.setLayer r.layer { x with answers := q }
  let e := (p.addr - r.answers) / r.areg
  let base := r.answers + e * r.areg
  match x.answers.fate r.ansBytes ⟨e, base⟩ (s.lowerAnswers r e) p with
  | .waits => keep { x.answers with pieces := x.answers.pieces ++ [p] }
  | .discarded => s
  | .past => keep { x.answers with beyond := p.addr :: x.answers.beyond }
  | .rows =>
    let pl := p.bytes.take (base + 64 + (x.answers.head e).count * r.ansBytes - p.addr)
    (s.devWrite p.addr pl).setLayer r.layer { x with answers := x.answers.addLanded e pl.length }

def State.answerPieces (s : State) (r : LayerRec) : State :=
  let x := s.layer r.layer
  x.answers.pieces.foldl (State.answerPiece r) (s.setLayer r.layer { x with answers := { x.answers with pieces := [] } })

/-- An answer header and the rows behind it (R352): its first min(dispatched, returned) rows are kept. -/
def State.takeAnswer (s : State) (r : LayerRec) (b : List Byte) (base e : Nat) : State :=
  let pl := mPayload b
  let l := r.layer
  let x := s.layer l
  if leAt pl 2 1 ≠ s.expGen then
    (s.count (layerKey l 4) 1).setLayer l { x with answers := { x.answers with dropped := (mSrc b, base, leAt pl 0 2) :: x.answers.dropped } }
  else
    let c := min (leAt pl 0 2) (x.sent e)
    let rows := pl.take (64 + c * r.ansBytes)
    ((s.devWrite base rows).count (layerKey l 6) (b2n (leAt pl 0 2 != x.sent e))).setLayer l { x with
      answers := (x.answers.takeHead e ⟨true, mSrc b, leAt pl 2 1, c, leAt pl 0 2⟩).addLanded e (rows.length - 64) }

/-- MSG_ANSWER (R352). -/
def execMsgAnswer (k : Nat) (s : State) : Host.Outcome State Fault Refusal :=
  .next (s.receive k 6 State.jobRange (fun s b =>
    let a := mAddr b
    let l := leAt b 29 1
    match s.layerRec l with
    | none => s.count (layerKey l 6) 1
    | some r =>
      let e := (a - r.answers) / r.areg
      let base := r.answers + e * r.areg
      if a < r.answers ∨ r.e ≤ e then s.count (layerKey l 6) 1
      else if a = base then (s.takeAnswer r b base e).answerPieces r
      else if leAt b 28 1 ≠ s.expGen then s
      else
        let x := s.layer l
        (s.setLayer l { x with answers := { x.answers with pieces := x.answers.pieces ++ [⟨mSrc b, a, mPayload b⟩] } }).answerPieces r))

/-- Every expert with a non-zero dispatched count has answered (R352). -/
def State.answersLanded (s : State) (r : LayerRec) : Bool :=
  let x := s.layer r.layer
  x.dispatched && (List.range r.e).all (fun e => s.ownsExpert r e || (x.sent e == 0 || x.answers.full e r.ansBytes))

/-! ### Combine (R353, R354) -/

/-- Where the answer of slot q of expert e lies; none for a slot that contributes nothing (R352). -/
def State.answerAt (s : State) (r : LayerRec) (e q : Nat) : Option Nat :=
  if s.ownsExpert r e then some ((s.expertMap r e).2.2 + r.index * r.areg + 64 + q * r.ansBytes)
  else if q < ((s.layer r.layer).answers.head e).count then some (r.answers + e * r.areg + 64 + q * r.ansBytes)
  else none

/-- The output row of a token: residual, then the accepted choices, first before second (R354). -/
def State.combineRow (s v : State) (r : LayerRec) (t : Nat) : List Byte :=
  let res := v.devRead (r.residual + t * r.outBytes) r.outBytes
  let terms := ((s.layer r.layer).slots.filter (fun y => y.2.2.1 == t)).filterMap (fun y =>
    match s.answerAt r y.1 y.2.1 with
    | none => none
    | some a => some (y.2.2.2, leAt (v.devRead (r.choices + 16 * t + 8) 8) (if y.2.2.2 = 1 then 0 else 4) 4, v.devRead a r.ansBytes))
  let ordered := terms.filter (fun y => y.1 == 1) ++ terms.filter (fun y => y.1 != 1)
  let out := (List.range r.dim).map (fun j =>
    let acc0 := if r.residual = 0 then 0 else toF32 (fmtDecode r.outFmt (elemAt r.outFmt res j))
    let acc := ordered.foldl (fun acc y => f32Fma y.2.1 (toF32 (fmtDecode r.ansFmt (elemAt r.ansFmt y.2.2 j))) acc) acc0
    (narrow r.outFmt r.ovf (f32 acc)).1)
  padTo r.outBytes (elemBytes r.outFmt out)

/-- EXPERT_COMBINE (R353, R354) of a layer. -/
def execExpertCombine (l : Nat) (mem : MemEnv) (s : State) : Host.Outcome State Fault Refusal :=
  match s.layerRec l with
  | none => .next s
  | some r =>
    if s.xfersRun && (s.running && (!(s.layer l).combined && (s.stepMove == r.returnMove + r.answerDue && s.answersLanded r))) then
      let v := s.delivered mem
      let runs := (List.range r.tokens).flatMap (fun t =>
        (if r.residual = 0 then [] else [⟨r.residual + t * r.outBytes, r.outBytes⟩])
          ++ ((s.layer l).slots.filter (fun y => y.2.2.1 == t)).filterMap (fun y => (s.answerAt r y.1 y.2.1).map (fun a => ⟨a, r.ansBytes⟩)))
      let s1 := s.hbmAccess mem runs [⟨r.output, r.tokens * r.outBytes⟩]
      let s2 := (List.range r.tokens).foldl (fun q t => q.devPut mem (r.output + t * r.outBytes) (s.combineRow v r t)) s1
      .next (s2.setLayer l { s2.layer l with combined := true })
    else .next s

/-! ### What holds a tick, and what a tick does -/

/-- What the expert layers owe at the tick that ends step-relative move m (R350, R352, R353). -/
def State.layersLanded (s : State) (m : Nat) : Bool :=
  s.layerRecs.all (fun r =>
    (m + 1 != r.dispatchMove + r.queueDue || s.queuesLanded r)
    && ((m + 1 != r.returnMove + r.answerDue || s.answersLanded r)
    && (m != r.returnMove + r.answerDue || (s.layer r.layer).combined)))

/-- At the end of a step the layers await the next batch; the generation stays shown. -/
def State.layersStep (s : State) : State :=
  s.layers.foldl (fun s e => s.setLayer e.1 { LayerState.reset with gen := e.2.gen }) s

end Sys2Proof.Machine
end

