-- ==== Sys2Proof/Machine/Resilience.lean ====
section
/-! DEFINITION. Self-tests, retests, the repair record and the snapshot engine (R437 to R462). -/

namespace Sys2Proof.Machine

/-! ### Free contents -/

/-- `n` free bytes. -/
def State.freeBytes (s : State) (n : Nat) : List Byte := (List.range n).map (fun i => Byte.of (Config.free (s.freeCtr + i)).toNat)
/-- The state once `n` free values have been taken. -/
def State.useFrees (s : State) (n : Nat) : State := { s with freeCtr := s.freeCtr + n }

/-- A table of `n` free 32-bit values. -/
def State.freeWords (s : State) (n : Nat) : Sparse W32 :=
  (List.range n).foldl (fun m i => Sparse.set (fun _ => 0) m i (W32.of (Config.free (s.freeCtr + i)).toNat)) []

/-! ### Self-tests (R440 to R442) -/

/-- The units that two tests concern are the same: the codes name the same kind of unit at the same place (R440). -/
def testKind (code : Nat) : Nat :=
  if code = 0x0910 then 1 else if code = 0x0911 ∨ code = 0x091B then 2 else if code = 0x0912 ∨ code = 0x0913 then 3
  else if code = 0x0914 then 4 else if code = 0x0916 then 5 else if code = 0x0917 then 6 else 7

def TestJob.sameUnit (a b : TestJob) : Bool :=
  testKind a.code == testKind b.code && (a.die == b.die && (a.y == b.y && (a.physX == b.physX
    && (match testKind a.code with
      | 4 => a.location / 2 ^ 13 == b.location / 2 ^ 13
      | 6 => a.location == b.location
      | 7 => a.location % 16 == b.location % 16
      | _ => true))))

/-- No job runs and none is being loaded: tests run (R440). -/
def State.testable (s : State) : Bool := s.jobState != jobRUNNING && s.jobState != jobLOADING

/-- NET_RES_STATUS.TESTING: units whose self-test runs or waits its turn (R442). -/
def State.testing (s : State) : Nat := if s.testable then s.job.tests.length else 0

/-- The physical tile of a test. -/
def TestJob.tile (x : TestJob) : Nat := x.die * 272 + x.y * 17 + x.physX

/-- What a test overwrites of its unit (R442): free values. That of 0x0911 and 0x091B marches over the feeder links and read ports (R440), which
hold no state, so it overwrites none, though R96 and R105 speak of the array's self-test (DESIGN CHOICE, log entry 116). -/
def State.testOverwrite (s : State) (x : TestJob) : State :=
  let p := x.tile
  match testKind x.code with
  | 1 =>
    let a := s.freeWords 8192
    let s1 := s.useFrees 8192
    let c := (List.range 128).foldl (fun m i => Sparse.set (fun _ => (0 : W64)) m i (Config.free (s1.freeCtr + i))) []
    let s2 := s1.useFrees 128
    let st := s2.freeWords 8192
    (s2.useFrees 8192).modTile p (fun t => { t with acc := a, cs := c, stat := st })
  | 3 =>
    let b := s.freeWords 8192
    (s.useFrees 8192).modTile p (fun t => { t with buf := b })
  | 4 => (s.useFrees (2 ^ 19)).bankWrite p (x.location / 2 ^ 13 % 4 * 2 ^ 19) (s.freeBytes (2 ^ 19))
  | 7 =>
    let a := x.location / 2 ^ 24 * 64
    let k := stackOf a
    let row := bits (placeOf a) 25 4
    let atoms := ((List.range (2 ^ 32)).map (fun i => dieBase (k / 4) + 64 * i)).filter (fun b =>
      stackOf b == k && (pcOf b == pcOf a && bits (placeOf b) 25 4 == row))
    atoms.foldl (fun s b => (s.useFrees 64).devWrite b (s.freeBytes 64)) s
  | _ => s

/-- SELF_TEST (R440, R442): test `i` of those that wait starts; tests of one unit run in the order of their reports. -/
def execSelfTest (i : Nat) (s : State) : Host.Outcome State Fault Refusal :=
  match s.job.tests[i]? with
  | none => .next s
  | some x =>
    if s.testable && (!x.running && !(s.job.tests.take i).any (fun y => y.sameUnit x)) then
      let s1 := { s with job := { s.job with tests := s.job.tests.set i { x with running := true } } }
      .next (s1.testOverwrite x)
    else .next s

/-- SOURCE and WHERE of the unit that a code concerns, at die, row and physical column, or at a stack (R505). -/
def State.unitSource (s : State) (kind die y physX loc : Nat) : Nat × Nat :=
  if kind = 7 then (srcHbm, loc % 16) else (srcTile, (s.logical (die * 272 + y * 17 + physX)).getD 0)

/-- The record of NET_RES_LAST (R463). -/
def resForm (code verdict die y physX loc : Nat) : Nat :=
  code * 2 ^ 48 + verdict * 2 ^ 46 + die * 2 ^ 44 + y * 2 ^ 40 + physX * 2 ^ 35 + 2 ^ 31 + loc % 2 ^ 24

/-- SELF_TEST_VERDICT (R441): the running test `i` ends; that of an array names the failed slot. -/
def execSelfTestVerdict (i : Nat) (lasting : Bool) (slot : Nat) (s : State) : Host.Outcome State Fault Refusal :=
  match s.job.tests[i]? with
  | none => .next s
  | some x =>
    if !x.running then .next s
    else
      let loc := if x.code = 0x0910 ∧ lasting = true then slot else x.location
      let v := resForm x.code (if lasting then 2 else 1) x.die x.y x.physX loc
      let s1 := { s with job := { s.job with tests := s.job.tests.eraseIdx i } }
      let s2 := if x.first && isBit (s1.reg Reg.netResLast) 31 then s1.setReg Reg.netResLast v else s1
      let s3 := s2.count (Reg.netResCount (if lasting then 2 else 1)) 1
      let u := s3.unitSource (testKind x.code) x.die x.y x.physX x.location
      .next ((s3.event (if lasting then 0x0902 else 0x0901) (if lasting then sevERROR else sevWARNING) u.1 u.2
        [it2 x.code, itN 3 (loc % 2 ^ 24)]).cause 3)

/-- The code of a corrected error by the kind of its place. -/
def retestCode (kind : Nat) : Nat := if kind = 0 then 0x0915 else if kind = 1 then 0x091A else 0x0918

/-- Its location in the form of NET_RES_LAST.LOCATION: bank and line, stack, or input port. -/
def Retest.form (x : Retest) : Nat := if x.kind = 0 then x.place / 8 else if x.kind = 1 then x.unit else x.place

/-- ECC_RETEST (R443) of place `i`; `again` when the same bit or symbol fails once more. -/
def execEccRetest (i : Nat) (again : Bool) (s : State) : Host.Outcome State Fault Refusal :=
  match s.retests[i]? with
  | none => .next s
  | some x =>
    let s1 := ({ s with retests := s.retests.eraseIdx i }).count (Reg.netResCount 3) 1
    let u := s1.unitSource (if x.kind = 1 then 7 else 0) (pDie x.unit) (pY x.unit) (pX x.unit) x.unit
    if again then .next ((s1.count (Reg.netResCount 4) 1).event 0x0902 sevERROR u.1 u.2 [it2 (retestCode x.kind), itN 3 (x.form % 2 ^ 24)])
    else .next s1

/-! ### The repair record (R445, R447, R449) -/

/-- The copy that governs: valid, with the higher GENERATION. -/
def State.repairCopy (s : State) : Option RepairCopy :=
  if s.repair0.valid && (!s.repair1.valid || decide (s.repair1.generation ≤ s.repair0.generation)) then some s.repair0
  else if s.repair1.valid then some s.repair1 else none

/-- The entries in force (R447). -/
def State.repairEntries (s : State) : List (List Byte) :=
  match s.repairCopy with
  | none => []
  | some c => c.entries

/-- Writes a new copy of the repair record over the older one, or over one that is not valid. -/
def State.writeRepair (s : State) (entries : List (List Byte)) : State :=
  let old := s.repairCopy.getD ⟨0, [], true⟩
  { s with repair1 := old, repair0 := ⟨old.generation + 1, entries, true⟩ }

/-- REPAIR_RECORD_WRITE (R445): the oldest entry that waits becomes durable; during a service pause of MGT it waits (R495). -/
def execRepairRecordWrite (s : State) : Host.Outcome State Fault Refusal :=
  match s.repairsDue with
  | [] => .next s
  | e :: rest =>
    if s.pauseMgt then .next s
    else .next (({ s with repairsDue := rest }.writeRepair (s.repairEntries ++ [e])).count (Reg.netResCount 5) 1)

/-- Entry ENTRY of the record. -/
def State.repairEntry (s : State) : Option (List Byte) := s.repairEntries[s.fld Reg.netRepairIndex 11 0]?

/-- NET_REPAIR_READ (R463); an entry that does not exist reads as zeros. -/
def execNetRepairRead (s : State) : Host.Outcome State Fault Refusal :=
  let e := s.repairEntry.getD []
  .next (((s.setReg (Reg.netRepairData 0) (leAt e 0 8)).setReg (Reg.netRepairData 1) (leAt e 8 8)).setFld Reg.netRepairCmd 31 16 0)

/-- NET_REPAIR_REMOVE (R449). -/
def execNetRepairRemove (s : State) : Host.Outcome State Fault Refusal :=
  match s.repairEntry with
  | some e =>
    if (s.jobState = jobEMPTY ∨ s.jobState = jobSTOPPED) ∧ leAt e 0 1 = 7 then
      .next ((s.writeRepair (s.repairEntries.eraseIdx (s.fld Reg.netRepairIndex 11 0))).setFld Reg.netRepairCmd 31 16 0)
    else .next (s.setFld Reg.netRepairCmd 31 16 0x0908)
  | none => .next (s.setFld Reg.netRepairCmd 31 16 0x0908)

/-! ### The castle region and snapshots (R450 to R457) -/

/-- Copies `n` bytes of a memory at `a` to another memory at `b`. -/
def Mem.copyTo (m : Mem) (a n : Nat) (dst : Mem) (b : Nat) : Mem :=
  (m.filter (fun e => decide (a ≤ e.1) && decide (e.1 < a + n))).foldl (fun d e => Mem.set d (b + (e.1 - a)) e.2) (Mem.zero dst b (b + n))

/-- Bytes of a slot of die d's castle region, and the base of slot i (0 OUT, 1 IN 0, 2 IN 1) (R455). -/
def State.slotBytes (s : State) (d : Nat) : Nat := s.castleBytes d / 3 / 65536 * 65536
def State.slotBase (s : State) (d i : Nat) : Nat := dieBase d + s.castleOff d + i * s.slotBytes d

/-- The SECURING section (R450). -/
def State.secureSec (s : State) : List Byte := s.devSection 0x70

/-- A declared range. -/
structure SecRange where
  tile : Bool
  t : Nat
  bytes : Nat
  addr : Nat
  deriving DecidableEq, Repr

def State.secRanges (s : State) : List SecRange :=
  let bs := s.secureSec
  (List.range (leAt bs 12 4)).map (fun i =>
    let r := (bs.drop (32 + 16 * i)).take 16
    ⟨leAt r 0 1 == 1, leAt r 2 2, leAt r 4 4, leAt r 8 8⟩)

def SecRange.die (r : SecRange) : Nat := if r.tile then tDie r.t else r.addr / 2 ^ 38

/-- The ranges of a die in section order, with their offsets in its part. -/
def State.rangesOf (s : State) (d : Nat) : List (SecRange × Nat) :=
  ((s.secRanges.filter (fun r => r.die == d)).foldl (fun (x : List (SecRange × Nat) × Nat) r => (x.1 ++ [(r, x.2)], x.2 + r.bytes))
    ([], 4096 + (if d = 0 then 17825792 else 0))).1

/-- PART_BYTES of a die's part (R454). -/
def State.partBytes (s : State) (d : Nat) : Nat :=
  4096 + (if d = 0 then 17825792 else 0) + ((s.rangesOf d).map (fun r => r.1.bytes)).foldl (· + ·) 0 + 64

def snapMagic : List Byte := [0x43, 0x41, 0x53, 0x54, 0x4C, 0x45, 0x53, 0x50]

/-- The header of a part (R454). -/
def State.partHeader (s : State) (d number step : Nat) : List Byte :=
  let h := snapMagic ++ (leBytes 8 (s.reg Reg.netImgId) ++ (leBytes 4 number ++ (leBytes 4 s.ownAddr ++ (leBytes 8 step
    ++ (leBytes 8 s.utcSeconds ++ (leBytes 1 s.layoutEpoch ++ (leBytes 1 d ++ (leBytes 6 0 ++ (leBytes 8 (s.partBytes d)
    ++ List.replicate 68 0)))))))))
  h ++ leBytes 4 (crc32c h)

/-- What TL_QNT_SLOT_AMAX reads as (R129): the upper 24 bits of the recorded maximum. -/
def State.slotAmax (s : State) (p i : Nat) : Nat :=
  setBits (s.reg (Reg.tlQntSlotAmax p i)) 23 0 ((Sparse.get (fun _ => (0 : W32)) (s.tile p).amax i).toNat / 256)

/-- The quantisation registers of a tile as the state record holds them. -/
def State.quantBytes (s : State) (p : Nat) : List Byte :=
  (List.range 16).flatMap (fun i => leBytes 4 (s.reg (Reg.tlQntSlotCtl p i)))
    ++ ((List.range 16).flatMap (fun i => leBytes 4 (s.slotAmax p i))
    ++ ((List.range 64).flatMap (fun i => leBytes 4 (s.reg (Reg.tlQntChScale p i)))
    ++ ((List.range 64).flatMap (fun i => leBytes 4 (s.reg (Reg.tlQntChBias p i)))
    ++ ((List.range 64).flatMap (fun i => leBytes 1 (s.reg (Reg.tlQntChZero p i)))
    ++ leBytes 4 (s.reg (Reg.tlQntChanCtl p))))))

/-- Writes the state record at `a` (R454). The owner table is written as lookups see it. -/
def State.writeRecord (s : State) (a : Nat) : State :=
  let s1 := s.devWrite a (leBytes 4 (s.reg Reg.netLossCtl) ++ (leBytes 4 (s.reg Reg.netLossClean) ++ leBytes 8 (s.reg Reg.netTrnUpdates)))
  let s2 := (List.range 1024).foldl (fun q t =>
    let p := s.phys t
    (q.devWrite (a + 64 + 4 * t) ((List.range 4).map (fun b => Byte.of (s.bankState p b)))).devWrite (a + 8192 + 768 * t) (s.quantBytes p)) s1
  let s3 := { s2 with hbm := Mem.copyTo s.hbm (s.ownerAddr 0 0) 16777216 s2.hbm (a + 1048576) }
  s.staging.foldl (fun q e => q.devWrite (a + 1048576 + 8 * e.1) (leBytes 8 e.2.toNat)) s3

/-- Writes the trailer of a part whose first byte is at `a`. -/
def State.writeTrailer (s : State) (a bytes number : Nat) : State :=
  s.devWrite (a + bytes - 64) (leBytes 4 (crc32c (Mem.read s.hbm a (bytes - 64))) ++ leBytes 4 number)

/-- Writes part d of a snapshot into the OUT slot (R453, R454); `v` is what the engine reads, and a bank that does not admit the DMA reads as
zeros (R167). -/
def State.writePart (s v : State) (number step d : Nat) : State :=
  let a := s.slotBase d 0
  let s1 := ({ s with hbm := Mem.zero s.hbm a (a + s.partBytes d) }).devWrite a (s.partHeader d number step)
  let s2 := if d = 0 then s1.writeRecord (a + 4096) else s1
  let s3 := (s.rangesOf d).foldl (fun q r =>
    if r.1.tile then { q with hbm := Mem.copyTo (v.view (s.phys r.1.t) .dma false).sram (sramKey (s.phys r.1.t) r.1.addr) r.1.bytes q.hbm (a + r.2) }
    else { q with hbm := Mem.copyTo v.hbm r.1.addr r.1.bytes q.hbm (a + r.2) }) s2
  s3.writeTrailer a (s.partBytes d) number

/-- The OUT slot is busy: a capture or a layer runs (R457). -/
def State.outBusy (s : State) : Bool := bits (s.reg Reg.netSnapStatus) 2 0 != 0

/-- What the capture meets in the banks of tile t (R167, R179): errors of the codewords it reads, and the report of a bank that does not admit
it. -/
def State.captureTile (s : State) (t : Nat) (banks : List TileEnv) : State :=
  let p := s.phys t
  let runs := (s.secRanges.filter (fun r => r.tile && r.t == t)).map (fun r => byteRun r.addr r.bytes)
  let flips := (banks.filter (fun b => b.tile == t)).flatMap (fun b => b.env.flips)
  ((s.bankEcc p flips (s.openReads p .dma false s.offset runs)).1).ownerCheck p (s.blockedReads p .dma false runs)

/-- SNAPSHOT_CAPTURE (R452, R453): the snapshot that the last tick made due starts its capture, or is postponed. -/
def execSnapshotCapture (mem : MemEnv) (banks : List TileEnv) (s : State) : Host.Outcome State Fault Refusal :=
  if !s.snap.due then .next s
  else
    let s0 := { s with snap := { s.snap with due := false } }
    if s.outBusy then
      .next ((s0.setFld Reg.netSnapStatus 3 3 1).event 0x0905 sevNOTICE srcDevice 0 [])
    else
      let n := (s.fld Reg.netSnapStatus 63 32 + 1) % 2 ^ 32
      let s1 := (({ s0 with snap := { s0.snap with now := false } }.setReg Reg.netSnapStatus (n * 2 ^ 32 + 1)).setReg (Reg.netSnapSlot 0)
        (n * 2 ^ 32)).setReg Reg.netSnapHold 0
      let runs := (s.secRanges.filter (fun r => !r.tile)).map (fun r => (⟨r.addr, r.bytes⟩ : AddrRun))
      let s2 := s1.hbmAccess mem runs
      let s3 := (((s.secRanges.filter (fun r => r.tile)).map (fun r => r.t)).eraseDups).foldl (fun q t => q.captureTile t banks) s2
      .next ((List.range 4).foldl (fun q d => q.writePart (s3.delivered mem) n s.snap.step d) s3)

/-- The connection of an index of the SECURING section. -/
def State.secureConn (s : State) (i : Nat) : Option ConnRec := s.connRec (leAt s.secureSec i 2)

/-- Sends the parts that lie in slot `i` here as SNAPSHOT messages into slot `j` of the receiver (R456, R460). -/
def State.sendParts (s : State) (r : ConnRec) (i j number : Nat) : State :=
  (List.range 4).foldl (fun s d =>
    let n := Mem.le s.hbm (s.slotBase d i + 48) 8
    (List.range ((n + 4095) / 4096)).foldl (fun s k =>
      s.post r 9 (s.slotBase d j + 4096 * k) number (Mem.read s.hbm (s.slotBase d i + 4096 * k) (min 4096 (n - 4096 * k)))) s) s

/-- SNAPSHOT_CAPTURE_DONE (R456, R457): layers 1 and 2 begin. -/
def execSnapshotCaptureDone (s : State) : Host.Outcome State Fault Refusal :=
  if !isBit (s.reg Reg.netSnapStatus) 0 then .next s
  else
    let n := s.fld Reg.netSnapStatus 63 32
    let s1 := ((s.setReg Reg.netSnapStatus (n * 2 ^ 32 + 6)).setReg (Reg.netSnapSlot 0) (n * 2 ^ 32 + 1)).count (Reg.netResCount 6) 1
    match s1.secureConn 8 with
    | none => .next s1
    | some r => .next (s1.sendParts r 0 (1 + n % 2) n)

/-- SNAPSHOT messages of a connection that are not acknowledged yet. -/
def State.snapUnacked (s : State) (c : Nat) : Bool :=
  (s.conn c).held.any (fun m => m.typ == 9) || (s.conn c).unacked.any (fun m => m.typ == 9)

/-- SNAPSHOT_PARTNER_SECURED (R456): every message of layer 1 is acknowledged. -/
def execSnapshotPartnerSecured (s : State) : Host.Outcome State Fault Refusal :=
  match s.secureConn 8 with
  | none => .next s
  | some r =>
    if !isBit (s.reg Reg.netSnapStatus) 1 || s.snapUnacked r.conn then .next s
    else .next (((s.setFld Reg.netSnapStatus 1 1 0).event 0x0904 sevINFO srcDevice 0 []).cause 4)

/-! ### Reading a snapshot -/

/-- Where the four parts of a snapshot begin when they lie back to back from `a`: each follows the PART_BYTES of the one before. -/
def seqBases (m : Mem) (a : Nat) : List Nat :=
  (List.range 3).foldl (fun l _ => l ++ [l.getLastD a + Mem.le m (l.getLastD a + 48) 8]) [a]

/-- Header and trailer of the part at `a` carry a number and the magic, and the header's CRC matches. -/
def partHeads (m : Mem) (a d number : Nat) : Bool :=
  Mem.read m a 8 == snapMagic && (Mem.le m (a + 16) 4 == number && (Mem.le m (a + 41) 1 == d
    && (Mem.le m (a + 124) 4 == crc32c (Mem.read m a 124)
    && (decide (4160 ≤ Mem.le m (a + 48) 8) && Mem.le m (a + Mem.le m (a + 48) 8 - 60) 4 == number))))

/-- The CRC in its trailer matches. -/
def partCrc (m : Mem) (a : Nat) : Bool :=
  let n := Mem.le m (a + 48) 8
  Mem.le m (a + n - 64) 4 == crc32c (Mem.read m a (n - 64))

def headsOk (m : Mem) (bases : List Nat) (number : Nat) : Bool := (List.range 4).all (fun d => partHeads m (bases.getD d 0) d number)
def crcsOk (m : Mem) (bases : List Nat) : Bool := bases.all (partCrc m)

/-- The bases of slot i of the castle region. -/
def State.slotBases (s : State) (i : Nat) : List Nat := (List.range 4).map (fun d => s.slotBase d i)

/-- SNAPSHOT_FLASH_SECURED (R457): the flash slot holds the OUT slot's four parts back to back (log entry 22); `ok` when the read-back
matches. A FLASH_READ of the slot comes first (R479). -/
def execSnapshotFlashSecured (ok : Bool) (s : State) : Host.Outcome State Fault Refusal :=
  let n := s.fld Reg.netSnapStatus 63 32
  let i := n % 2
  if !isBit (s.reg Reg.netSnapStatus) 2 || s.copies.any (fun c => c.flash && leAt c.bytes 8 1 == i) then .next s
  else
    let s1 := s.setFld Reg.netSnapStatus 2 2 0
    if ok then
      let w := (List.range 4).foldl (fun (x : Mem × Nat) d =>
        let b := Mem.le s.hbm (s.slotBase d 0 + 48) 8
        (Mem.copyTo s.hbm (s.slotBase d 0) b x.1 x.2, x.2 + b)) (Mem.zero s.flash (i * 2 ^ 41) ((i + 1) * 2 ^ 41), i * 2 ^ 41)
      .next ((({ s1 with flash := w.1 }.setReg (Reg.netSnapSlot (3 + i)) (n * 2 ^ 32 + 1)).event 0x0904 sevINFO srcDevice 0 []).cause 4)
    else .next (((s1.setReg (Reg.netSnapSlot (3 + i)) (n * 2 ^ 32)).event 0x0909 sevERROR srcDevice 0 []).cause 4)

/-- A SNAPSHOT message lands in slot i: the first of a new number makes the slot invalid; once every header and trailer has landed
the slot is valid when every CRC matches (R456). -/
def State.snapLand (s : State) (i a number : Nat) (pl : List Byte) : State :=
  let r := Reg.netSnapSlot i
  let s1 := if s.fld r 63 32 = number then s else s.setReg r (number * 2 ^ 32)
  let before := headsOk s1.hbm (s1.slotBases i) number
  let s2 := s1.devWrite a pl
  let now := headsOk s2.hbm (s2.slotBases i) number
  if now && crcsOk s2.hbm (s2.slotBases i) then s2.setFld r 0 0 1
  else if now && !before then (s2.setFld r 0 0 0).event 0x0909 sevERROR srcDevice 0 []
  else s2.setFld r 0 0 0

/-- The range lies in slot i of one die's castle region. -/
def State.inSlot (s : State) (i a n : Nat) : Bool :=
  let d := a / 2 ^ 38
  decide (d < 4) && (decide (s.slotBase d i ≤ a) && decide (a + n ≤ s.slotBase d i + s.slotBytes d))

/-- MSG_SNAPSHOT (R456, R460): from KEPT into an IN slot; from PARTNER into the OUT slot, in LOADED and STOPPED. -/
def execMsgSnapshot (k : Nat) (s : State) : Host.Outcome State Fault Refusal :=
  .next (s.receive k 9
    (fun s b =>
      let a := mAddr b
      let d := a / 2 ^ 38
      decide (d < 4) && (decide (dieBase d + s.castleOff d ≤ a) && decide (a + mLen b ≤ dieBase d + s.castleOff d + s.castleBytes d)))
    (fun s b =>
      let n := leAt b 28 4
      let kept := leAt s.secureSec 4 4
      if mSrc b = kept % 2 ^ 20 ∧ isBit kept 31 = false ∧ s.secureSec ≠ [] ∧ s.inSlot (1 + n % 2) (mAddr b) (mLen b) = true then
        s.snapLand (1 + n % 2) (mAddr b) n (mPayload b)
      else if mSrc b = leAt s.secureSec 0 4 % 2 ^ 20 ∧ s.secureSec ≠ [] ∧ s.inSlot 0 (mAddr b) (mLen b) = true
          ∧ (s.jobState = jobLOADED ∨ s.jobState = jobSTOPPED) then
        s.snapLand 0 (mAddr b) n (mPayload b)
      else s))

/-- SNAP_NOW (R452, R463). -/
def execSnapNow (s : State) : Host.Outcome State Fault Refusal := .next { s with snap := { s.snap with now := true } }

/-- Zero-fills the castle region, and marks its slots invalid. -/
def State.clearCastle (s : State) : State :=
  let s1 := (List.range 4).foldl (fun (s : State) d =>
    { s with hbm := Mem.zero s.hbm (dieBase d + s.castleOff d) (dieBase d + s.castleOff d + s.castleBytes d) }) s
  (List.range 3).foldl (fun s i => s.setFld (Reg.netSnapSlot i) 0 0 0) s1

/-- CASTLE_CLEAR (R455, R463): in EMPTY only. -/
def execCastleClear (s : State) : Host.Outcome State Fault Refusal := .next (if s.jobState = jobEMPTY then s.clearCastle else s)

/-! ### Restoring (R460) -/

/-- Bytes of a part at an offset. -/
def State.restoreQuant (s : State) (m : Mem) (a p : Nat) : State :=
  let s1 := (List.range 16).foldl (fun s i =>
    ((s.setReg (Reg.tlQntSlotCtl p i) (Mem.le m (a + 4 * i) 4)).setReg (Reg.tlQntSlotAmax p i) (Mem.le m (a + 64 + 4 * i) 4)).modTile p (fun t =>
      { t with amax := Sparse.set (fun _ => 0) t.amax i (W32.of (Mem.le m (a + 64 + 4 * i) 3 * 256)) })) s
  let s2 := s1.setReg (Reg.tlQntChanCtl p) (Mem.le m (a + 704) 4)
  (List.range 64).foldl (fun s n =>
    (((s.setReg (Reg.tlQntChScale p n) (Mem.le m (a + 128 + 4 * n) 4)).setReg (Reg.tlQntChBias p n) (Mem.le m (a + 384 + 4 * n) 4)).setReg
      (Reg.tlQntChZero p n) (Mem.le m (a + 640 + n) 1)).chanDerive p n) s2

/-- The checks of a RESTORE on the parts at the bases: 0 when they pass. -/
def State.restoreCode (s : State) (m : Mem) (bases : List Nat) (number : Nat) : Nat :=
  if !headsOk m bases number || !crcsOk m bases then 0x0909
  else if (List.range 4).any (fun d =>
      let a := bases.getD d 0
      Mem.le m (a + 8) 8 != s.reg Reg.netImgId || (Mem.le m (a + 20) 4 != s.ownAddr || Mem.le m (a + 48) 8 != s.partBytes d)) then 0x0908
  else 0

/-- What a stop under R40 leaves of a tile: no open transfer, item or row (R208, R303), no Knight state (R160). -/
def TileState.afterError (t : TileState) : TileState :=
  { t with
    buf := []
    bufSpec0 := false
    bufSpec1 := false
    latches := []
    shadowLatches := []
    shadowAmax := []
    lateArray := 0
    lateKnight := 0
    lateDma := 0
    ops := []
    gives := []
    dma := []
    sends := []
    recvs := []
    window := none
    publish := []
    items := []
    requested := 0
    shown := 0
    sent := []
    returns := []
    rings := []
    passes := 0
    specPasses := 0 }

/-- The decisions that form, and those that are final, are gone (R366). -/
def State.dropDecisions (s : State) : State := s.domains.foldl (fun s r => s.setFld (Reg.netDecStatus r.domain) 2 1 0) s

/-- Writes a checked snapshot back. What was under way when the job stopped is gone: the job goes on at a step boundary (R366, R461). -/
def State.restoreFrom (s : State) (m : Mem) (bases : List Nat) (number : Nat) : State :=
  let s1 := (List.range 4).foldl (fun s d => (s.rangesOf d).foldl (fun s r =>
    let src := bases.getD d 0 + r.2
    if r.1.tile then
      let p := s.phys r.1.t
      { s.markLines p r.1.addr r.1.bytes with sram := Mem.copyTo m src r.1.bytes s.sram (sramKey p r.1.addr) }
    else { s with hbm := Mem.copyTo m src r.1.bytes s.hbm r.1.addr }) s) s
  let rec0 := bases.getD 0 0 + 4096
  let s2 := (List.range 1024).foldl (fun s t => s.restoreQuant m (rec0 + 8192 + 768 * t) (s.phys t)) s1
  let s3 := { s2 with
    hbm := (List.range 4).foldl (fun h d => Mem.copyTo m (rec0 + 1048576) 16777216 h (s2.ownerAddr d 0)) s2.hbm
    staging := []
    stagedNew := []
    ownerCache := [] }
  let step := Mem.le m (bases.getD 0 0 + 24) 8
  let s4 := ((s3.setFld Reg.netLayout 7 0 (Mem.le m (bases.getD 0 0 + 40) 1)).setFld Reg.netSnapStatus 63 32 number).setReg
    Reg.netMoveNumber ((step + 1) * s3.stepMoves)
  let s5 := ((s4.setReg Reg.netMoveOffset 0).mapTiles (fun t => { t.afterError with next := 0 })).dropDecisions
  { s5.setJobState jobSTOPPED with
    job := { s5.job with err := false, mustRestore := false }
    training := .reset
    exch := none
    votes := []
    barriers := []
    reshard := none
    colls := []
    layers := []
    wires := []
    lists := []
    grants := []
    slotsUsed := []
    served := []
    firstAt := []
    late := []
    domSums := [] }

end Sys2Proof.Machine
end

