-- ==== Sys2Proof/Machine/Empty.lean ====
section
/-! DEFINITION. Entry to EMPTY (R35, R208, R242, R249, R279, R332, R366, R432, R462) and the end of its fill. -/

namespace Sys2Proof.Machine

/-- Offsets of a tile window that entry to EMPTY leaves: TL_ARR_REPAIR and TL_ARR_DLY (R104). -/
def tileKept (k : Nat) : Bool :=
  let off := (k - 0x10000000) % 0x4000
  off == 0x504 || (decide (0x510 ≤ off) && decide (off < 0x520))

/-- The registers that entry to EMPTY returns to their reset values. -/
def emptyReg (k : Nat) : Bool :=
  if 0x40000000 ≤ k then true
  else if 0x30000000 ≤ k then true
  else if 0x20000000 ≤ k then true
  else if 0x10000000 ≤ k then !tileKept k
  else if 0x02000000 ≤ k then
    let off := (k - 0x02000000) % 0x00800000
    !(decide (0x1000 ≤ off) && decide (off < 0x1044))
  else if 0x00220000 ≤ k && k < 0x00230000 then true
  else if 0x00330020 ≤ k && k < 0x00330060 then true
  else if 0x00320000 ≤ k && k < 0x00330000 then decide (k % 0x1000 < 0x40)
  else if 0x00310000 ≤ k && k < 0x00320000 then decide (0x10 ≤ k % 0x1000) && decide (k % 0x1000 < 0x40)
  else
    (decide (0x2000 ≤ k) && decide (k < 0x2060)) || k == 0x2108 || (decide (0x2120 ≤ k) && decide (k < 0x3100))

/-- Completes every host PETAL under way with 0x0A08: entry to EMPTY empties the dispatcher (R279, R482). -/
def State.dropPetals (s : State) : State :=
  (s.petals.filter (fun q => q.host)).foldl (fun s q => s.finish q.ring q.seq 0x0A08 0 0) { s with petals := [] }

/-- Zero-fills job regions, image region and owner-table copies (R279). -/
def State.fillHbm (s : State) : State :=
  (List.range 4).foldl (fun (s : State) d =>
    let b := dieBase d
    let m := Mem.zero s.hbm b (b + s.jobBytes d)
    let m1 := if d = 0 then Mem.zero m (b + s.imageOff) (b + s.imageOff + 2 ^ 31) else m
    { s with hbm := Mem.zero m1 (b + s.ownerOff) (b + s.ownerOff + 2 ^ 24) }) s

/-- What entry to EMPTY does to every unit beside the fill: tiles, network, engines, training, experts, connections. -/
def State.clearUnits (s : State) : State :=
  { (s.resetRegs emptyReg) with
    rises := Sparse.clearIf s.rises emptyReg
    shadow := []
    shadowFirst := []
    firstAt := []
    sram := []
    late := []
    lineValid := []
    tiles := []
    retests := s.retests.filter (fun r => r.kind == 1)
    training := .reset
    normAcc := []
    domSums := []
    frames := []
    staging := []
    stagedNew := []
    ownerCache := []
    wires := []
    lists := []
    grants := []
    slotsUsed := []
    served := []
    conns := []
    exch := none
    votes := []
    barriers := []
    reshard := none
    colls := []
    layers := []
    snap := .reset }

/-- A snapshot engine that idles: the capture and the layers under way end (R462). -/
def State.snapEnd (s : State) : State :=
  let s1 := if isBit (s.reg Reg.netSnapStatus) 0 then s.setFld (Reg.netSnapSlot 0) 0 0 0 else s
  s1.setFld Reg.netSnapStatus 3 0 0

/-- Enters EMPTY: the units at once; NET_JOB_STATE reads EMPTY when the fill ends (R279). A RUNNING job reads STOPPED until then
(log entry 23). -/
def State.enterEmpty (s : State) : State :=
  let s1 := ((s.dropPetals.clearUnits).fillHbm).snapEnd
  let s2 := s1.setFld Reg.netJobState 19 16 0
  let s3 := if s.jobState = jobRUNNING then s2.setJobState jobSTOPPED else s2
  { s3.setFld Reg.hbmScrubStatus 1 1 1 with job := { JobState.reset with tests := s3.job.tests } }

/-- The fill of R279 runs. -/
def State.filling (s : State) : Bool := isBit (s.reg Reg.hbmScrubStatus) 1

/-- EMPTY_FILL_DONE (R279): the fill ends. An UNLOAD completes; a LOAD that started it goes on in LOADING (R242). The fill at power-on ends
by HBM_INIT_DONE instead (R278, R483). -/
def execEmptyFillDone (s : State) : Host.Outcome State Fault Refusal :=
  if !s.filling || s.fld Reg.hqDevStatus 7 4 == 3 then .next s
  else
    let s1 := (s.setFld Reg.hbmScrubStatus 1 1 0).setFld Reg.netJobState 10 8 0
    if (s.jobCmd 1).isSome then .next ((s1.setJobState jobLOADING).setFld Reg.netJobState 19 16 1)
    else
      let s2 := s1.setJobState jobEMPTY
      .next (if (s.jobCmd 2).isSome then s2.endJob 0 0 0 else s2)

end Sys2Proof.Machine
end

