-- ==== Sys2Proof/Machine/Repair.lean ====
section
/-! DEFINITION. The repair registers and their record (R78 to R80, R192 to R196, R445, R448), and the host writes of bank owners,
quantisation registers, step limit, castle sizes and the transport epoch, with the tile windows they go through. -/

namespace Sys2Proof.Machine

/-! ### Windows (R469, R470) -/

/-- The physical tile that a tile window reaches. -/
def State.winTile (s : State) (w : TileWin) : Nat :=
  match w with
  | .tile t => s.phys t.val
  | .spare d y => d.val * 272 + y.val * 17 + s.spareX d.val y.val

/-- The dies are out of reset: from step 5 of R483 on. -/
def State.diesUp (s : State) : Bool := decide (4 ≤ s.fld Reg.hqDevStatus 7 4)

/-- HQ_DEV_STATUS.READY. -/
def State.ready (s : State) : Bool := isBit (s.reg Reg.hqDevStatus) 0

/-- A host fault of kind i (R470, R471, R475, R466): HQ_ERR_COUNT[i], cause HOST_FAULT. -/
def State.hostFault (s : State) (i : Nat) : State := (s.count (Reg.hqErrCount i) 1).cause 5

/-- A host write that needs the dies: to a die in reset it counts 0x0A03 and is discarded (R470). -/
def State.dieWrite (s : State) (f : State → State) : State := if s.diesUp then f s else s.hostFault 0

/-- EMPTY, LOADED or STOPPED. -/
def State.idleJob (s : State) : Bool := s.jobState == jobEMPTY || (s.jobState == jobLOADED || s.jobState == jobSTOPPED)

/-- EMPTY or STOPPED: repairs are accepted (R445). -/
def State.repairable (s : State) : Bool := s.jobState == jobEMPTY || s.jobState == jobSTOPPED

/-! ### Array rows (R78 to R80) -/

/-- The slot of logical row n with failed position f (R79). -/
def rowSlot (f n : Nat) : Nat := if f ≤ n then n + 1 else n

/-- The delay of logical row n (R78). -/
def rowDelay (f n : Nat) : Nat := 3 - rowSlot f n / 17

/-- TL_ARR_DLY[i]. -/
def dlyReg (f i : Nat) : Nat := ((List.range 16).map (fun j => rowDelay f (16 * i + j) * 4 ^ j)).foldl (· + ·) 0

/-- Sets the repair map of an array; its slots and delays follow (TL_ARR_DLY is formed from it when read). -/
def State.setArrMap (s : State) (p v : Nat) : State :=
  ((s.setFld (Reg.tlArrRepair p) 6 0 (bits v 6 0)).setFld (Reg.tlArrRepair p) 8 8 (bit v 8)).setFld (Reg.tlArrRepair p) 9 9 (bit v 9)

/-- An entry of the repair record (R447). -/
def State.repairBytes (s : State) (kind unit y x value : Nat) : List Byte :=
  leBytes 1 kind ++ (leBytes 1 unit ++ (leBytes 1 y ++ (leBytes 1 x ++ (leBytes 4 value ++ leBytes 8 s.utcSeconds))))

/-- Queues an entry for the repair record when `on` (R445). -/
def State.repairDue (s : State) (on : Bool) (kind unit y x value : Nat) : State :=
  if on then { s with repairsDue := s.repairsDue ++ [s.repairBytes kind unit y x value] } else s

/-- A write of the repair map is refused (R80). -/
def State.arrRefused (s : State) (p v : Nat) : Bool :=
  let o := s.reg (Reg.tlArrRepair p)
  let f := bits o 6 0
  let g := bits v 6 0
  decide (0x40 ≤ g ∧ g ≤ 0x7E) || (!s.repairable || ((f == 0x7F && (g != 0x7F && (isBit o 9 || isBit v 9)))
    || ((f != 0x7F && g != f) || ((isBit o 9 && !isBit v 9) || (isBit o 8 && !isBit v 8)))))

/-- A write of TL_ARR_REPAIR of a physical tile (R80). -/
def State.arrRepairWrite (s : State) (p value : Nat) : State :=
  if s.arrRefused p value then s.setFld (Reg.tlArrRepair p) 31 16 0x090C
  else
    let o := s.reg (Reg.tlArrRepair p)
    let s1 := (s.setArrMap p value).setFld (Reg.tlArrRepair p) 31 16 0
    ((s1.repairDue (bits value 6 0 != bits o 6 0) 1 (pDie p) (pY p) (pX p) (bits value 6 0)).repairDue
      (isBit value 9 && !isBit o 9) 2 (pDie p) (pY p) (pX p) 0).repairDue (isBit value 8 && !isBit o 8) 3 (pDie p) (pY p) (pX p) 0

/-- TL_ARR_REPAIR_WRITE (R80). -/
def execTlArrRepairWrite (w : TileWin) (value : Nat) (s : State) : Host.Outcome State Fault Refusal :=
  .next (s.dieWrite (fun s => s.arrRepairWrite (s.winTile w) value))

/-! ### Promotion (R192 to R196) -/

/-- What R181 does to a physical tile's banks. -/
def State.bankReset (s : State) (p : Nat) : State :=
  let s1 := (List.range 4).foldl (fun s b => s.bankClear p b) s
  (s1.resetRegs (fun k => decide (tileKey p 0x1100 ≤ k) && decide (k < tileKey p 0x1168))).modTile p (fun t => { t with ptr := [] })

/-- Sets the repair state of row y of die d. -/
def State.setRow (s : State) (d y v : Nat) : State :=
  let k := Reg.dieRowRepair d y
  ((s.setFld k 4 0 (bits v 4 0)).setFld k 8 8 (b2n (decide (bits v 4 0 < 16)))).setFld k 9 9 (bit v 9)

/-- A write of DIE_ROW_REPAIR[y] of die d (R194, R196). A job that was stopped when its row was promoted resumes only from a securing layer, as
R40 has it. -/
def State.rowRepairWrite (s : State) (d y value : Nat) : State :=
  let o := s.reg (Reg.dieRowRepair d y)
  let f := bits o 4 0
  let g := bits value 4 0
  let code := if 0x10 ≤ g ∧ g ≤ 0x1E then 0x0507 else if !s.repairable then 0x0505
    else if g ≠ 0x1F ∧ isBit o 9 = true then 0x0506 else if f ≠ 0x1F ∧ g ≠ f then 0x0507 else 0
  let s1 := s.setReg (Reg.dieRepairStatus d) (code * 2 ^ 16 + y)
  if code ≠ 0 then s1
  else
    let s2 := s1.setRow d y value
    let s3 := if g ≠ f then
        let t := ((List.range 17).filter (fun x => decide (g ≤ x))).foldl (fun s x => s.bankReset (d * 272 + y * 17 + x)) s2
        { t with job := { t.job with mustRestore := t.job.mustRestore || t.jobState == jobSTOPPED } }
      else s2
    (s3.repairDue (g != f) 4 d y g 0).repairDue (isBit value 9 && !isBit o 9) 5 d y 0 0

/-- DIE_ROW_REPAIR_WRITE (R194, R196). -/
def execDieRowRepairWrite (d : Die) (y : Fin 16) (value : Nat) (s : State) : Host.Outcome State Fault Refusal :=
  .next (s.dieWrite (fun s => s.rowRepairWrite d.val y.val value))

/-! ### The repair record at bring-up (R448) -/

/-- Applies one entry to the repair registers. -/
def State.applyEntry (s : State) (e : List Byte) : State :=
  let d := leAt e 1 1
  let y := leAt e 2 1
  let x := leAt e 3 1
  let p := d * 272 + y * 17 + x
  let row := s.reg (Reg.dieRowRepair d y)
  match leAt e 0 1 with
  | 1 => s.setArrMap p (setBits (s.reg (Reg.tlArrRepair p)) 6 0 (leAt e 4 4))
  | 2 => s.setArrMap p (setBits (s.reg (Reg.tlArrRepair p)) 9 9 1)
  | 3 => s.setArrMap p (setBits (s.reg (Reg.tlArrRepair p)) 8 8 1)
  | 4 => s.setRow d y (setBits row 4 0 x)
  | 5 => s.setRow d y (setBits row 9 9 1)
  | _ => s

/-- Step 5 of R483: the repair record is applied; without a valid copy, REPAIR_FAULT. -/
def State.applyRepair (s : State) : State :=
  match s.repairCopy with
  | none =>
    ((s.setFld Reg.hqDevStatus 2 2 1).setFld Reg.netResStatus 0 0 1).event 0x090A sevFATAL srcDevice 0 []
  | some c => c.entries.foldl State.applyEntry (s.setFld Reg.hqDevStatus 2 2 0)

/-- The remap tables as the record gives them (R260, R278). -/
def State.loadRemaps (s : State) : State :=
  let es := match s.repairCopy with
    | none => []
    | some c => c.entries.filter (fun e => leAt e 0 1 == 6 && leAt e 4 4 % 2 == 0)
  es.foldl (fun s e =>
    let k := leAt e 1 1
    let v := leAt e 4 4
    { s.setFld (Reg.hbmRepair k) 47 39 (s.fld (Reg.hbmRepair k) 47 39 + 1) with
      remaps := s.remaps ++ [⟨k, bits v 31 26, bits v 25 22, bits v 21 4⟩] }) { s with remaps := [] }

/-! ### Bank owners, quantisation registers (R117, R128, R129, R170) -/

/-- A write of TL_BANK_OWN[b] of a physical tile (R170). -/
def State.bankOwnWrite (s : State) (p b value : Nat) : State :=
  let st := bits value 2 0
  if !s.idleJob || (st == 5 || st == 7) then s else s.bankGive p b st

/-- TL_BANK_OWN_WRITE (R170). -/
def execTlBankOwnWrite (w : TileWin) (b : Bank) (value : Nat) (s : State) : Host.Outcome State Fault Refusal :=
  .next (s.dieWrite (fun s => s.bankOwnWrite (s.winTile w) b.val value))

/-- A pattern is a positive normal FP32 number: a step that is not reserved (R117). -/
def stepOk (v : Nat) : Bool := decide (0x00800000 ≤ v) && decide (v < 0x7F800000)

/-- A zero point within −8 to 7 (R117). -/
def zeroInt4 (z : Nat) : Bool := decide (-8 ≤ signed 8 z) && decide (signed 8 z ≤ 7)

/-- A slot declaration holds no reserved value (R12, R129). -/
def slotCtlOk (v : Nat) : Bool :=
  bits v 31 24 != 0x80 && (bits v 31 24 != 0x81 && (decide (1 ≤ bits v 23 20) && (decide (bits v 23 20 ≤ 6)
    && (bits v 13 12 != 3 && bits v 11 10 != 3))))

/-- Writes a quantisation register at a window offset; `none` when the value is reserved or the offset is no such register. -/
def State.qntWrite (s : State) (p off v : Nat) : Option State :=
  if off = 0x600 then
    if v % 2 = 1 ∧ (List.range 64).any (fun n => !zeroInt4 (s.reg (Reg.tlQntChZero p n))) = true then none
    else some (s.setFld (Reg.tlQntChanCtl p) 0 0 v)
  else if 0x800 ≤ off ∧ off < 0x900 ∧ off % 4 = 0 then
    if stepOk (v % 2 ^ 32) then some ((s.setReg (Reg.tlQntChScale p ((off - 0x800) / 4)) (v % 2 ^ 32)).chanDerive p ((off - 0x800) / 4)) else none
  else if 0x900 ≤ off ∧ off < 0xA00 ∧ off % 4 = 0 then
    some ((s.setReg (Reg.tlQntChBias p ((off - 0x900) / 4)) (v % 2 ^ 32)).chanDerive p ((off - 0x900) / 4))
  else if 0xA00 ≤ off ∧ off < 0xB00 ∧ off % 4 = 0 then
    if s.fld (Reg.tlQntChanCtl p) 0 0 = 1 ∧ zeroInt4 (v % 256) = false then none
    else some ((s.setReg (Reg.tlQntChZero p ((off - 0xA00) / 4)) (v % 256)).chanDerive p ((off - 0xA00) / 4))
  else if 0xF00 ≤ off ∧ off < 0x1000 ∧ off % 16 = 0 then
    if slotCtlOk v then
      let i := (off - 0xF00) / 16
      some ((((s.setFld (Reg.tlQntSlotCtl p i) 31 16 (bits v 31 16)).setFld (Reg.tlQntSlotCtl p i) 13 9 (bits v 13 9)).setFld
        (Reg.tlQntSlotCtl p i) 0 0 (bit v 0)))
    else none
  else none

/-- The job state lets the host write the quantisation registers (R117, R242). -/
def State.qntOpen (s : State) : Bool := s.jobState != jobRUNNING && s.jobState != jobLOADING

/-- A host write of a quantisation register of a physical tile, discarded while the job state or the value does not admit it (R117, R129). -/
def State.qntHostWrite (s : State) (p off value : Nat) : State := if s.qntOpen then (s.qntWrite p off value).getD s else s

/-- TL_QNT_CLEAR.CAL (R129): every MIN to +∞, every MAX to −∞. -/
def State.calReset (s : State) (p : Nat) : State :=
  if s.qntOpen then (List.range 64).foldl (fun s n => (s.setReg (Reg.tlQntChMin p n) 0x7F800000).setReg (Reg.tlQntChMax p n) 0xFF800000) s
  else s

/-- TL_QNT_WRITE (R117, R129): a host write of one register of that map. -/
def execTlQntWrite (w : TileWin) (off value : Nat) (s : State) : Host.Outcome State Fault Refusal :=
  .next (s.dieWrite (fun s => s.qntHostWrite (s.winTile w) off value))

/-- QNT_CAL_RESET (R129). -/
def execQntCalReset (w : TileWin) (s : State) : Host.Outcome State Fault Refusal :=
  .next (s.dieWrite (fun s => s.calReset (s.winTile w)))

/-! ### Step limit, castle sizes, transport epoch (R246, R400, R455) -/

/-- NET_STEP_LIMIT_WRITE (R246). -/
def execNetStepLimitWrite (value : Nat) (s : State) : Host.Outcome State Fault Refusal :=
  if (s.jobState = jobLOADED ∨ s.jobState = jobSTOPPED) ∧ value % 2 ^ 64 ≠ 2 ^ 64 - 1 then .next (s.setReg Reg.netStepLimit value)
  else .next s

/-- HBM_CASTLE_SIZE_WRITE (R281, R455): in EMPTY; a size that leaves no job region is reserved. -/
def execHbmCastleSizeWrite (d : Die) (value : Nat) (s : State) : Host.Outcome State Fault Refusal :=
  let top := if d.val = 0 then s.imageOff else s.ownerOff
  if s.jobState ≠ jobEMPTY ∨ top ≤ value % 2 ^ 16 * 2 ^ 30 then .next s
  else
    let lo := min (s.castleOff d.val) (top - value % 2 ^ 16 * 2 ^ 30)
    let s1 := { s with hbm := Mem.zero s.hbm (dieBase d.val + lo) (dieBase d.val + top) }
    .next ((List.range 3).foldl (fun s i => s.setFld (Reg.netSnapSlot i) 0 0 0) (s1.setFld (Reg.hbmCastleSize d.val) 15 0 value))

/-- A write of XEPOCH while layer 1 runs restarts it from the first message (R459). -/
def State.layerRestart (s : State) : State :=
  let n := s.fld Reg.netSnapStatus 63 32
  match s.secureConn 8 with
  | none => s
  | some r => if isBit (s.reg Reg.netSnapStatus) 1 then s.sendParts r 0 (1 + n % 2) n else s

/-- XEPOCH_WRITE (R400, R459): a write of FRK_XPORT_CTL. XEPOCH is accepted in LOADED and STOPPED, and resets every connection. -/
def execXepochWrite (value : Nat) (s : State) : Host.Outcome State Fault Refusal :=
  if bits value 23 16 = 0 ∨ bits value 15 0 = 0 then .next s
  else
    let s1 := s.setFld Reg.frkXportCtl 23 0 (bits value 23 0)
    if s.jobState = jobLOADED ∨ s.jobState = jobSTOPPED then
      .next ({ s1.setFld Reg.frkXportCtl 31 24 (bits value 31 24) with conns := [] }.layerRestart)
    else .next s1

end Sys2Proof.Machine
end

