-- ==== Sys2Proof/Machine/Image.lean ====
section
/-! DEFINITION. The Thois image as the loader reads it: header, section table and the first two phases of validation (R212 to R217,
R240). -/

namespace Sys2Proof.Machine

/-- An image as it lies in a memory: base address and memory. -/
structure ImgSrc where
  m : Mem
  a : Nat

def ImgSrc.le (i : ImgSrc) (off n : Nat) : Nat := Mem.le i.m (i.a + off) n
def ImgSrc.bytes (i : ImgSrc) (off n : Nat) : List Byte := Mem.read i.m (i.a + off) n

/-- A failure of validation (R240, R247): code, section entry (0xFFFF for the header or the schedule), phase, position, plan, and the
tile it concerns. -/
structure Reject where
  code : Nat
  section_ : Nat
  phase : Nat
  position : Nat
  plan : Nat
  tile : Option Nat
  deriving DecidableEq, Repr

/-- The first failure of a list of checks. -/
def firstReject : List (Option Reject) → Option Reject
  | [] => none
  | some r :: _ => some r
  | none :: rest => firstReject rest

/-- A failure with `code` unless `ok`. -/
def check (ok : Bool) (r : Reject) : Option Reject := if ok then none else some r

/-! ### Header (R212, R213) -/

def imgMagic : List Byte := [0x54, 0x48, 0x4F, 0x49, 0x53, 0x49, 0x4D, 0x47]

def headReject (code pos : Nat) : Reject := ⟨code, 0xFFFF, 1, pos, 0, none⟩

/-- The checks of the header: `given` bytes were handed over; AXES are the device's own (R385). -/
def State.headerCheck (s : State) (i : ImgSrc) (given : Nat) : Option Reject :=
  let size := i.le 16 8
  let count := i.le 24 4
  let table := i.le 28 4
  let axes := (List.range 4).map (fun k => i.le (48 + k) 1)
  firstReject [
    check (decide (128 ≤ given)) (headReject 0x0102 16),
    check (i.bytes 0 8 == imgMagic) (headReject 0x0520 0),
    check (i.le 8 2 == 1) (headReject 0x0520 8),
    check (i.le 10 2 == 0) (headReject 0x0520 10),
    check (i.le 12 4 == 128) (headReject 0x0520 12),
    check (i.le 124 4 == crc32c (i.bytes 0 124)) (headReject 0x0520 124),
    check (decide (128 ≤ size)) (headReject 0x0520 16),
    check (decide (size ≤ 2 ^ 31)) (headReject 0x053C 16),
    check (decide (size ≤ given)) (headReject 0x0102 16),
    check (decide (count ≤ 65535)) (headReject 0x0520 24),
    check (table % 64 == 0 && (count == 0 || (decide (128 ≤ table) && decide (table + 32 * count ≤ size)))) (headReject 0x0520 28),
    check (decide (12 ≤ i.le 32 1) && decide (i.le 32 1 ≤ 24)) (headReject 0x0525 32),
    check (zeroAt (i.bytes 0 128) 33 7) (headReject 0x0524 33),
    check (i.le 40 8 != 0) (headReject 0x0520 40),
    check (axes.all (fun l => decide (1 ≤ l) && decide (l ≤ 32))) (headReject 0x053F 48),
    check ((List.range 4).all (fun k => decide (coord s.ownAddr k < axes.getD k 0) && axes.getD k 0 == s.axisLen k)) (headReject 0x0522 48),
    check (zeroAt (i.bytes 0 128) 52 72) (headReject 0x0524 52)]

/-! ### The section table (R214 to R216) -/

/-- A section-table entry. -/
structure TableEntry where
  typ : Nat
  plan : Nat
  value : Nat
  mask : Nat
  die : Nat
  y : Nat
  x : Nat
  off : Nat
  len : Nat
  crc : Nat
  deriving DecidableEq, Repr

def ImgSrc.entry (i : ImgSrc) (k : Nat) : TableEntry :=
  let a := i.le 28 4 + 32 * k
  ⟨i.le a 2, i.le (a + 2) 1, i.le (a + 4) 4, i.le (a + 8) 4, i.le (a + 12) 1, i.le (a + 13) 1, i.le (a + 14) 1,
    i.le (a + 16) 8, i.le (a + 24) 4, i.le (a + 28) 4⟩

/-- Scopes of the section types (R215): 0 device, 1 die, 2 tile or router, 3 device or die; none: reserved. -/
def typeScope (t : Nat) : Option Nat :=
  if [1, 2, 3, 4, 0x0E, 0x10, 0x11, 0x32, 0x41, 0x42, 0x50, 0x60, 0x70].contains t then some 0
  else if [6, 0x30].contains t then some 1
  else if t = 8 then some 3
  else if [5, 7, 9, 10, 11, 12, 13, 0x20, 0x31, 0x40, 0x43, 0x61].contains t then some 2
  else none

/-- The fields DIE, TILE_Y and TILE_X suit the scope. -/
def TableEntry.scopeOk (e : TableEntry) : Bool :=
  let die := e.die == 0xFF || decide (e.die < 4)
  let y := e.y == 0xFF || decide (e.y < 16)
  let x := e.x == 0xFF || decide (e.x < 16)
  match typeScope e.typ with
  | none => false
  | some 0 => e.die == 0xFF && (e.y == 0xFF && e.x == 0xFF)
  | some 2 => die && (y && x)
  | some _ => die && (e.y == 0xFF && e.x == 0xFF)

/-- The device of address `a` selects the section. -/
def TableEntry.selected (e : TableEntry) (a : Nat) : Bool := a &&& (e.mask % 2 ^ 20) == (e.value % 2 ^ 20) &&& (e.mask % 2 ^ 20)

/-- Two byte ranges overlap. -/
def overlap (a n b m : Nat) : Bool := decide (0 < n) && (decide (0 < m) && (decide (a < b + m) && decide (b < a + n)))

/-- Two values of a scope field name a common position. -/
def fieldMeets (a b : Nat) : Bool := a == 0xFF || (b == 0xFF || a == b)

def TableEntry.width (e : TableEntry) : Nat :=
  (if e.die == 0xFF then 4 else 1) * (if e.y == 0xFF then 16 else 1) * (if e.x == 0xFF then 16 else 1)

/-- Two selected sections of one type and plan, at one width, that cover a common position (R216). -/
def TableEntry.clash (e f : TableEntry) : Bool :=
  e.typ == f.typ && (e.plan == f.plan && (e.width == f.width && (fieldMeets e.die f.die && (fieldMeets e.y f.y && fieldMeets e.x f.x))))

def tabReject (code k : Nat) : Reject := ⟨code, k, 1, 0, 0, none⟩

/-- The checks of table entry k, given the entries before it. -/
def State.entryCheck (s : State) (i : ImgSrc) (before : List TableEntry) (k : Nat) : Option Reject :=
  let e := i.entry k
  let a := i.le 28 4 + 32 * k
  let n := i.le 24 4
  firstReject [
    check (i.le (a + 3) 1 == 0 && (i.le (a + 15) 1 == 0 && (decide (e.value < 2 ^ 20) && (decide (e.mask < 2 ^ 20)
      && (e.plan == 0 || (e.typ == 9 || e.typ == 3)))))) (tabReject 0x0524 k),
    check ((typeScope e.typ).isSome) (tabReject 0x0523 k),
    check e.scopeOk (tabReject 0x0523 k),
    check (e.off % 64 == 0 && (decide (128 ≤ e.off) && decide (e.off + e.len ≤ i.le 16 8))) (tabReject 0x0523 k),
    check (!overlap e.off e.len (i.le 28 4) (32 * n) && before.all (fun f => !overlap e.off e.len f.off f.len)) (tabReject 0x0523 k),
    check (e.crc == crc32c (i.bytes e.off e.len)) (tabReject 0x0521 k),
    check (!e.selected s.ownAddr || before.all (fun f => !(f.selected s.ownAddr && e.clash f))) (tabReject 0x0523 k)]

/-- All entries of the table. -/
def ImgSrc.entries (i : ImgSrc) : List TableEntry := (List.range (i.le 24 4)).map i.entry

/-- The selected sections, in table order. -/
def State.imageOf (s : State) (i : ImgSrc) : Image where
  jobId := i.le 40 8
  moveExp := i.le 32 1
  size := i.le 16 8
  axes := i.le 48 4
  sections := ((List.range (i.le 24 4)).filter (fun k => (i.entry k).selected s.ownAddr)).map (fun k =>
    let e := i.entry k
    ⟨k, e.typ, e.plan, e.die, e.y, e.x, i.bytes e.off e.len⟩)

/-- Phase 1 (R240). -/
def State.phase1 (s : State) (i : ImgSrc) (given : Nat) : Option Reject :=
  match s.headerCheck i given with
  | some r => some r
  | none =>
    let n := i.le 24 4
    if n = 0 then none
    else
      match firstReject ((List.range n).map (fun k => s.entryCheck i (i.entries.take k) k)) with
      | some r => some r
      | none =>
        let sel := i.entries.filter (fun e => e.selected s.ownAddr)
        check (sel.any (fun e => e.typ == 1) && sel.any (fun e => e.typ == 2)) ⟨0x0523, 0xFFFF, 1, 0, 0, none⟩

/-! ### Phase 2 (R217) -/

/-- The section of device scope of a type. -/
def Image.dev (im : Image) (typ : Nat) : List Byte :=
  match im.governing typ 0 0 0 0 with
  | none => []
  | some c => c.content

/-- Its place in the table. -/
def Image.devIndex (im : Image) (typ : Nat) : Nat :=
  match im.governing typ 0 0 0 0 with
  | none => 0xFFFF
  | some c => c.index

/-- Installed capacity per stack in GB (R252). -/
def State.stackGb (s : State) : Nat := if s.small then 48 else 64

def State.phase2 (s : State) (im : Image) : Option Reject :=
  let t := im.dev 1
  let r := fun pos => (⟨0x0522, im.devIndex 1, 2, pos, 0, none⟩ : Reject)
  firstReject [
    check (leAt t 0 2 == 4) (r 0),
    check (leAt t 2 1 == 0xB0) (r 2),
    check (decide (leAt t 4 2 ≤ s.stackGb)) (r 4),
    check (leAt t 6 2 == 1024) (r 6),
    check (leAt t 8 4 == 8192) (r 8),
    check (leAt t 12 2 == 4096) (r 12),
    check (leAt t 14 2 == 256) (r 14),
    check (leAt t 16 4 == 1300) (r 16)]

end Sys2Proof.Machine
end

