-- ==== Sys2Proof/Machine/Stack.lean ====
section
/-! DEFINITION. The stack engines (R312 to R319): pushes and pops of activation frames, off-loads to the host and prefetches. -/

namespace Sys2Proof.Machine

def State.stkHigh (s : State) (d : Nat) : Nat := leAt (s.stackSec d) 16 8
def State.stkLow (s : State) (d : Nat) : Nat := leAt (s.stackSec d) 24 8

/-- Bytes of the frames of die d whose state `p` marks. -/
def State.frameSum (s : State) (d : Nat) (p : Nat → Bool) : Nat :=
  ((List.range (s.frameCount d)).map (fun f => if p (s.frame d f).st then (s.frameRec d f).bytes else 0)).foldl (· + ·) 0

/-- The occupancy of die d's ring (R314). -/
def State.occupancy (s : State) (d : Nat) : Nat := s.frameSum d frameHolds

/-- Frames of die d that occupy storage and have not been popped in the present step. -/
def State.unpopped (s : State) (d : Nat) : List Nat :=
  (List.range (s.frameCount d)).filter (fun f => (s.frameRec d f).policy != 2 && !(s.frame d f).popped)

/-- Frame f lies in the prefetch window: fewer than PREFETCH unpopped frames pop before it (R314). -/
def State.inWindow (s : State) (d f : Nat) : Bool :=
  let r := s.frameRec d f
  (s.unpopped d).contains f && decide (((s.unpopped d).filter (fun g =>
    let q := s.frameRec d g
    decide (q.pop < r.pop) || (q.pop == r.pop && decide (g < f)))).length < leAt (s.stackSec d) 33 1)

/-- The stack engines start work: RUNNING (R332). -/
def State.stackRuns (s : State) : Bool := s.running

/-- FRAME_PUSH (R315, R312): in its PUSH_MOVE a frame enters PUSHING; a RECOMPUTE frame is only counted. -/
def execFramePush (d : Die) (f : Nat) (s : State) : Host.Outcome State Fault Refusal :=
  let r := s.frameRec d.val f
  let x := s.frame d.val f
  if !s.stackRuns || (x.pushed || (decide (s.frameCount d.val ≤ f) || r.push != s.stepMove)) then .next s
  else if r.policy = 2 then .next ((s.setFrame d.val f { x with pushed := true }).count (Reg.dieStkCount d.val 0) 1)
  else if x.st ≠ 0 then .next s
  else
    let wait := !s.rangeFree d.val f
    .next (((s.setFrame d.val f ⟨1, wait, true, false⟩).count (Reg.dieStkCount d.val 0) 1).count (Reg.dieStkCount d.val 6) (b2n wait))

/-- A frame in PUSHING needs the range that frame f holds (R315). -/
def State.pushNeeds (s : State) (d f : Nat) : Bool :=
  let r := s.frameRec d f
  (List.range (s.frameCount d)).any (fun g =>
    let q := s.frameRec d g
    g != f && ((s.frame d g).st == 1 && meets r.off r.bytes q.off q.bytes))

/-- A frame that R316 may off-load. -/
def State.eligible (s : State) (d f : Nat) : Bool :=
  (s.frame d f).st == 2 && ((s.frameRec d f).policy == 1 && !s.inWindow d f)

/-- The watermarks ask for the off-load of frame f: the eligible frame with the latest POP_MOVE (R316). -/
def State.markNeeds (s : State) (d f : Nat) : Bool :=
  decide (s.stkHigh d < s.occupancy d) && (decide (s.stkLow d < s.occupancy d - s.frameSum d (fun x => x == 3)) && (s.eligible d f
  && (List.range (s.frameCount d)).all (fun g => !s.eligible d g || decide ((s.frameRec d g).pop ≤ (s.frameRec d f).pop))))

/-- FRAME_OFFLOAD (R315, R316): the stack engine starts the off-load of a RESIDENT OFFLOAD frame. -/
def execFrameOffload (d : Die) (f : Nat) (s : State) : Host.Outcome State Fault Refusal :=
  let x := s.frame d.val f
  if !s.stackRuns || (x.st != 2 || (s.frameRec d.val f).policy != 1) then .next s
  else if s.pushNeeds d.val f then .next ((s.setFrame d.val f { x with st := 3 }).count (Reg.dieStkCount d.val 4) 1)
  else if s.markNeeds d.val f then .next (s.setFrame d.val f { x with st := 3 })
  else .next s

/-- The host range of a frame, as a device address (R251, R316). -/
def State.frameHost (s : State) (d f : Nat) : Nat := 2 ^ 47 + leAt (s.stackSec d) 32 1 % 128 * 2 ^ 40 + (s.frameRec d f).hostOff

/-- OFFLOAD_COMPLETE (R316): the host has acknowledged the last write of the copy. -/
def execOffloadComplete (d : Die) (f : Nat) (mem : MemEnv) (s : State) : Host.Outcome State Fault Refusal :=
  let x := s.frame d.val f
  let r := s.frameRec d.val f
  if x.st ≠ 3 then .next s
  else
    let a := s.ringBase d.val + r.off
    let s1 := s.hbmAccess mem [⟨a, r.bytes⟩]
    .next (((s1.devWrite (s.frameHost d.val f) ((s1.delivered mem).devRead a r.bytes)).setFrame d.val f { x with st := 4 }).count
      (Reg.dieStkCount d.val 2) 1)

/-- FRAME_PREFETCH (R317): a HOSTED frame starts its copy back. -/
def execFramePrefetch (d : Die) (f : Nat) (s : State) : Host.Outcome State Fault Refusal :=
  let x := s.frame d.val f
  if !s.stackRuns || (x.st != 4 || !s.rangeFree d.val f) then .next s
  else if x.popped || (s.inWindow d.val f && decide (s.occupancy d.val + (s.frameRec d.val f).bytes ≤ s.stkHigh d.val)) then
    .next (s.setFrame d.val f { x with st := 5 })
  else .next s

/-- PREFETCH_COMPLETE (R317, R318): the copy from the host has landed; a pop that waited goes on. -/
def execPrefetchComplete (d : Die) (f : Nat) (s : State) (mem : MemEnv := []) : Host.Outcome State Fault Refusal :=
  let x := s.frame d.val f
  let r := s.frameRec d.val f
  let a := s.ringBase d.val + r.off
  if x.st ≠ 5 then .next s
  else .next ((((s.hbmAccess mem [] [⟨a, r.bytes⟩]).devPut mem a (s.devRead (s.frameHost d.val f) r.bytes)).setFrame d.val f
    { x with st := if x.popped then 6 else 2 }).count (Reg.dieStkCount d.val 3) 1)

/-- FRAME_POP (R318, R312): in its POP_MOVE a frame enters POPPING, an off-load under way being abandoned; a HOSTED or PREFETCHING
frame waits for its copy. -/
def execFramePop (d : Die) (f : Nat) (s : State) : Host.Outcome State Fault Refusal :=
  let r := s.frameRec d.val f
  let x := s.frame d.val f
  if !s.stackRuns || (x.popped || (decide (s.frameCount d.val ≤ f) || r.pop != s.stepMove)) then .next s
  else
    let s1 := s.count (Reg.dieStkCount d.val 1) 1
    if r.policy = 2 then .next (s1.setFrame d.val f { x with popped := true })
    else match x.st with
      | 2 => .next (s1.setFrame d.val f { x with st := 6, popped := true })
      | 3 => .next ((s1.setFrame d.val f { x with st := 6, popped := true }).count (Reg.dieStkCount d.val 5) 1)
      | 4 => .next ((s1.setFrame d.val f { x with waited := true, popped := true }).count (Reg.dieStkCount d.val 6) 1)
      | 5 => .next ((s1.setFrame d.val f { x with waited := true, popped := true }).count (Reg.dieStkCount d.val 6) 1)
      | _ => .next s

/-- The tick that ends a step: what the frames keep for one step only is forgotten (R318). -/
def State.frameStep (s : State) : State :=
  { s with frames := (s.frames.filter (fun e => e.2.st != 0)).map (fun (e : Nat × Frame) => (e.1, (⟨e.2.st, false, false, false⟩ : Frame))) }

end Sys2Proof.Machine
end

