-- ==== Sys2Proof/Machine/Content.lean ====
section
/-! DEFINITION. Phase 3 of validation, first part: how failures are ordered, and the content of the sections of the chapters "The Thois
Image" and "Quantisation, Scaling and Calibration" but for BODY (R214, R217 to R229, R240). -/

namespace Sys2Proof.Machine

/-! ### Failures in their order (R240) -/

/-- A failure of phase 3: the table entry it is reported at, its rank there (0 for the head, i + 1 for entry or word i), position, code,
and the tile it concerns. -/
structure Flaw where
  entry : Nat
  rank : Nat
  pos : Nat
  code : Nat
  tile : Option Nat
  deriving DecidableEq, Repr

/-- `b` comes strictly before `a`: sections in table order, then entries or words in order. -/
def Flaw.after (a b : Flaw) : Bool := decide (b.entry < a.entry) || (a.entry == b.entry && decide (b.rank < a.rank))

/-- The first of the failures. -/
def firstFlaw : List Flaw → Option Flaw
  | [] => none
  | f :: fs => match firstFlaw fs with
    | none => some f
    | some g => if f.after g then some g else some f

/-- The tile of a section that names one tile. -/
def Section.tile (c : Section) : Option Nat :=
  if c.die < 4 && (c.y < 16 && c.x < 16) then some (c.die * 256 + c.y * 16 + c.x) else none

/-- A failure at a byte of a section's head unless `ok`. -/
def Section.byte (c : Section) (ok : Bool) (code off : Nat) : List Flaw := if ok then [] else [⟨c.index, 0, off, code, c.tile⟩]

/-- A failure at entry or word i unless `ok`. -/
def Section.item (c : Section) (ok : Bool) (code i : Nat) : List Flaw := if ok then [] else [⟨c.index, i + 1, i, code, c.tile⟩]

/-- A failure at entry or word i that concerns tile t, unless `ok`. -/
def Section.itemAt (c : Section) (ok : Bool) (code i t : Nat) : List Flaw := if ok then [] else [⟨c.index, i + 1, i, code, some t⟩]

/-- The content ends before byte n: a count beyond its buffer (R16). -/
def Section.holds (c : Section) (n : Nat) : List Flaw := if n ≤ c.content.length then [] else [⟨c.index, 0, c.content.length, 0x0102, c.tile⟩]

/-- Bytes n onward are beyond the content and must be zero (R214). -/
def Section.tail (c : Section) (n : Nat) : List Flaw :=
  match (c.content.drop n).findIdx? (fun b => b != 0) with
  | none => []
  | some i => [⟨c.index, 2 ^ 32, n + i, 0x0524, c.tile⟩]

/-- A place within a section: a byte of its head, or an entry or word. -/
inductive Spot where
  | head (byte : Nat)
  | entry (i : Nat)
  deriving DecidableEq, Repr

/-- The rank of a place in the order of R240: the head, then entries in order. -/
def Spot.rank : Spot → Nat
  | .head _ => 0
  | .entry i => i + 1

/-- The position that a failure there reports. -/
def Spot.pos : Spot → Nat
  | .head b => b
  | .entry i => i

/-- A failure that relates sections: it is reported at the last of them in table order, at place `i` of `c` and the given places of the
others (R240). -/
def Section.joint (c : Section) (ok : Bool) (code : Nat) (i : Spot) (t : Option Nat) (os : List (Option Section × Spot)) : List Flaw :=
  if ok then []
  else
    let f := (os.filterMap (fun o => o.1.map (fun x => (x.index, o.2)))).foldl
      (fun (a : Nat × Spot) b => if a.1 < b.1 then b else a) (c.index, i)
    [⟨f.1, f.2.rank, f.2.pos, code, t⟩]

/-- The section of a type and plan that governs a tile. -/
def Image.tileSec (im : Image) (typ plan t : Nat) : Option Section := im.governing typ plan (tDie t) (tY t) (tX t)

/-- The section of device scope of a type. -/
def Image.devSec (im : Image) (typ : Nat) : Option Section := im.governing typ 0 0 0 0

/-- The tiles that a section governs (R216). -/
def Image.tilesOf (im : Image) (c : Section) : List Nat :=
  (List.range 1024).filter (fun t => match im.tileSec c.typ c.plan t with
    | none => false
    | some x => x.index == c.index)

/-- The dies whose die-scope section of its type `c` is. -/
def Image.diesOf (im : Image) (c : Section) : List Nat :=
  (List.range 4).filter (fun d => match im.governing c.typ c.plan d 0 0 with
    | none => false
    | some x => x.index == c.index)

/-- The state as the checks read it: the image in place, its moves and move length in their registers. -/
def State.probe (s : State) (im : Image) : State :=
  (({ s with job := { s.job with image := some im } }).setReg Reg.netStepMoves (leAt (im.dev 2) 4 4)).setReg Reg.netMoveCtl im.moveExp

/-- A line address has bit 15 clear (R227). -/
def lineOk (bs : List Byte) (i : Nat) : Bool := decide (leAt bs i 2 < 2 ^ 15)

/-- Lines from `line` for `n` lines stay in one bank (R163). -/
def linesFit (line n : Nat) : Bool := decide (line % 2 ^ 13 + n ≤ 2 ^ 13)

/-- Record i of width w behind a head of h bytes. -/
def Section.record (c : Section) (h w i : Nat) : List Byte := (c.content.drop (h + w * i)).take w

/-! ### TARGET, SEQUENCE, ROUTES (R217 to R219) -/

def targetFlaws (c : Section) : List Flaw :=
  c.holds 64 ++ (c.byte (zeroAt c.content 3 1) 0x0524 3 ++ (c.byte (zeroAt c.content 20 44) 0x0524 20 ++ c.tail 64))

/-- The first VALID slot of the training class that a QUANT section declares. -/
def trainingSlot (c : Section) : Option Nat :=
  (List.range 16).find? (fun i => isBit (leAt c.content (4 * i) 4) 0 && !isBit (leAt c.content (4 * i) 4) 9)

def declaresTraining (c : Section) : Bool := (trainingSlot c).isSome

def sequenceFlaws (im : Image) (c : Section) : List Flaw :=
  let b := c.content
  let n := leAt b 2 2
  let plans := leAt b 0 2
  let scale := leAt b 8 4
  let sum := ((List.range n).map (fun e => leAt b (17 + 4 * e) 3)).foldl (· + ·) 0
  c.holds (16 + 4 * n) ++ (c.byte (decide (plans ≤ 256)) 0x053C 0 ++ (c.byte (plans != 0) 0x0526 0
  ++ (c.byte (n != 0 && n != 0xFFFF) 0x0526 2 ++ (c.byte (leAt b 4 4 == sum) 0x0526 4
  ++ (c.byte (decide (scale < sum) || scale == 0xFFFFFFFF) 0x0526 8 ++ (c.byte (zeroAt b 12 4) 0x0524 12
  ++ ((List.range n).flatMap (fun e =>
      let rep := leAt b (17 + 4 * e) 3
      c.item (decide (leAt b (16 + 4 * e) 1 < plans) && (rep != 0 && rep != 0xFFFFFF)) 0x0526 e)
  ++ ((im.sections.filter (fun q => q.typ == secQUANT && !(im.tilesOf q).isEmpty)).flatMap (fun q =>
      c.joint (scale != 0xFFFFFFFF || !declaresTraining q) 0x0526 (.head 8) none [(some q, .head (4 * (trainingSlot q).getD 0))])
  ++ c.tail (16 + 4 * n)))))))))

/-- The plan of a BODY or ROUTES section lies below PLAN_COUNT (R218). -/
def planFlaws (im : Image) (c : Section) : List Flaw :=
  c.joint (decide (c.plan < leAt (im.dev 2) 0 2)) 0x0526 (.head 0) none [(im.devSec 2, .head 0)]

def routesFlaws (im : Image) (c : Section) : List Flaw :=
  planFlaws im c ++ (c.holds 8200 ++ (c.byte (zeroAt c.content 0 8) 0x0524 0 ++ c.tail 8200))

/-! ### GROUPS (R198, R220) -/

/-- A record of GROUPS: its head, its tile references, how many of them the content holds, and whether its padding is zero. -/
structure GroupRec where
  head : List Byte
  tiles : List Nat
  held : Nat
  padOk : Bool
  deriving DecidableEq, Repr

/-- `n` records with heads of `h` bytes whose count lies at byte `p`, and the bytes after them. -/
def groupRecs (h p : Nat) : Nat → List Byte → List GroupRec × List Byte
  | 0, bs => ([], bs)
  | n + 1, bs =>
    let k := leAt bs p 2
    let w := alignUp (h + 2 * k) 4
    let r := groupRecs h p n (bs.drop w)
    (⟨bs.take h, (List.range k).map (fun i => leAt bs (h + 2 * i) 2), min k ((bs.length - h) / 2), zeroAt (bs.take w) (h + 2 * k) 2⟩ :: r.1, r.2)

/-- The way of the row that a slot sends leads through STATIC slots into an ADD slot of router b. -/
def State.addReached (s : State) (plan b : Nat) : Nat → Slot → Bool
  | 0, _ => false
  | fuel + 1, q =>
    match s.taker plan q with
    | none => false
    | some r => if r.x.kind = 1 then r.t == b else r.x.kind == 0 && State.addReached s plan b fuel r

/-- Under some plan the contribution of chain tile a enters an ADD slot of the router of the next tile b: a's own rows where a is the
first tile, the sum formed at a elsewhere (R198). -/
def State.chainJoins (s : State) (im : Image) (first : Bool) (a b : Nat) : Bool :=
  (List.range (leAt (im.dev 2) 0 2)).any (fun p => (s.slotsOf p a).any (fun q =>
    (q.x.kind == 1 || (first && (q.x.kind == 0 && q.x.inp == 0))) && s.addReached p b 4096 q))

def groupsFlaws (s : State) (im : Image) (c : Section) : List Flaw :=
  let n := leAt c.content 0 2
  let m := leAt c.content 2 2
  let gs := groupRecs 4 2 n (c.content.drop 8)
  let cs := groupRecs 8 4 m gs.2
  let used := c.content.length - cs.2.length
  let ids := gs.1.map (fun r => leAt r.head 0 1)
  let members := gs.1.flatMap (fun r => r.tiles)
  let whole := fun (g : GroupRec) (h : Nat) => g.head.length == h && g.tiles.length == g.held
  c.byte (n != 0xFFFF) 0x053A 0 ++ c.byte (m != 0xFFFF) 0x053A 2 ++ c.byte (zeroAt c.content 4 4) 0x0524 4
  ++ (List.range n).flatMap (fun i =>
      let r := gs.1.getD i ⟨[], [], 0, true⟩
      c.item (whole r 4) 0x0102 i
      ++ c.item (r.padOk && r.tiles.all (fun t => decide (t < 1024))) 0x0524 i
      ++ c.item (decide (leAt r.head 1 1 < 4) && (!r.tiles.isEmpty && (decide (r.tiles.length ≤ 1024) && !hasDup r.tiles))) 0x053A i
      ++ c.item (!(ids.take i).contains (leAt r.head 0 1)) 0x053A i
      ++ c.item (r.tiles.all (fun t => decide ((members.filter (fun u => u == t)).length ≤ 4))) 0x053A i)
  ++ (List.range m).flatMap (fun j =>
      let r := cs.1.getD j ⟨[], [], 0, true⟩
      let g := match gs.1.find? (fun g => leAt g.head 0 1 == leAt r.head 2 1) with
        | none => []
        | some g => g.tiles
      c.item (whole r 8) 0x0102 (n + j)
      ++ c.item (r.padOk && (zeroAt r.head 3 1 && (zeroAt r.head 6 2 && r.tiles.all (fun t => decide (t < 1024))))) 0x0524 (n + j)
      ++ c.item (decide (2 ≤ r.tiles.length) && (decide (r.tiles.length ≤ 1024) && (!hasDup r.tiles && r.tiles.all (fun t => g.contains t))))
        0x053A (n + j)
      ++ (List.range (r.tiles.length - 1)).flatMap (fun i =>
          let a := r.tiles.getD i 0
          let b := r.tiles.getD (i + 1) 0
          c.joint (s.chainJoins im (i == 0) a b) 0x053A (.entry (n + j)) (some b)
            [(im.tileSec secSLOTS 0 a, .head 0), (im.tileSec secSLOTS 0 b, .head 0)]))
  ++ c.tail used

/-! ### SLOTS and LISTS (R187 to R189, R221, R222) -/

/-- A port code that names a port (R187). -/
def portOk (p : Nat) : Bool := decide (p ≤ 8)

def slotsFlaws (im : Image) (c : Section) : List Flaw :=
  let n := leAt c.content 0 2
  c.byte (decide (n ≤ 4096)) 0x053C 0 ++ (c.holds (16 + 16 * n) ++ (c.byte (zeroAt c.content 2 14) 0x0524 2
  ++ ((List.range n).flatMap (fun i =>
      let r := c.record 16 16 i
      let e := slotEntryOf r
      c.item (!isBit (leAt r 1 1) 7 && (decide (leAt r 2 1 < 16) && (zeroAt r 3 1 && (zeroAt r 7 1 && zeroAt r 14 2)))) 0x0524 i
      ++ (c.item (e.kind != 7 && (portOk e.out && (portOk e.inp && (if e.kind = 1 then portOk e.in2 else e.in2 == 15)))) 0x053F i
      ++ (c.item (e.kind != 1 || decide (e.fmt < 3)) 0x0537 i ++ (c.item (e.kind == 1 || e.fmt == 0) 0x053F i
      ++ (c.item (e.stride != 0 && e.count != 0xFFFF) 0x053F i
      ++ c.item (e.count == 0 || decide (e.start + (e.count - 1) * e.stride < 2 ^ im.moveExp)) 0x053F i)))))
  ++ c.tail (16 + 16 * n))))

/-- The groups that GROUPS gives: entry, GROUP, HOME_DIE. -/
def Image.groupHomes (im : Image) : List (Nat × Nat × Nat) :=
  let b := im.dev secGROUPS
  let gs := (groupRecs 4 2 (leAt b 0 2) (b.drop 8)).1
  (List.range gs.length).map (fun i =>
    let r := gs.getD i ⟨[], [], 0, true⟩
    (i, leAt r.head 0 1, leAt r.head 1 1))

def listsFlaws (im : Image) (c : Section) : List Flaw :=
  let n := leAt c.content 0 2
  let recs := (List.range n).map (c.record 8 24)
  let top := 2 ^ im.moveExp
  let moves := leAt (im.dev 2) 4 4
  let homes := im.groupHomes
  c.byte (decide (n ≤ 64)) 0x053C 0 ++ (c.holds (8 + 24 * n) ++ (c.byte (zeroAt c.content 2 6) 0x0524 2
  ++ (c.byte (decide ((recs.map (fun r => leAt r 4 2)).foldl (· + ·) 0 ≤ 65536)) 0x0538 0
  ++ ((List.range n).flatMap (fun i =>
      let r := c.record 8 24 i
      let o := leAt r 8 4 * 2 ^ 24 + leAt r 12 3
      let q := leAt r 16 4 * 2 ^ 24 + leAt r 20 3
      c.item (zeroAt r 3 1 && (zeroAt r 6 2 && (zeroAt r 15 1 && zeroAt r 23 1))) 0x0524 i
      ++ (c.item (decide (leAt r 0 1 < 64) && (decide (1 ≤ leAt r 2 1) && (decide (leAt r 2 1 ≤ 4)
        && (leAt r 4 2 != 0 && (leAt r 4 2 != 0xFFFF && (decide (leAt r 12 3 < top) && decide (leAt r 20 3 < top))))))) 0x0538 i
      ++ (c.item (decide (o < q)) 0x0538 i
      ++ (c.item (!((recs.take i).map (fun p => leAt p 0 1)).contains (leAt r 0 1)) 0x0538 i
      ++ (c.joint (decide (leAt r 16 4 < moves)) 0x0538 (.entry i) none [(im.devSec 2, .head 4)]
      ++ c.joint (match homes.find? (fun h => h.2.1 == leAt r 1 1) with
          | none => false
          | some h => (im.diesOf c).all (fun d => d == h.2.2)) 0x0538 (.entry i) none
          [(im.devSec secGROUPS, match homes.find? (fun h => h.2.1 == leAt r 1 1) with
            | none => .head 0
            | some h => .entry h.1)])))))
  ++ c.tail (8 + 24 * n)))))

/-! ### BANKS and MODES (R223, R224) -/

def banksFlaws (c : Section) : List Flaw :=
  let n := leAt c.content 4 4
  let ends := (List.range n).map (fun i => leAt (c.record 16 16 i) 8 8 + 64 * leAt (c.record 16 16 i) 4 2)
  c.byte ((List.range 4).all (fun b => decide (leAt c.content b 1 < 7) && leAt c.content b 1 != 5)) 0x052D 0
  ++ (c.byte (zeroAt c.content 8 8) 0x0524 8 ++ (c.holds (16 + 16 * n)
  ++ ((List.range n).flatMap (fun i =>
      let r := c.record 16 16 i
      c.item (zeroAt r 1 1 && zeroAt r 6 2) 0x0524 i
      ++ (c.item (decide (leAt r 0 1 < 4) && (decide (leAt r 2 2 < 2 ^ 13) && (leAt r 8 8 % 64 == 0 && leAt r 4 2 != 0xFFFF))) 0x053F i
      ++ c.item (linesFit (leAt r 2 2) (leAt r 4 2) && decide (leAt r 8 8 + 64 * leAt r 4 2 ≤ c.content.length)) 0x0102 i))
  ++ c.tail (ends.foldl max (16 + 16 * n)))))

def modesFlaws (c : Section) : List Flaw :=
  let n := leAt c.content 0 4
  c.holds (8 + 8 * n) ++ (c.byte (zeroAt c.content 4 4) 0x0524 4
  ++ ((List.range n).flatMap (fun i =>
      let r := c.record 8 8 i
      let k := leAt r 0 1
      let x := leAt r 2 2
      c.item (zeroAt r 4 4) 0x0524 i ++ (c.item (decide (k < 7) && decide (leAt r 1 1 < 2)) 0x053F i
      ++ (c.item (decide (k < 5) || c.die == 0xFF) 0x0523 i
      ++ c.item (if k < 4 then decide (x < 256) else if k = 4 then decide (x < 4) else x == 0) 0x053F i)))
  ++ c.tail (8 + 8 * n)))

/-! ### LANDINGS, TENSORS, CONSTANTS (R225, R227) -/

def landingsFlaws (c : Section) : List Flaw :=
  let n := leAt c.content 0 2
  let recs := (List.range n).map (c.record 8 8)
  c.byte (decide (n ≤ 4096)) 0x053F 0 ++ (c.holds (8 + 8 * n) ++ (c.byte (zeroAt c.content 2 6) 0x0524 2
  ++ ((List.range n).flatMap (fun i =>
      let r := c.record 8 8 i
      c.item (lineOk r 0 && zeroAt r 4 4) 0x0524 i ++ (c.item (leAt r 2 2 != 0xFFFF) 0x053F i
      ++ (c.item (linesFit (leAt r 0 2) (leAt r 2 2)) 0x0102 i
      ++ c.item ((recs.take i).all (fun q => !overlap (leAt r 0 2) (leAt r 2 2) (leAt q 0 2) (leAt q 2 2))) 0x053B i)))
  ++ c.tail (8 + 8 * n))))

def tensorsFlaws (c : Section) : List Flaw :=
  let n := leAt c.content 0 4
  c.holds (8 + 16 * n) ++ (c.byte (zeroAt c.content 4 4) 0x0524 4
  ++ ((List.range n).flatMap (fun i =>
      let r := c.record 8 16 i
      c.item (zeroAt r 5 3) 0x0524 i ++ c.item (decide (leAt r 4 1 < 3) && leAt r 8 8 != 2 ^ 64 - 1) 0x053F i)
  ++ c.tail (8 + 16 * n)))

def constantsFlaws (c : Section) : List Flaw :=
  let n := leAt c.content 0 2
  c.byte (decide (n ≤ 256)) 0x053F 0 ++ (c.holds (4 + 4 * n) ++ (c.byte (zeroAt c.content 2 2) 0x0524 2 ++ c.tail (4 + 4 * n)))

/-! ### QUANT (R109, R117, R124, R226) -/

/-- A slot declaration holds no reserved value. -/
def slotValueOk (v : Nat) : Bool :=
  bits v 31 24 != 0x80 && (bits v 31 24 != 0x81 && (decide (1 ≤ bits v 23 20) && (decide (bits v 23 20 ≤ 6)
    && (bits v 13 12 != 3 && bits v 11 10 != 3))))

/-- A step is a positive normal finite FP32 value. -/
def channelStepOk (v : Nat) : Bool := !isBit v 31 && (decide (1 ≤ bits v 30 23) && decide (bits v 30 23 < 255))

/-- The fields of two declarations of one slot index that must agree (R124). -/
def slotAgrees (v w : Nat) : Bool :=
  bits v 31 16 == bits w 31 16 && bits v 13 9 == bits w 13 9

/-- The record of a tile's BANKS section that governs address `a` of the tile: the last that covers it (R223). -/
def Image.bankRec (im : Image) (t a : Nat) : Option Nat :=
  match im.tileSec secBANKS 0 t with
  | none => none
  | some c =>
    ((List.range (leAt c.content 4 4)).filter (fun i =>
      let r := c.record 16 16 i
      leAt r 0 1 == a / 2 ^ 19 && (decide (leAt r 2 2 * 64 ≤ a % 2 ^ 19) && decide (a % 2 ^ 19 < (leAt r 2 2 + leAt r 4 2) * 64)))).getLast?

/-- The byte that the BANKS section of a tile gives address `a` of a tile. -/
def Image.initialByte (im : Image) (t a : Nat) : Nat :=
  match im.tileSec secBANKS 0 t, im.bankRec t a with
  | some c, some i =>
    let r := c.record 16 16 i
    leAt c.content (leAt r 8 8 + (a % 2 ^ 19 - leAt r 2 2 * 64)) 1
  | _, _ => 0

/-- The tile's BANKS section and the place in it that gives address `a`. -/
def Image.bankPlace (im : Image) (t a : Nat) : Option Section × Spot :=
  (im.tileSec secBANKS 0 t, match im.bankRec t a with
    | none => .head 4
    | some i => .entry i)

/-- An entry of a zero-point table lies in the range of the weights. -/
def zeroPointOk (fmt v : Nat) : Bool := fmt == 5 || (decide (v < 8) || decide (0xF8 ≤ v))

def quantFlaws (im : Image) (c : Section) : List Flaw :=
  let b := c.content
  let n := leAt b 644 2
  let others := im.sections.filter (fun q => q.typ == secQUANT && (decide (q.index < c.index) && !(im.tilesOf q).isEmpty))
  c.byte (n != 0xFFFF) 0x053F 644 ++ c.holds (648 + 8 * n)
  ++ ((List.range 16).flatMap (fun i =>
      let v := leAt b (4 * i) 4
      c.byte (bits v 15 14 == 0 && bits v 8 1 == 0) 0x0524 (4 * i) ++ (c.byte (slotValueOk v) 0x053F (4 * i)
      ++ c.byte ((im.tilesOf c).isEmpty || others.all (fun q =>
          let w := leAt q.content (4 * i) 4
          !(isBit v 0 && isBit w 0) || slotAgrees v w)) 0x0533 (4 * i)))
  ++ ((List.range 64).flatMap (fun j => c.byte (channelStepOk (leAt b (64 + 4 * j) 4)) 0x053F (64 + 4 * j))
  ++ (c.byte (decide (leAt b 640 1 < 2)) 0x053F 640
  ++ ((List.range 64).flatMap (fun j => c.byte (leAt b 640 1 == 0 || zeroPointOk 6 (leAt b (576 + j) 1)) 0x053F (576 + j))
  ++ (c.byte (zeroAt b 641 3 && zeroAt b 646 2) 0x0524 641
  ++ ((List.range n).flatMap (fun i =>
      let r := c.record 648 8 i
      c.item (lineOk r 0 && zeroAt r 5 3) 0x0524 i
      ++ (c.item ((leAt r 4 1 == 5 || leAt r 4 1 == 6) && leAt r 2 2 != 0xFFFF) 0x053F i
      ++ (c.item (linesFit (leAt r 0 2) (leAt r 2 2)) 0x0102 i
      ++ (im.tilesOf c).flatMap (fun t =>
          let bad := (List.range (64 * leAt r 2 2)).find? (fun k => !zeroPointOk (leAt r 4 1) (im.initialByte t (64 * leAt r 0 2 + k)))
          c.joint bad.isNone 0x0216 (.entry i) (some t) [im.bankPlace t (64 * leAt r 0 2 + bad.getD 0)]))))
  ++ c.tail (648 + 8 * n)))))))

/-! ### PARAMS (R228) -/

/-- The reserved bits and bytes of a parameter record are zero. -/
def paramReserved (r : List Byte) : Bool :=
  match leAt r 0 1 with
  | 1 => decide (leAt r 1 1 < 2) && (lineOk r 2 && (lineOk r 4 && (lineOk r 6 && zeroAt r 8 24)))
  | 2 => bits (leAt r 6 1) 6 4 == 0 && (bits (leAt r 7 1) 5 4 == 0 && (bits (leAt r 8 1) 5 4 == 0 && zeroAt r 9 23))
  | _ => [4, 6, 8, 10, 12, 14].all (lineOk r) && zeroAt r 31 1

/-- The counts of a TYPE 3 record (R16, R138). -/
def knCounts (r : List Byte) : Bool :=
  leAt r 16 4 != 2 ^ 32 - 1 && (leAt r 20 4 != 2 ^ 32 - 1 && (leAt r 24 2 != 0xFFFF && (leAt r 26 2 != 0xFFFF
    && (leAt r 28 2 != 0xFFFF && decide (leAt r 30 1 < 64)))))

def paramsFlaws (c : Section) : List Flaw :=
  let n := leAt c.content 0 2
  c.byte (decide (n ≤ 256)) 0x053F 0 ++ (c.holds (64 + 32 * n) ++ (c.byte (zeroAt c.content 2 62) 0x0524 2
  ++ ((List.range n).flatMap (fun i =>
      let r := c.record 64 32 i
      let ty := leAt r 0 1
      c.item (decide (1 ≤ ty) && decide (ty ≤ 3)) 0x053F i ++ (c.item (paramReserved r) 0x0524 i
      ++ (c.item (ty != 3 || [1, 2, 3].all (fun k => decide (leAt r k 1 ≤ 64))) 0x0102 i
      ++ c.item (ty != 3 || knCounts r) 0x053F i)))
  ++ c.tail (64 + 32 * n))))

end Sys2Proof.Machine
end

