-- ==== Sys2Proof/Machine/ContentOps.lean ====
section
/-! DEFINITION. Phase 3 of validation, second part: the words of a BODY section, each by itself and against the parameter records,
constants and other sections of the tiles it governs (R229 to R239 and the encodings of the unit chapters). -/

namespace Sys2Proof.Machine

/-! ### Opcodes (R232) -/

def arrayOps : List Nat := [0x01, 0x02, 0x03, 0x04]
def knightOps : List Nat := [0x10, 0x11, 0x12]
def vectorOps : List Nat :=
  [0x20, 0x21, 0x22, 0x23, 0x24, 0x25, 0x26, 0x27, 0x29, 0x2A, 0x2B, 0x30, 0x31, 0x32, 0x38, 0x39, 0x3A, 0x3B]
def dmaOps : List Nat := [0x40, 0x41]
def controlOps : List Nat := [0x42, 0x43, 0x44, 0x48, 0x49, 0x4A]

/-- Operations that carry a guard (R231). -/
def guardedOp (o : Nat) : Bool := arrayOps.contains o || (o == 0x05 || (knightOps.contains o || (vectorOps.contains o || dmaOps.contains o)))
def knownOp (o : Nat) : Bool := guardedOp o || controlOps.contains o

/-- The lowest of the bits above an operation's last field (R233 to R238). -/
def firstSpareBit (o : Nat) : Nat :=
  if arrayOps.contains o then 126
  else if o = 0x05 then 113
  else if knightOps.contains o then 79
  else if vectorOps.contains o then 126
  else
    match o with
    | 0x40 => 91
    | 0x41 => 71
    | 0x42 => 95
    | 0x43 => 91
    | 0x44 => 88
    | 0x48 => 53
    | _ => 60

/-- A test and the code that a word gets when it fails. -/
abbrev Test := Bool × Nat

/-! ### Fields of a word by itself -/

/-- E4M3, E5M2, BF16 and FP16 (R51). -/
def plainFmt (c : Nat) : Bool := decide (1 ≤ c) && decide (c ≤ 4)

/-- A pairing that R51 and R85 allow. -/
def pairOk (o a b : Nat) : Bool :=
  (plainFmt a && plainFmt b) || (o == 1 && ((plainFmt a && (b == 5 || b == 6)) || (a == 0 && b == 0)))

def arrayTests (o w : Nat) : List Test :=
  let f := arrWord w
  [(decide (f.fmtA < 8) && decide (f.fmtB < 8), 0x0201), (f.scaleFmt != 3, 0x0201), (f.group != 3, 0x0210), (decide (f.rot < 4), 0x0215),
    (decide (f.m ≤ 64) && (decide (f.n ≤ 64) && decide (f.kc ≤ 64)), 0x0102), (pairOk o f.fmtA f.fmtB, 0x0202),
    (!(f.fmtA == 0 && (f.fmtB == 0 && f.set == 1)), 0x053F), (f.pen || f.param == 0, 0x053F),
    (f.pen || !(f.fmtB == 5 || f.fmtB == 6), 0x053D)]

def drainTests (w : Nat) : List Test :=
  let f := drainWord w
  [(decide (f.fmt < 8), 0x0201), (f.src != 3, 0x0201), (decide (f.act < 8), 0x0207),
    (decide (f.m ≤ 64) && decide (f.m0 + f.m ≤ 64), 0x0102), (f.src == 1 || f.srcLine == 0, 0x053F)]

/-- Modes that a Knight opcode has (R137). -/
def knModes (o : Nat) : Nat := if o = 0x10 then 3 else if o = 0x11 then 2 else 4

def knightTests (o w : Nat) : List Test :=
  let f := knWord w []
  let gather := o == 0x10
  let split := o == 0x12
  [(decide (f.sfmt < 3), 0x0306), (decide (f.vfmt < 8), 0x0201), (decide (f.mode < knModes o), 0x0307),
    (!(split && f.mode == 0) || decide (f.t ≤ 64), 0x030A), ((split && f.mode == 0) || f.t == 0, 0x053F),
    (!(gather && f.mode == 0) || decide (f.vfmt < 7), 0x0307), (!(gather && f.mode == 1) || f.sfmt != 1, 0x0307),
    (!(gather && f.mode == 2) || f.sfmt != 0, 0x0307), (!(gather && f.mode == 1) || plainFmt f.vfmt, 0x0202),
    (!(split && f.mode == 0) || f.sfmt == 2, 0x0307), (!(split && f.mode == 1) || f.sfmt == 0, 0x0307),
    (!(split && decide (2 ≤ f.mode)) || (f.sfmt == 1 && decide (f.vfmt ≤ 4)), 0x0307)]

/-- Vector operations that use CONST. -/
def usesConst (o : Nat) : Bool := [0x24, 0x27, 0x38, 0x39, 0x3A, 0x3B].contains o

def vectorTests (o w : Nat) : List Test :=
  let f := vecWord w
  [(decide (f.fmt < 8), 0x0201), (o == 0x38 || decide (f.fmt ≤ 4), 0x053F), (f.rows != 255, 0x053F), (usesConst o || f.const == 0, 0x053F),
    (o != 0x27 || decide (f.const % 16 < 8), 0x0201), (o != 0x27 || decide (f.const ≤ 6), 0x053F),
    (o != 0x32 || (f.rows == 1 && (f.src1 == 0 && (f.src2 == 0 && f.dst == 0))), 0x053F),
    (o != 0x38 || (decide (f.fmt ≤ 4) && (f.src2 == 0 && !f.ovf)), 0x0602), (o != 0x39 || (f.src2 == 0 && f.dst == 0), 0x053F),
    (o != 0x3B || (f.rows == 32 && (f.src1 % 64 == 0 && f.dst % 64 == 0)), 0x0802)]

/-- The targets that a COMMIT or DISCARD names (R175, R239). -/
def wTarget (w b : Nat) : Nat := bits w (50 + 3 * b) (48 + 3 * b)

def controlTests (o w : Nat) : List Test :=
  match o with
  | 0x40 => [(bits w 70 63 != 255, 0x053F), (bits w 78 71 != 0, 0x053B)]
  | 0x41 => [(bits w 70 63 != 255, 0x053F)]
  | 0x42 => [(bits w 90 79 != 4095, 0x053F), (decide (bits w 94 91 < 7) || bits w 94 91 == 15, 0x053F)]
  | 0x43 => [(bits w 90 79 != 4095, 0x053F)]
  | 0x44 => [(bits w 77 54 != 2 ^ 24 - 1, 0x053F), (bits w 87 86 != 3, 0x053F)]
  | 0x48 => [(bits w 52 50 != 7, 0x052D)]
  | 0x49 => [((List.range 4).all (fun b => wTarget w b != 5 && wTarget w b != 7), 0x0531)]
  | 0x4A => [((List.range 4).all (fun b => wTarget w b != 5 && wTarget w b != 7), 0x0531)]
  | _ => []

/-- Operations that a premove body excludes whatever their records (R159, R239, R321, R424). -/
def premoveExcluded (o w : Nat) : Bool :=
  dmaOps.contains o || ([0x42, 0x43, 0x44, 0x32, 0x39, 0x3A, 0x3B].contains o
    || ((o == 0x05 && (drainWord w).calib) || ((o == 0x12 && (knWord w []).mode == 1)
    || ((o == 0x10 && ((knWord w []).mode == 1 && (knWord w []).dynamic)) || (o == 0x11 && (knWord w []).mode == 1)))))

/-- Every test of a word by itself, in order: opcode, reserved bits, offset, guard, fields. -/
def wordTests (k w : Nat) : List Test :=
  let o := wOpcode w
  [(knownOp o, 0x0527), (!isBit w 23 && w >>> firstSpareBit o == 0, 0x0524), (decide (wOffset w < 2 ^ k), 0x0529),
    (if guardedOp o then decide (16 ≤ wGuard w) && decide (wGuard w ≤ 4096) else wGuard w == 0, 0x0529)]
  ++ (if arrayOps.contains o then arrayTests o w
    else if o = 0x05 then drainTests w
    else if knightOps.contains o then knightTests o w
    else if vectorOps.contains o then vectorTests o w
    else controlTests o w)
  ++ [(!(wPre w && premoveExcluded o w), 0x0531)]

/-! ### A word against the sections of a tile -/

/-- A test that relates sections: whether it holds, the code, and the other sections with the place in each. -/
abbrev JointTest := Bool × Nat × List (Option Section × Spot)

/-- The record PARAM names in a tile has the type. -/
def State.paramIs (s : State) (t i ty : Nat) : Bool :=
  decide (i < leAt (s.tileSection secPARAMS 0 t) 0 2) && leAt (s.param t i) 0 1 == ty

def State.hasConst (s : State) (t i : Nat) : Bool := decide (i < leAt (s.tileSection secCONSTANTS 0 t) 0 2)

/-- The clip bounds are ordered and no NaN (R63). -/
def clipOk (lo hi : Nat) : Bool := !(f32 lo).isNan && (!(f32 hi).isNan && !Num.lt (f32 hi) (f32 lo))

/-- The slope lies between 0 and 1 (R62). -/
def slopeOk (a : Nat) : Bool := !(f32 a).isNan && (Num.lt (.fin false 0 0) (f32 a) && Num.lt (f32 a) (f32 f32One))

/-- The joint tests of a DRAIN. One that writes format 0x7 with scale source VECTOR or CHANNEL, whose scale and bias no load knows, is rejected with
0x0209 whatever they turn out to be (R67; DESIGN CHOICE, log entry 117). -/
def State.drainJoint (s : State) (im : Image) (t w : Nat) : List JointTest :=
  let f := drainWord w
  let r := s.param t f.param
  let c := fun k => s.constant t (leAt r k 1)
  let ps := [(im.tileSec secPARAMS 0 t, Spot.entry f.param)]
  let used := [3, 4] ++ ((if f.src = 0 then [1, 2] else []) ++ (if f.act = 2 then [5] else []))
  let cs := fun k => ps ++ [(im.tileSec secCONSTANTS 0 t, Spot.entry (leAt r k 1))]
  (s.paramIs t f.param 2, 0x053D, ps)
  :: ((if s.paramIs t f.param 2 then
      used.map (fun k => (s.hasConst t (leAt r k 1), 0x053D, cs k))
      ++ [(clipOk (c 3) (c 4), 0x0208, cs 3), (f.act != 2 || slopeOk (c 5), 0x053F, cs 5),
        (f.fmt != 7 || (f.src == 0 && (c 1 == f32One && (c 2 == 0 && (f.act == 0 && (!f.deriv && (c 3 == f32NInf && (c 4 == f32PInf
          && (!isBit (leAt r 7 1) 7 && !isBit (leAt r 8 1) 7)))))))), 0x0209, cs 3)]
    else []))

/-- Bytes of the arrays of a Knight operation, as lines and byte counts (R133 to R136). -/
def knArrays (o : Nat) (f : KnWord) : List (Nat × Nat) :=
  let iw := if f.ifmt = 0 then 2 else 4
  let seg := [(f.rowptr, 4 * (f.nr + 1)), (f.index, f.nnzMax * iw), (f.value, fmtBytes f.vfmt f.nnzMax)]
  let two := [(f.value, 64 * (f.nr * keptLines f.vfmt)), (f.index, 8 * f.nr)]
  let blk := [(f.rowptr, 16 * f.kc)]
  if o = 0x10 then
    (if f.mode = 0 then [(f.index, if f.l = 0 then (f.sRows + 7) / 8 else f.l * iw)]
      else if f.sfmt = 0 then seg else if f.sfmt = 1 then two else blk)
  else if o = 0x12 then (if f.mode = 0 then blk else if f.mode = 1 then seg else two)
  else if f.mode = 1 then [(f.rowptr, 4 * (f.nr + 1))]
  else []

/-- The work items a SEGMENT can publish at worst (R150). -/
def KnWord.worstItems (f : KnWord) : Nat := f.nr + f.nnzMax / 4096

def State.knightJoint (s : State) (im : Image) (t o w : Nat) : List JointTest :=
  let i := bits w 78 71
  let ps := [(im.tileSec secPARAMS 0 t, Spot.entry i)]
  let r := s.param t i
  let f := knWord w r
  (s.paramIs t i 3, 0x053D, ps)
  :: (if s.paramIs t i 3 then
      [((knArrays o f).all (fun a => decide (64 * (a.1 % 2 ^ 13) + a.2 ≤ 2 ^ 19)), 0x0308, ps),
        (!(o == 0x12 && f.mode == 1) || (decide (f.worstItems ≤ 65534) && decide (f.worstItems ≤ leAt r 28 2)), 0x030B, ps),
        (!(o == 0x10 && (f.mode == 1 && (f.sfmt == 0 && !f.dynamic))) || decide (f.nr ≤ 64), 0x0102, ps)]
    else [])

/-- The place of a collective's record in COLLECTIVES; the count where it has none. -/
def State.collSpot (s : State) (coll : Nat) : Spot :=
  match s.collRecs.findIdx? (fun c => c.coll == coll) with
  | none => .head 6
  | some k => .entry k

/-- The rows of a VEC_REDUCE and its record agree (R424). -/
def State.reduceOk (s : State) (t i fmt : Nat) : Bool :=
  let r := ((s.tileSection 0x61 0 t).drop (8 + 8 * i)).take 8
  match s.collRecs.find? (fun c => c.coll == leAt r 4 1) with
  | none => leAt r 0 1 == 3 && fmt == 0
  | some c => if leAt r 0 1 ≤ 1 then fmt == c.localFmt else if leAt r 0 1 = 2 then decide (fmt ≤ 2) else fmt == 0

def State.vectorJoint (s : State) (im : Image) (t o w : Nat) : List JointTest :=
  let f := vecWord w
  let dev := fun typ byte => [(im.devSec typ, Spot.head byte)]
  let tr := s.devSection 0x32
  match o with
  | 0x24 => [(s.hasConst t f.const, 0x053D, [(im.tileSec secCONSTANTS 0 t, .entry f.const)])]
  | 0x38 =>
    let q := [(im.tileSec 0x40 0 t, Spot.entry f.const)]
    let r := s.topkRec t f.const
    (decide (f.const < leAt (s.tileSection 0x40 0 t) 0 2), 0x053D, q)
    :: (if f.const < leAt (s.tileSection 0x40 0 t) 0 2 then
        [(f.rows % max r.h 1 == 0, 0x0602, q), (!(r.mode == 2 && wPre w), 0x0531, q),
          (r.mode != 2 || (List.range (leAt (s.devSection 0x42) 0 2)).any (fun k => leAt (s.devSection 0x42) (8 + 16 * k) 1 == r.domain), 0x0608,
            q ++ dev 0x42 0)]
      else [])
  | 0x39 => [(!tr.isEmpty, 0x08E0, []), (decide (f.const < leAt tr 12 2), 0x053D, dev 0x32 12)]
  | 0x3A => [(!tr.isEmpty, 0x08E0, []), (decide (f.const < leAt tr 14 2), 0x053D, dev 0x32 14)]
  | 0x3B =>
    let q := [(im.tileSec 0x61 0 t, Spot.entry f.const)]
    [(decide (f.const < leAt (s.tileSection 0x61 0 t) 0 2), 0x053D, q), (s.reduceOk t f.const f.fmt, 0x0802, q ++ [(im.devSec 0x60, s.collSpot (leAt ((s.tileSection 0x61 0 t).drop (8 + 8 * f.const)) 4 1))])]
  | _ => []

/-- The tests of a word against the sections of tile t. -/
def State.wordJoint (s : State) (im : Image) (t w : Nat) : List JointTest :=
  let o := wOpcode w
  if arrayOps.contains o then
    let f := arrWord w
    [(!f.pen || s.paramIs t f.param 1, 0x053D, [(im.tileSec secPARAMS 0 t, .entry f.param)])]
  else if o = 0x05 then s.drainJoint im t w
  else if knightOps.contains o then s.knightJoint im t o w
  else if vectorOps.contains o then s.vectorJoint im t o w
  else
    match o with
    | 0x40 => [(decide (bits w 90 79 < leAt (s.tileSection secLANDINGS 0 t) 0 2), 0x053B, [(im.tileSec secLANDINGS 0 t, .entry (bits w 90 79))])]
    | 0x44 =>
      let i := bits w 85 78
      let ty := if bits w 87 86 = 0 then 3 else 2
      [(bits w 87 86 == 1 || s.paramIs t i ty, 0x053D, [(im.tileSec secPARAMS 0 t, .entry i)])]
    | _ => []

/-! ### Bodies (R229, R230, R239) -/

/-- The words of a body. -/
def bodyOf (c : Section) : List Nat := bodyWords (leAt c.content 0 4) (c.content.drop 16)

/-- The order of word `i` of a body (R230): offsets do not decrease, and the end marker stands last and only there. -/
def orderFlaws (c : Section) (ws : List Nat) (i : Nat) : List Flaw :=
  let w := ws.getD i 0
  let last := i + 1 == ws.length
  c.item ((w == 0) == last) 0x0528 i
    ++ c.item (last || (i == 0 || decide (wOffset (ws.getD (i - 1) 0) ≤ wOffset w))) 0x0528 i

/-- The structure of a premove body (R239). -/
def premoveFlaws (k : Nat) (c : Section) (ws : List Nat) : List Flaw :=
  let n := ws.length
  let pre := ws.any wPre
  (List.range n).flatMap (fun i =>
    let w := ws.getD i 0
    let o := wOpcode w
    let close := fun j code => i + j == n && (o == code && (wPre w && (wGuard w == 0 && wOffset w + 1 == 2 ^ k)))
    c.item (!(o == 0x49) || (pre && close 3 0x49)) 0x0531 i ++ c.item (!(o == 0x4A) || (pre && close 2 0x4A)) 0x0531 i)
  ++ c.item (!pre || (decide (3 ≤ n) && (wOpcode (ws.getD (n - 3) 0) == 0x49 && wOpcode (ws.getD (n - 2) 0) == 0x4A))) 0x0531 (n - 1)

/-- The plan of the first sequence entry, which runs in move 0. -/
def firstPlan (im : Image) : Nat := leAt (im.dev 2) 16 1

/-- Words that the sequencer store of a tile holds; a plan without a body keeps its end marker (R229). -/
def Image.storeWords (im : Image) (t : Nat) : Nat :=
  ((List.range (leAt (im.dev 2) 0 2)).map (fun p => match im.tileSec secBODY p t with
    | none => 1
    | some c => leAt c.content 0 4)).foldl (· + ·) 0

def bodyFlaws (s : State) (im : Image) (c : Section) : List Flaw :=
  let n := leAt c.content 0 4
  let ws := bodyOf c
  planFlaws im c ++ c.byte (decide (1 ≤ n) && decide (n ≤ 8192)) 0x0528 0 ++ c.holds (16 + 16 * n) ++ c.byte (zeroAt c.content 4 12) 0x0524 4
  ++ (List.range ws.length).flatMap (fun i =>
      let w := ws.getD i 0
      if w = 0 then orderFlaws c ws i
      else (wordTests im.moveExp w).flatMap (fun t => c.item t.1 t.2 i) ++ orderFlaws c ws i
      ++ (im.tilesOf c).flatMap (fun t => (s.wordJoint im t w).flatMap (fun q => c.joint q.1 q.2.1 (.entry i) (some t) q.2.2)))
  ++ premoveFlaws im.moveExp c ws
  ++ c.joint (c.plan != firstPlan im || !ws.any wPre) 0x0531 (.entry ((ws.findIdx? wPre).getD 0)) none [(im.devSec 2, .entry 0)]
  ++ (im.tilesOf c).flatMap (fun t =>
      c.joint (decide (im.storeWords t ≤ 8192)) 0x053C (.head 0) (some t)
        ((im.devSec 2, .head 0) :: (List.range (leAt (im.dev 2) 0 2)).map (fun p => (im.tileSec secBODY p t, .head 0))))
  ++ c.tail (16 + 16 * n)

end Sys2Proof.Machine
end

