-- ==== Sys2Proof/Machine/ContentJob.lean ====
section
/-! DEFINITION. Phase 3 of validation, third part: the sections that the other chapters define (R274, R285, R307, R312, R313, R321, R337,
R343 to R345, R356, R357, R364, R396, R408, R419, R423, R424, R450, R451), and the phase as a whole (R240). -/

namespace Sys2Proof.Machine

/-! ### DTENSORS and OWNERS (R273, R274) -/

def dtensorsFlaws (c : Section) : List Flaw :=
  let n := leAt c.content 0 4
  let recs := (List.range n).map (c.record 8 16)
  c.byte (decide (n ≤ 4096)) 0x0409 0 ++ c.holds (8 + 16 * n) ++ c.byte (zeroAt c.content 4 4) 0x0524 4
  ++ (List.range n).flatMap (fun i =>
      let r := c.record 8 16 i
      c.item (zeroAt r 13 3) 0x0524 i
      ++ c.item (decide (leAt r 12 1 < 11) && decide (leAt r 4 4 + leAt r 8 4 ≤ 2097152)) 0x0409 i
      ++ c.item ((recs.take i).all (fun q => leAt q 0 4 != leAt r 0 4 && !overlap (leAt q 4 4) (leAt q 8 4) (leAt r 4 4) (leAt r 8 4))) 0x0409 i)
  ++ c.tail (8 + 16 * n)

/-- The directory record whose entries hold entry j, if any: its BLOCK. -/
def dirBlock (dir : List Byte) (j : Nat) : Option Nat :=
  match ((List.range (leAt dir 0 4)).map (fun i => (dir.drop (8 + 16 * i)).take 16)).find? (fun r =>
    decide (leAt r 4 4 ≤ j) && decide (j < leAt r 4 4 + leAt r 8 4)) with
  | none => none
  | some r => some (leAt r 12 1)

def ownersFlaws (s : State) (im : Image) (c : Section) : List Flaw :=
  let first := leAt c.content 0 4
  let n := leAt c.content 4 4
  c.byte (decide (first + n ≤ 2097152)) 0x0409 0 ++ c.holds (16 + 8 * n) ++ c.byte (zeroAt c.content 8 8) 0x0524 8
  ++ (List.range n).flatMap (fun i =>
      let e := leAt c.content (16 + 8 * i) 8
      let own := isBit e 63 && bits e 50 31 == s.ownAddr
      c.item (bits e 30 24 == 0) 0x0524 i
      ++ (match dirBlock (im.dev 0x10) (first + i) with
        | none => []
        | some b => c.joint (!isBit e 63 || bits e 54 51 == b) 0x0409 (.entry i) none [(im.devSec 0x10, .head 0)])
      ++ c.item (!own || s.inJob (bits e 23 0 * 65536) (2 ^ (16 + bits e 54 51))) 0x0409 i)
  ++ c.tail (16 + 8 * n)

/-! ### EXTENTS (R285) -/

def extentOk (e : Extent) : Bool :=
  decide (e.fmt < 8) && (decide (e.pad < 3) && (decide (1 ≤ e.rows) && (decide (e.rows ≤ 8192) && (decide (1 ≤ e.panels)
    && (decide (e.panels ≤ 64) && (decide (e.validRows ≤ e.rows) && (decide (e.validCols ≤ 64 * e.panels)
    && (e.pad == 0 || decide (e.fmt < 5)))))))))

def extentsFlaws (c : Section) : List Flaw :=
  let n := leAt c.content 0 2
  let es := extentsOf n (c.content.drop 8)
  c.byte (decide (n ≤ 64)) 0x0108 0 ++ c.holds (8 + 16 * n) ++ c.byte (zeroAt c.content 2 6) 0x0524 2
  ++ (List.range n).flatMap (fun i =>
      let r := c.record 8 16 i
      let e := es.getD i ⟨0, 0, 0, 0, 0, 0, 0⟩
      c.item (lineOk r 0 && (decide (leAt r 2 1 < 16) && zeroAt r 12 4)) 0x0524 i
      ++ c.item (extentOk e && linesFit e.line e.lines) 0x0108 i
      ++ c.item ((es.take i).all (fun q => !overlap q.line q.lines e.line e.lines)) 0x0108 i)
  ++ c.tail (8 + 16 * n)

/-- The panel footprints of a word: line, lines, format, and whether it is a broadcast (1) or stationary (2) operand or neither. -/
def wordPanels (w : Nat) : List (Nat × Nat × Nat × Nat) :=
  if arrayOps.contains (wOpcode w) then
    let f := arrWord w
    if f.m = 0 ∨ f.n = 0 ∨ f.kc = 0 then []
    else [(f.aLine, 64 * f.kc * pitchLines f.fmtA, f.fmtA, 1), (f.bLine, 64 * f.kc * pitchLines f.fmtB, f.fmtB, 2)]
  else if wOpcode w = 0x05 then
    let f := drainWord w
    [(f.dstLine, f.m * pitchLines f.fmt, f.fmt, 0)]
  else []

/-- A footprint of an operation against an extent record. -/
def panelOk (q : Nat × Nat × Nat × Nat) (e : Extent) : Bool :=
  !overlap q.1 q.2.1 e.line e.lines
    || (decide (e.line ≤ q.1) && (decide (q.1 + q.2.1 ≤ e.line + e.lines) && (e.fmt == q.2.2.1 && ((q.2.2.2 != 1 || e.rows == 64)
      && (q.2.2.2 != 2 || e.panels == 1)))))

/-- The operands and DRAIN destinations of tile t's bodies against its extents: reported at the later of the two sections. -/
def extentWordFlaws (s : State) (im : Image) (c : Section) : List Flaw :=
  (im.tilesOf c).flatMap (fun t =>
    let es := s.extents t
    let ws := bodyOf c
    (List.range (ws.length - 1)).flatMap (fun i =>
      (wordPanels (ws.getD i 0)).flatMap (fun q =>
        (List.range es.length).flatMap (fun j =>
          c.joint (panelOk q (es.getD j ⟨0, 0, 0, 0, 0, 0, 0⟩)) 0x0108 (.entry i) (some t) [(im.tileSec 0x20 0 t, .entry j)]))))

/-! ### STACK (R312, R313) -/

def framesOf (c : Section) : List FrameRec :=
  (List.range (leAt c.content 34 2)).map (fun f =>
    let r := c.record 64 32 f
    ⟨leAt r 0 8, leAt r 8 4, leAt r 12 1, leAt r 16 4, leAt r 20 4, leAt r 24 8⟩)

/-- Two frames, `a` pushed no later than `b`, may share ring bytes while both are live. -/
def framesOk (a b : FrameRec) : Bool :=
  !overlap a.off a.bytes b.off b.bytes || (decide (a.pop < b.push) || (a.policy == 1 && decide (b.pop < a.pop)))

def frameOk (ring : Nat) (f : FrameRec) : Bool :=
  f.off % 64 == 0 && (f.bytes % 64 == 0 && (decide (f.policy < 3) && (decide (f.push < f.pop) && (decide (f.off + f.bytes ≤ ring)
    && (if f.policy = 1 then f.hostOff % 64 == 0 && decide (f.hostOff + f.bytes ≤ 2 ^ 40) else f.hostOff == 0)
    && (f.policy != 2 || (f.off == 0 && f.bytes == 0))))))

/-- A move of the step that runs a plan. -/
def State.movesOf (s : State) (plan : Nat) : List Nat := (List.range s.stepMoves).filter (fun m => s.planOf m == plan)

/-- The descriptors of a DMA word as the image's BANKS give them. -/
def Image.descsOf (im : Image) (t w : Nat) : List (List Byte) :=
  (List.range (bits w 70 63)).map (fun k => (List.range 128).map (fun b => Byte.of (im.initialByte t (64 * bits w 62 48 + 128 * k + b))))

/-- The DMA accesses of tile t's bodies to the ring of die d are pushes and pops of frames (R313). -/
def stackDmaFlaws (s : State) (im : Image) (c : Section) (d t : Nat) : List Flaw :=
  (im.sections.filter (fun b => b.typ == secBODY && (im.tilesOf b).contains t)).flatMap (fun b =>
    let ws := bodyOf b
    ((List.range ws.length).filter (fun i => dmaOps.contains (wOpcode (ws.getD i 0)))).flatMap (fun i =>
      let out := wOpcode (ws.getD i 0) == 0x41
      let descs := im.descsOf t (ws.getD i 0)
      b.joint ((s.movesOf b.plan).all (fun m => descs.all (fun x => !(s.setReg Reg.netMoveNumber m).ringFault out d x)))
        0x08E0 (.entry i) (some t) [(some c, .head 0), im.bankPlace t (64 * bits (ws.getD i 0) 62 48)]))

def stackFlaws (s : State) (im : Image) (c : Section) : List Flaw :=
  let b := c.content
  let n := leAt b 34 2
  let fs := framesOf c
  let ring := leAt b 8 8
  c.holds (64 + 32 * n) ++ c.byte (zeroAt b 36 28) 0x0524 36
  ++ c.byte (leAt b 0 8 % 4096 == 0 && (im.diesOf c).all (fun d => leAt b 0 8 / 2 ^ 38 == d && s.inJob (leAt b 0 8) ring)) 0x08E0 0
  ++ c.byte (ring % 4096 == 0) 0x08E0 8 ++ c.byte (decide (leAt b 16 8 ≤ ring)) 0x08E0 16
  ++ c.byte (decide (leAt b 24 8 ≤ leAt b 16 8)) 0x08E0 24 ++ c.byte (decide (leAt b 32 1 < 128)) 0x08E0 32
  ++ c.byte (decide (1 ≤ leAt b 33 1) && decide (leAt b 33 1 ≤ 8)) 0x08E0 33 ++ c.byte (decide (1 ≤ n) && decide (n ≤ 4096)) 0x08E0 34
  ++ (List.range n).flatMap (fun i =>
      let f := fs.getD i ⟨0, 0, 0, 0, 0, 0⟩
      c.item (zeroAt (c.record 64 32 i) 13 3) 0x0524 i ++ c.item (frameOk ring f) 0x08E0 i
      ++ c.joint (decide (f.pop < leAt (im.dev 2) 4 4)) 0x08E0 (.entry i) none [(im.devSec 2, .head 4)]
      ++ c.item ((fs.take i).all (fun g => decide (g.push ≤ f.push) && framesOk g f)) 0x08E0 i)
  ++ (im.diesOf c).flatMap (fun d => (List.range 1024).flatMap (stackDmaFlaws s im c d))
  ++ c.tail (64 + 32 * n)

/-! ### BACKWARD (R307) -/

/-- The DRAIN word that a BACKWARD record names in tile t. -/
def State.backWord (s : State) (t : Nat) (r : List Byte) : Option Nat :=
  match (s.body t (leAt r 0 1))[leAt r 2 2]? with
  | none => none
  | some w => if wOpcode w = 0x05 ∧ !wPre w then some w else none

def backRecOk (r : List Byte) : Bool :=
  let k := leAt r 1 1
  decide (k < 3) && ((if k = 1 then decide (leAt r 6 1 % 16 < 5) && decide (leAt r 7 1 < 2) else zeroAt r 4 4)
    && (k == 2 || (zeroAt r 8 4 && zeroAt r 16 12)))

def backwardFlaws (s : State) (im : Image) (c : Section) : List Flaw :=
  let n := leAt c.content 0 2
  let recs := (List.range n).map (c.record 8 32)
  c.byte (decide (n ≤ 1024)) 0x08E0 0 ++ c.holds (8 + 32 * n) ++ c.byte (zeroAt c.content 2 6) 0x0524 2
  ++ (List.range n).flatMap (fun i =>
      let r := c.record 8 32 i
      let k := leAt r 1 1
      c.item (lineOk r 4 && (decide (leAt r 6 1 < 16) && (zeroAt r 12 4 && zeroAt r 28 4))) 0x0524 i
      ++ c.item (backRecOk r) 0x08E0 i
      ++ c.item ((recs.take i).all (fun q => !(leAt q 0 1 == leAt r 0 1 && leAt q 2 2 == leAt r 2 2))) 0x08E0 i
      ++ c.item (k != 2 || (im.devSec 0x32).isSome) 0x08E0 i
      ++ (im.tilesOf c).flatMap (fun t =>
          let q := [(im.tileSec secBODY (leAt r 0 1) t, Spot.entry (leAt r 2 2))]
          match s.backWord t r with
          | none => c.joint false 0x08E0 (.entry i) (some t) q
          | some w => c.joint ((drainWord w).deriv == (k == 1) && !(k == 1 && (leAt r 7 1 == 1 && [3, 4, 5].contains (drainWord w).act)))
              0x08E0 (.entry i) (some t) q))
  ++ c.tail (8 + 32 * n)

/-- Every DRAIN with DERIV = 1 has a DERIV record. -/
def derivFlaws (s : State) (im : Image) (c : Section) : List Flaw :=
  (im.tilesOf c).flatMap (fun t =>
    let bs := s.tileSection 0x31 0 t
    let ws := bodyOf c
    (List.range ws.length).flatMap (fun i =>
      let w := ws.getD i 0
      c.joint (!(wOpcode w == 0x05 && (drainWord w).deriv) || ((List.range (leAt bs 0 2)).map (backRecord bs)).any (fun r =>
        leAt r 0 1 == c.plan && (leAt r 2 2 == i && leAt r 1 1 == 1))) 0x08E0 (.entry i) (some t) [(im.tileSec 0x31 0 t, .head 0)]))

/-! ### TRAINING (R321) -/

/-- A finite FP32 value. -/
def finite32 (v : Nat) : Bool := bits v 30 23 != 255
/-- A finite FP32 value that is 0 or greater, and one above 0. -/
def nonNeg32 (v : Nat) : Bool := finite32 v && (!isBit v 31 || v == 2 ^ 31)
def pos32 (v : Nat) : Bool := finite32 v && (!isBit v 31 && v != 0)
/-- From 0 up to but excluding 1. -/
def beta32 (v : Nat) : Bool := nonNeg32 v && Num.lt (f32 v) (f32 f32One)

def optimOk (groups : Nat) (r : List Byte) : Bool :=
  let a := leAt r 0 1
  decide (a < 2) && (decide (leAt r 1 1 < groups) && (decide (leAt r 2 1 < 3) && (nonNeg32 (leAt r 4 4) && (beta32 (leAt r 8 4)
    && (beta32 (leAt r 12 4) && (nonNeg32 (leAt r 20 4)
    && (if a = 0 then (f32 (leAt r 12 4)).isZero && (f32 (leAt r 16 4)).isZero else pos32 (leAt r 16 4))))))))

def trainingFlaws (im : Image) (c : Section) : List Flaw :=
  let b := c.content
  let g := leAt b 12 2
  let o := leAt b 14 2
  let k := leAt b 16 1
  let ls := signed 8 (leAt b 0 1)
  let base := 160 + 16 * g
  c.holds (base + 32 * o) ++ c.byte (zeroAt b 1 1 && zeroAt b 17 15) 0x0524 1
  ++ c.byte (decide ((-32 : Int) ≤ ls) && decide (ls ≤ 63)) 0x08E0 0 ++ c.byte (decide (16 ≤ leAt b 2 2)) 0x08E0 2
  ++ c.byte (decide (leAt b 8 3 < 2 ^ im.moveExp)) 0x08E0 8 ++ c.byte (leAt b 11 1 != 0) 0x08E0 11
  ++ c.byte (decide (g ≤ 256)) 0x08E0 12 ++ c.byte (decide (o ≤ 256)) 0x08E0 14 ++ c.byte (decide (1 ≤ k) && decide (k ≤ 16)) 0x08E0 16
  ++ (List.range k).flatMap (fun i =>
      c.byte (nonNeg32 (leAt b (36 + 8 * i) 4) && (i == 0 || decide (leAt b (24 + 8 * i) 4 < leAt b (32 + 8 * i) 4))) 0x08E0 (32 + 8 * i))
  ++ c.byte (zeroAt b (32 + 8 * k) (8 * (16 - k))) 0x0524 (32 + 8 * k)
  ++ (List.range g).flatMap (fun i =>
      let r := c.record 160 16 i
      c.item (zeroAt r 1 3 && zeroAt r 8 8) 0x0524 i ++ c.item (decide (leAt r 0 1 < 3) && pos32 (leAt r 4 4)) 0x08E0 i)
  ++ (List.range o).flatMap (fun j =>
      let r := c.record base 32 j
      c.item (zeroAt r 3 1 && zeroAt r 24 8) 0x0524 (g + j) ++ c.item (optimOk g r) 0x08E0 (g + j))
  ++ c.joint (decide (leAt b 4 4 + leAt b 11 1 < leAt (im.dev 2) 4 4)) 0x08E6 (.head 4) none [(im.devSec 2, .head 4)]
  ++ c.tail (base + 32 * o)

/-! ### TOPK, EXPERTS, DECISIONS, QUEUES (R337, R343 to R345, R356, R357, R364) -/

def topkOk (r : List Byte) : Bool :=
  let m := leAt r 0 1
  let e := leAt r 2 2
  decide (m < 3) && (decide (leAt r 1 1 < 2) && (decide (1 ≤ e) && (decide (e ≤ 256) && ((m != 1 || decide (2 ≤ e))
    && (if m = 2 then leAt r 1 1 == 0 && (pos32 (leAt r 8 4) && (!Num.lt (f32 f32One) (f32 (leAt r 8 4)) && decide (leAt r 12 1 < 64)))
      else leAt r 8 4 == 0 && leAt r 12 1 == 0)))))

def topkFlaws (c : Section) : List Flaw :=
  let n := leAt c.content 0 2
  c.byte (decide (n ≤ 64)) 0x0602 0 ++ c.holds (8 + 16 * n) ++ c.byte (zeroAt c.content 2 6) 0x0524 2
  ++ (List.range n).flatMap (fun i =>
      c.item (zeroAt (c.record 8 16 i) 13 3) 0x0524 i ++ c.item (topkOk (c.record 8 16 i)) 0x0602 i)
  ++ c.tail (8 + 16 * n)

/-- A device address whose coordinates lie inside AXES. -/
def State.inAxes (s : State) (a : Nat) : Bool := (List.range 4).all (fun k => decide (coord a k < s.axisLen k))

def layerOk (r : LayerRec) : Bool :=
  decide (r.layer < 64) && ((r.k == 1 || r.k == 2) && (decide (r.k ≤ r.e) && (decide (r.e ≤ 256) && (decide (1 ≤ r.quota)
    && (decide (r.quota ≤ 4096) && (decide (1 ≤ r.sources) && (decide (r.sources ≤ 4096) && (decide (r.index < r.sources)
    && (decide (r.outFmt < 3) && (decide (r.ansFmt < 3) && (decide (64 ≤ r.rowBytes) && (decide (r.rowBytes ≤ 32768) && (r.rowBytes % 64 == 0
    && (decide (1 ≤ r.dim) && (decide (r.dim ≤ 16384) && (decide (1 ≤ r.tokens) && (decide (r.tokens ≤ 65535) && (r.queueDue != 0
    && (r.answerDue != 0 && ([r.choices, r.tokensAddr, r.residual, r.answers, r.output].all (fun a => a % 64 == 0)
    && decide (r.dispatchMove + r.queueDue < r.returnMove)))))))))))))))))))))

/-- The areas of a layer in this device's job region: base and bytes. -/
def State.layerAreas (s : State) (r : LayerRec) : List (Nat × Nat) :=
  [(r.choices, 16 * r.tokens), (r.tokensAddr, (r.tokens + 1) * r.rowBytes), (r.answers, r.e * r.areg), (r.output, r.tokens * r.outBytes)]
  ++ (if r.residual = 0 then [] else [(r.residual, r.tokens * r.outBytes)])
  ++ ((List.range r.e).filter (s.ownsExpert r)).flatMap (fun e =>
      let m := s.expertMap r e
      [(m.2.1, r.sources * r.qreg), (m.2.2, r.sources * r.areg)])

/-- The areas of a list lie apart. -/
def areasApart : List (Nat × Nat) → Bool
  | [] => true
  | a :: rest => rest.all (fun b => !overlap a.1 a.2 b.1 b.2) && areasApart rest

/-- Layer i clashes with no earlier area. -/
def State.layerApart (s : State) (before : List LayerRec) (r : LayerRec) : Bool :=
  let mine := s.layerAreas r
  let old := before.flatMap s.layerAreas
  areasApart mine && mine.all (fun a => old.all (fun b => !overlap a.1 a.2 b.1 b.2))

/-- The MODES section of device scope, which alone names the units of the I/O die (R224). -/
def Image.deviceModes (im : Image) : Option Section := im.sections.find? (fun c => c.typ == secMODES && c.die == 0xFF)

/-- The last record of a unit in that section. -/
def Image.modeRecord (im : Image) (kind : Nat) : Option Nat :=
  match im.deviceModes with
  | none => none
  | some c => ((List.range (leAt c.content 0 4)).filter (fun i => leAt (c.record 8 8 i) 0 1 == kind)).getLast?

/-- The scatter engine (kind 5) or the combine engine (kind 6) is ON. -/
def Image.engineOn (im : Image) (kind : Nat) : Bool :=
  match im.deviceModes, im.modeRecord kind with
  | some c, some i => leAt (c.record 8 8 i) 1 1 == 1
  | _, _ => true

def expertsFlaws (s : State) (im : Image) (c : Section) : List Flaw :=
  let n := leAt c.content 0 2
  let m := leAt c.content 2 2
  let ls := s.layerRecs
  c.byte (decide (n ≤ 64) && decide (m ≤ 4096)) 0x0601 0 ++ c.holds (8 + 96 * n + 32 * m) ++ c.byte (zeroAt c.content 4 4) 0x0524 4
  ++ (List.range n).flatMap (fun i =>
      let b := c.record 8 96 i
      let r := layerRecOf b
      c.item (bits (leAt b 10 1) 7 5 == 0 && (decide (leAt b 11 1 < 16) && zeroAt b 72 24)) 0x0524 i
      ++ c.item (layerOk r && decide (r.mapFirst + r.e ≤ m)) 0x0601 i
      ++ c.item (!((ls.take i).map (fun q => q.layer)).contains r.layer) 0x0601 i
      ++ c.item ((s.layerAreas r).all (fun a => s.inJob a.1 a.2)) 0x0601 i
      ++ c.item (s.layerApart (ls.take i) r) 0x0601 i
      ++ c.item ((List.range r.e).all (fun e => s.ownsExpert r e || ((s.expertMap r e).2.1 == 0 && (s.expertMap r e).2.2 == 0))) 0x0601 i
      ++ [5, 6].flatMap (fun k => c.joint (im.engineOn k) 0x052D (.entry i) none [(im.deviceModes, .entry ((im.modeRecord k).getD 0))])
      ++ c.joint (decide (r.returnMove + r.answerDue + 1 < leAt (im.dev 2) 4 4)) 0x0601 (.entry i) none [(im.devSec 2, .head 4)])
  ++ (List.range m).flatMap (fun j =>
      let b := c.record (8 + 96 * n) 32 j
      c.item (decide (leAt b 0 4 < 2 ^ 20) && (zeroAt b 4 4 && zeroAt b 24 8)) 0x0524 (n + j)
      ++ c.item (s.inAxes (leAt b 0 4 % 2 ^ 20) && (leAt b 8 8 % 64 == 0 && leAt b 16 8 % 64 == 0)) 0x0601 (n + j))
  ++ c.tail (8 + 96 * n + 32 * m)

def decisionsFlaws (s : State) (im : Image) (c : Section) : List Flaw :=
  let n := leAt c.content 0 2
  let recs := (List.range n).map (c.record 8 16)
  c.byte (decide (n ≤ 64)) 0x0608 0 ++ c.holds (8 + 16 * n) ++ c.byte (zeroAt c.content 2 6) 0x0524 2
  ++ (List.range n).flatMap (fun i =>
      let r := c.record 8 16 i
      c.item (zeroAt r 3 1 && zeroAt r 11 1) 0x0524 i
      ++ c.item (decide (leAt r 0 1 < 64) && (decide (leAt r 1 1 < 2) && (decide (leAt r 8 3 < 2 ^ im.moveExp)
        && (leAt r 12 4 != 0 && leAt r 12 4 != 0xFFFFFFFF)))) 0x0608 i
      ++ c.item (!((recs.take i).map (fun q => leAt q 0 1)).contains (leAt r 0 1)) 0x0608 i
      ++ c.joint (decide (leAt r 4 4 + 1 < leAt (im.dev 2) 4 4)) 0x0608 (.entry i) none [(im.devSec 2, .head 4)]
      ++ c.joint (!(s.groupTiles (leAt r 2 1)).isEmpty) 0x0608 (.entry i) none [(im.devSec secGROUPS, .head 0)])
  ++ c.tail (8 + 16 * n)

/-- The regions of a QUEUES record: item queue, return buffer, result area, as lines and line counts. -/
def queueRegions (r : List Byte) : List (Nat × Nat) :=
  [(leAt r 4 2, (16 * leAt r 6 2 + 63) / 64), (leAt r 8 2, leAt r 10 2), (leAt r 12 2, leAt r 14 2)]

def queuesFlaws (s : State) (im : Image) (c : Section) : List Flaw :=
  let n := leAt c.content 0 2
  let recs := (List.range n).map (c.record 8 16)
  c.byte (decide (n ≤ 8)) 0x0609 0 ++ c.holds (8 + 16 * n) ++ c.byte (zeroAt c.content 2 6) 0x0524 2
  ++ (List.range n).flatMap (fun i =>
      let r := c.record 8 16 i
      let q := queueRegions r
      c.item (zeroAt r 2 2 && [4, 8, 12].all (lineOk r)) 0x0524 i
      ++ c.item (decide (leAt r 0 1 < 64) && (decide (leAt r 1 1 < 2) && (leAt r 6 2 != 0xFFFF && (leAt r 10 2 != 0xFFFF
        && (leAt r 14 2 != 0xFFFF && (leAt r 1 1 == 1 || zeroAt r 12 4)))))) 0x0609 i
      ++ c.item (q.all (fun a => linesFit a.1 a.2)) 0x0609 i
      ++ c.item (areasApart q && q.all (fun a => ((recs.take i).flatMap queueRegions).all (fun b => !overlap a.1 a.2 b.1 b.2))) 0x0609 i
      ++ (im.tilesOf c).flatMap (fun t =>
          match s.listDie t (leAt r 0 1) with
          | none => c.joint false 0x0609 (.entry i) (some t) [(im.devSec secGROUPS, .head 0)]
          | some d => match s.listRec d (leAt r 0 1) with
            | none => []
            | some l =>
              let g := (s.groupTiles l.group).length
              let ls := im.governing secLISTS 0 d 0 0
              let lb := s.dieSection secLISTS d
              let at_ := Spot.entry (((List.range (leAt lb 0 2)).find? (fun j => leAt lb (8 + 24 * j) 1 == leAt r 0 1)).getD 0)
              c.joint (decide (l.ahead + (l.capacity + g - 1) / max g 1 ≤ leAt r 6 2)) 0x0609 (.entry i) (some t) [(ls, at_), (im.devSec secGROUPS, .head 0)]
              ++ c.joint (leAt r 1 1 != 1 || ((List.range 1024).filter (fun u => (s.queueRec u (leAt r 0 1) 1).isSome
                  && s.listDie u (leAt r 0 1) == some d)).length == 1) 0x0609 (.entry i) (some t) [(ls, at_)]))
  ++ c.tail (8 + 16 * n)

/-- Every declared list has its one owner (R364); where QUEUES records name the list, the check relates them. -/
def listOwnerFlaws (s : State) (im : Image) (c : Section) : List Flaw :=
  (im.diesOf c).flatMap (fun d => (List.range (leAt c.content 0 2)).flatMap (fun i =>
    let l := leAt (c.record 8 24 i) 0 1
    let ts := (List.range 1024).filter (fun t => s.listDie t l == some d && ((s.queueRec t l 0).isSome || (s.queueRec t l 1).isSome))
    c.joint (ts.any (fun t => (s.queueRec t l 1).isSome)) 0x0609 (.entry i) ts.head? (ts.map (fun t => (im.tileSec 0x43 0 t, .head 0)))))

/-! ### CONNECTIONS and COLLECTIVES (R396, R408, R419, R423) -/

def connectionsFlaws (s : State) (c : Section) : List Flaw :=
  let n := leAt c.content 0 2
  let recs := (List.range n).map (c.record 8 16)
  c.byte (decide (n ≤ 8192)) 0x0711 0 ++ c.holds (8 + 16 * n) ++ c.byte (zeroAt c.content 2 6) 0x0524 2
  ++ (List.range n).flatMap (fun i =>
      let r := c.record 8 16 i
      let peer := leAt r 4 4 % 2 ^ 20
      c.item (zeroAt r 3 1 && (decide (leAt r 4 4 < 2 ^ 20) && zeroAt r 13 3)) 0x0524 i
      ++ c.item (decide (leAt r 0 2 < n) && (decide (leAt r 2 1 < 4) && ([8, 10].all (fun k => decide (1 ≤ leAt r k 2) && decide (leAt r k 2 ≤ 4096))
        && (decide (1 ≤ leAt r 12 1) && decide (leAt r 12 1 ≤ 64))))) 0x0711 i
      ++ c.item (s.inAxes peer && peer != s.ownAddr) 0x0711 i
      ++ c.item ((recs.take i).all (fun q => leAt q 0 2 != leAt r 0 2 && !(leAt q 4 4 == leAt r 4 4 && leAt q 2 1 == leAt r 2 1))) 0x0711 i)
  ++ c.byte (decide ((recs.map (fun r => leAt r 8 2 + leAt r 10 2)).foldl (· + ·) 0 ≤ 32768)) 0x0711 0
  ++ c.tail (8 + 16 * n)

/-- Bytes of a staged LOCAL slot (R419). -/
def CollRec.slotL (r : CollRec) : Nat := 64 + 2048 * (fmtBits r.localFmt / 8)

/-- The areas of a collective: base and bytes (R419). -/
def State.collAreas (s : State) (r : CollRec) : List (Nat × Nat) :=
  let l := s.axisLen r.axis
  let n := r.blocks
  if r.kind = 0 then
    [(r.send, (l - 1) * n * 2112), (r.recv, (l - 1) * n * 2112), (r.local_, l * n * r.slotL), (r.source, l * n * 2048 * (fmtBits r.localFmt / 8))]
  else [(r.send, n * 2176), (r.recv, l * n * 2176)]

def collOk (s : State) (r : CollRec) : Bool :=
  let l := s.axisLen r.axis
  let e := signed 8 r.initExp
  decide (r.kind < 2) && (decide (r.axis < 4) && ((r.wire == 3 || r.wire == 4) && ((if r.kind = 0 then decide (r.localFmt < 3) else r.localFmt == 0)
    && (decide ((-126 : Int) ≤ e) && (decide (e ≤ 96) && (decide (r.policy < 3) && (r.stageMoves != 0 && (r.due != 0 && (decide (r.due ≤ r.stageMoves)
    && (decide (1 ≤ r.blocks) && (decide (r.blocks * l ≤ 65536) && (decide (2 ≤ l) && ((r.kind == 1 || decide (r.copyMove < r.startMove))
    && ([r.send, r.recv, r.local_, r.source, r.owned].all (fun a => a % 64 == 0)
    && (r.kind == 1 || r.ownedBytes % 65536 == 0)))))))))))))))

/-- The owner-table entry j as the OWNERS section gives it; an entry it does not give is as the table now holds it. -/
def State.imageEntry (s : State) (im : Image) (j : Nat) : Nat :=
  let b := im.dev 0x11
  if leAt b 0 4 ≤ j ∧ j < leAt b 0 4 + leAt b 4 4 then leAt b (16 + 8 * (j - leAt b 0 4)) 8 else s.ownerEntry 0 j

/-- The owners of a collective's tensor: every entry valid at INIT_EPOCH, on the ring, with a BASE that R417 admits on this device; n
blocks at each. -/
def State.ownersOk (s : State) (im : Image) (r : CollRec) (epoch : Nat) : Bool :=
  match s.dtensor r.tensor with
  | none => false
  | some (first, entries, block) =>
    let l := s.axisLen r.axis
    let es := (List.range entries).map (fun j => s.imageEntry im (first + j))
    let u := 2 ^ (3 + block)
    es.all (fun e => isBit e 63 && (bits e 62 55 == epoch && (bits e 54 51 == block
      && ((List.range 4).all (fun k => k == r.axis || coord (bits e 50 31) k == coord s.ownAddr k)
      && (r.kind == 1 || (bits e 50 31 != s.ownAddr || (decide (r.owned ≤ bits e 23 0 * 65536)
        && (r.ownedBytes != 0 && (bits e 23 0 * 65536 - r.owned) % r.ownedBytes == 0))))))))
    && (entries * u == l * r.blocks && (List.range l).all (fun x =>
      (es.filter (fun e => coord (bits e 50 31) r.axis == x)).length * u == r.blocks))
    && (r.kind == 1 || decide (2 ^ (16 + block) ≤ r.ownedBytes))

/-- The connection of a collective: its virtual channel, and the next device of the ring as peer. -/
def State.collConnOk (s : State) (r : CollRec) : Bool :=
  match s.connRec r.conn with
  | none => false
  | some x => x.vc == (if r.kind = 0 then 1 else 2)
      && (coord x.peer r.axis == s.ringCoord r 1 && (List.range 4).all (fun k => k == r.axis || coord x.peer k == coord s.ownAddr k))

/-- The image needs the vote exchange: a TRAINING section or a JOB-scope domain (R427). -/
def State.needsExchange (s : State) : Bool :=
  !(s.devSection 0x32).isEmpty || (List.range (leAt (s.devSection 0x42) 0 2)).any (fun i => leAt (s.devSection 0x42) (9 + 16 * i) 1 == 1)

/-- A CONTROL connection leads to every ring peer on every axis of length 2 or more. -/
def State.controlOk (s : State) : Bool :=
  (List.range 4).all (fun k => (List.range (s.axisLen k)).all (fun j =>
    j == coord s.ownAddr k || s.connRecs.any (fun x => x.vc == 0 && (coord x.peer k == j
      && (List.range 4).all (fun i => i == k || coord x.peer i == coord s.ownAddr i)))))

/-- The exchanges of a step: formation and due times as positions move × 2^24 + offset (R323, R358, R427). -/
def State.exchanges (s : State) : List (Nat × Nat) :=
  let t := s.devSection 0x32
  let d := s.devSection 0x42
  (if t.isEmpty then [] else [(leAt t 4 4 * 2 ^ 24 + leAt t 8 3, (leAt t 4 4 + leAt t 11 1) * 2 ^ 24)])
  ++ ((List.range (leAt d 0 2)).filter (fun i => leAt d (9 + 16 * i) 1 == 1)).map (fun i =>
      (leAt d (12 + 16 * i) 4 * 2 ^ 24 + leAt d (16 + 16 * i) 3, (leAt d (12 + 16 * i) 4 + 2) * 2 ^ 24))

/-- No exchange is due after the next one of the step is formed. -/
def State.exchangesOk (s : State) : Bool :=
  let xs := s.exchanges
  (List.range xs.length).all (fun i => (List.range xs.length).all (fun j =>
    let a := xs.getD i (0, 0)
    let b := xs.getD j (0, 0)
    i == j || (decide (b.1 < a.1) || (decide (a.2 ≤ b.1) && a.1 != b.1))))

/-- The place of a connection's record in CONNECTIONS; the count where it has none. -/
def State.connSpot (s : State) (conn : Nat) : Spot :=
  let bs := s.devSection 0x50
  match (List.range (leAt bs 0 2)).find? (fun i => leAt bs (8 + 16 * i) 2 == conn) with
  | none => .head 0
  | some i => .entry i

def collectivesFlaws (s : State) (im : Image) (c : Section) : List Flaw :=
  let b := c.content
  let n := leAt b 6 2
  let rs := s.collRecs
  let roles := (List.range 4).map (fun k => leAt b k 1)
  let vote := leAt (s.devSection 0x32) 4 4
  let stage := (leAt b 8 8, leAt b 16 8)
  let plan := (leAt b 24 8, if leAt b 16 8 = 0 then 0 else 131072)
  let areas := fun (q : List CollRec) => [stage, plan] ++ q.flatMap s.collAreas
  c.holds (32 + 96 * n) ++ c.byte (zeroAt b 5 1) 0x0524 5
  ++ c.byte (roles.all (fun r => decide (r < 5)) && !hasDup (roles.filter (fun r => r != 0))) 0x0801 0
  ++ c.byte (decide (n ≤ 256)) 0x0801 6 ++ c.byte (stage.1 % 65536 == 0 && s.inJob stage.1 stage.2) 0x0801 8
  ++ c.byte (plan.1 % 4096 == 0 && (s.inJob plan.1 plan.2 && !overlap stage.1 stage.2 plan.1 plan.2)) 0x0801 24
  ++ (List.range n).flatMap (fun i =>
      let q := c.record 32 96 i
      let r := collRecOf q
      let mine := s.collAreas r
      let moves := leAt (im.dev 2) 4 4
      c.item (decide (leAt q 3 1 < 2) && (bits (leAt q 7 1) 7 3 == 0 && (zeroAt q 13 3 && zeroAt q 80 16))) 0x0524 i
      ++ c.item (collOk s r && !((rs.take i).map (fun x => x.coll)).contains r.coll) 0x0801 i
      ++ c.item (r.inference || (r.kind == 1 || roles.getD r.axis 0 == 1)) 0x0801 i
      ++ c.item (mine.all (fun a => s.inJob a.1 a.2)) 0x0801 i
      ++ c.item (areasApart mine && mine.all (fun a => (areas (rs.take i)).all (fun x => !overlap a.1 a.2 x.1 x.2))) 0x0801 i
      ++ c.item (r.kind == 1 || rs.any (fun x => x.coll == r.pair && (x.kind == 1 && (x.tensor == r.tensor && (x.axis == r.axis && x.wire == r.wire))))) 0x0801 i
      ++ c.joint (s.collConnOk r) 0x0801 (.entry i) none [(im.devSec 0x50, s.connSpot r.conn)]
      ++ c.joint (s.ownersOk im r (leAt b 4 1)) 0x0801 (.entry i) none [(im.devSec 0x10, .head 0), (im.devSec 0x11, .head 0)]
      ++ c.joint (decide (r.startMove + (s.axisLen r.axis - 2) * r.stageMoves + r.due < moves)) 0x0801 (.entry i) none [(im.devSec 2, .head 4)]
      ++ c.joint (r.inference || (r.kind == 1 || ((im.devSec 0x32).isNone
          || decide (r.startMove + (s.axisLen r.axis - 2) * r.stageMoves + r.due ≤ vote)))) 0x0801 (.entry i) none [(im.devSec 0x32, .head 4)])
  ++ c.joint (!s.needsExchange || s.controlOk) 0x0801 (.head 0) none [(im.devSec 0x50, .head 0), (im.devSec 0x32, .head 0), (im.devSec 0x42, .head 0)]
  ++ c.joint s.exchangesOk 0x0801 (.head 0) none [(im.devSec 0x32, .head 0), (im.devSec 0x42, .head 0)]
  ++ c.tail (32 + 96 * n)

/-! ### REDUCE_OPS and SECURING (R424, R450, R451) -/

def reduceOpOk (r : List Byte) : Bool :=
  let m := leAt r 0 1
  let o := leAt r 2 1
  decide (m < 4) && ((leAt r 1 1 == 3 || leAt r 1 1 == 4) && (if m = 1 then decide (o < 2) else if m = 3 then o == 1 || o == 2 else o == 0))

def reduceOpsFlaws (s : State) (im : Image) (c : Section) : List Flaw :=
  let n := leAt c.content 0 2
  c.byte (decide (n ≤ 64)) 0x0802 0 ++ c.holds (8 + 8 * n) ++ c.byte (zeroAt c.content 2 6) 0x0524 2
  ++ (List.range n).flatMap (fun i =>
      let r := c.record 8 8 i
      c.item (decide (leAt r 3 1 < 8) && zeroAt r 5 3) 0x0524 i ++ c.item (reduceOpOk r) 0x0802 i
      ++ c.joint (leAt r 0 1 == 3 || s.collRecs.any (fun x => x.coll == leAt r 4 1)) 0x0802 (.entry i) none [(im.devSec 0x60, s.collSpot (leAt r 4 1))])
  ++ c.tail (8 + 8 * n)

/-- The range lies where R451 admits it, and its fields are in range. -/
def State.rangeOk (s : State) (r : SecRange) : Bool :=
  r.bytes % 64 == 0 && (r.addr % 64 == 0 && (if r.tile then decide (r.addr % 2 ^ 19 + r.bytes ≤ 2 ^ 19) && decide (r.addr < 2 ^ 21)
    else r.t == 0 && s.inJob r.addr r.bytes))

def rangesMeet (a b : SecRange) : Bool := a.tile == b.tile && (a.t == b.t && overlap a.addr a.bytes b.addr b.bytes)

def securingFlaws (s : State) (im : Image) (c : Section) : List Flaw :=
  let b := c.content
  let n := leAt b 12 4
  let rs := s.secRanges
  let none_ := isBit (leAt b 4 4) 31
  let bulk := fun (k peer : Nat) => match s.connRec k with
    | none => false
    | some x => x.vc == 2 && x.peer == peer
  c.holds (32 + 16 * n) ++ c.byte (decide (leAt b 0 4 < 2 ^ 20) && (bits (leAt b 4 4) 30 20 == 0 && zeroAt b 16 16)) 0x0524 0
  ++ c.byte (decide (n ≤ 65535)) 0x0907 12 ++ c.byte (!none_ || leAt b 10 2 == 0) 0x0907 10
  ++ c.joint (bulk (leAt b 8 2) (leAt b 0 4 % 2 ^ 20)) 0x0907 (.head 8) none [(im.devSec 0x50, s.connSpot (leAt b 8 2))]
  ++ c.joint (none_ || bulk (leAt b 10 2) (leAt b 4 4 % 2 ^ 20)) 0x0907 (.head 10) none [(im.devSec 0x50, s.connSpot (leAt b 10 2))]
  ++ c.joint (decide (2 ≤ leAt (im.dev 2) 4 4)) 0x0907 (.head 0) none [(im.devSec 2, .head 4)]
  ++ (List.range n).flatMap (fun i =>
      let q := c.record 32 16 i
      let r := rs.getD i ⟨false, 0, 0, 0⟩
      c.item (zeroAt q 1 1 && decide (leAt q 2 2 < 1024)) 0x0524 i
      ++ c.item (decide (leAt q 0 1 < 2) && s.rangeOk r) 0x0907 i
      ++ c.item ((rs.take i).all (fun p => !rangesMeet p r)) 0x0907 i)
  ++ c.byte ((List.range 4).all (fun d => decide (s.partBytes d ≤ s.slotBytes d))) 0x0907 12
  ++ c.tail (32 + 16 * n)

/-! ### The phase (R240) -/

/-- Every failure that the checks of a selected section find. -/
def sectionFlaws (s : State) (im : Image) (c : Section) : List Flaw :=
  match c.typ with
  | 0x01 => targetFlaws c
  | 0x02 => sequenceFlaws im c
  | 0x03 => routesFlaws im c
  | 0x04 => groupsFlaws s im c
  | 0x05 => slotsFlaws im c
  | 0x06 => listsFlaws im c ++ listOwnerFlaws s im c
  | 0x07 => banksFlaws c
  | 0x08 => modesFlaws c
  | 0x09 => bodyFlaws s im c ++ extentWordFlaws s im c ++ derivFlaws s im c
  | 0x0A => paramsFlaws c
  | 0x0B => constantsFlaws c
  | 0x0C => quantFlaws im c
  | 0x0D => landingsFlaws c
  | 0x0E => tensorsFlaws c
  | 0x10 => dtensorsFlaws c
  | 0x11 => ownersFlaws s im c
  | 0x20 => extentsFlaws c
  | 0x30 => stackFlaws s im c
  | 0x31 => backwardFlaws s im c
  | 0x32 => trainingFlaws im c
  | 0x40 => topkFlaws c
  | 0x41 => expertsFlaws s im c
  | 0x42 => decisionsFlaws s im c
  | 0x43 => queuesFlaws s im c
  | 0x50 => connectionsFlaws s c
  | 0x60 => collectivesFlaws s im c
  | 0x61 => reduceOpsFlaws s im c
  | 0x70 => securingFlaws s im c
  | _ => []

/-- Phase 3: the first failure over every selected section. -/
def State.phase3 (s : State) (im : Image) : Option Reject :=
  match firstFlaw (im.sections.flatMap (sectionFlaws (s.probe im) im)) with
  | none => none
  | some f => some ⟨f.code, f.entry, 3, f.pos, 0, f.tile⟩

end Sys2Proof.Machine
end

