-- ==== Sys2Proof/Machine/Schedule.lean ====
section
/-! DEFINITION. Phase 4 of validation, first part: the schedule of each tile at nominal timing: what each operation occupies, the rules
within one move, and the bank states, accumulator sets, landings and open DMA operations followed through the moves of the step (R22,
R25, R75, R82 to R98, R103, R108, R111, R120, R121, R125, R132, R139, R143, R147, R163, R166 to R176, R224, R240, R302, R321, R357, R361). -/

namespace Sys2Proof.Machine

/-! ### What an operation occupies -/

/-- One range of tile lines that an operation reads or writes, and the cycles in which it may. -/
structure Use where
  run : LineRun
  unit : BankUnit
  write : Bool
  lo : Nat
  hi : Nat
  deriving DecidableEq, Repr

/-- Unit (0 array, 1 drain, 2 Knight, 3 vector, 4 DMA issue port, 5 none), first and last cycle, the lead before t0, and the uses. -/
structure OpInfo where
  unit : Nat
  lead : Nat
  first : Nat
  last : Nat
  uses : List Use
  deriving DecidableEq, Repr

/-- Sub-chunks of an array operation (R84). -/
def ArrWord.subChunks (f : ArrWord) : Nat := f.kc * (if f.fmtA = 0 then 3 else 1)

/-- The masks, tables and panels of an array operation from t0 (R81, R84, R98, R108). -/
def State.arrayInfo (s : State) (t w : Nat) : Option OpInfo :=
  let f := arrWord w
  let t0 := wOffset w
  if f.m = 0 ∨ f.n = 0 ∨ f.kc = 0 then none
  else
    let r := s.param t f.param
    let span := (f.subChunks - 1) * 64 + f.m
    let masked := f.pen && isBit (leAt r 1 1) 0
    let use := fun run => (⟨run, .feeder, false, t0, t0 + 63 + span⟩ : Use)
    some ⟨0, if masked then 4 else 0, t0 - (if masked then 4 else 0), t0 + span + 103,
      use ⟨f.aLine, ((f.kc - 1) * 64 + f.m) * pitchLines f.fmtA⟩ :: use ⟨f.bLine, 64 * f.kc * pitchLines f.fmtB⟩
      :: ((if f.pen then (arrRunsT f (leAt r 2 2) (leAt r 4 2)).map use else [])
        ++ (if masked then [⟨⟨leAt r 6 2, 1⟩, .feeder, false, t0 - 4, t0 - 1⟩] else []))⟩

/-- The BACKWARD record of the DRAIN at OP_INDEX i of a plan. -/
def State.backAt (s : State) (t plan i : Nat) : Option (List Byte) :=
  let bs := s.tileSection 0x31 0 t
  ((List.range (leAt bs 0 2)).map (backRecord bs)).find? (fun r => leAt r 0 1 == plan && leAt r 2 2 == i)

def State.drainInfo (s : State) (t plan i w : Nat) : Option OpInfo :=
  let f := drainWord w
  let t0 := wOffset w
  if f.m = 0 then none
  else
    let lead := if f.src = 1 then 8 else 0
    some ⟨1, lead, t0 - lead, t0 + f.beat * f.m + 8,
      ⟨⟨f.dstLine, f.m * pitchLines f.fmt⟩, .drain, true, t0 + 9, t0 + f.beat * f.m + 8⟩
      :: ((if f.src = 1 then [⟨byteRun (64 * f.srcLine) 512, .drainParam, false, t0 - 8, t0 - 5⟩] else [])
        ++ (match s.backAt t plan i with
          | none => []
          | some r => if leAt r 1 1 = 1 then
              [⟨⟨leAt r 4 2, f.m * pitchLines (leAt r 6 1 % 16)⟩, .drainParam, false, t0, t0 + f.beat * (f.m - 1)⟩] else []))⟩

/-- The most segments that the split rows of an operand can have: a split row has at least 4,097 non-zeros in two segments, and each
further 4,096 make one more (R148). -/
def KnWord.worstSegments (f : KnWord) : Nat :=
  let r := min f.nr (f.nnzMax / 4097)
  if r = 0 then 0 else 2 * r + (f.nnzMax - 4097 * r) / 4096

/-- The greatest sum of max(1, L_r) over n rows with at most NNZ_MAX non-zeros in all. -/
def KnWord.worstSum (f : KnWord) (n : Nat) : Nat := if f.nnzMax = 0 then n else f.nnzMax + (n - 1)

/-- D of R139 at the worst case of the declared bounds (R150, R152). -/
def KnWord.cycles (f : KnWord) (o : Nat) : Nat :=
  let c := if f.vfmt = 0 then 2 else 1
  if o = 0x10 then
    (if f.mode = 0 then (if f.l ≠ 0 then f.l * c + 8 else (f.sRows + 511) / 512 + f.sRows * c + 8)
      else if f.mode = 1 then f.worstSum (if f.sfmt = 2 then 64 * f.kc else f.nr) + 18
      else if f.sfmt = 2 then f.kc * 64 * c + 8 else f.nr * c + 8)
  else if o = 0x12 then
    (if f.mode = 0 then f.kc + 8 else if f.mode = 1 then f.nr + f.worstItems + 8 else f.nr * c + 8)
  else if f.mode = 0 then f.m + 6 else f.worstSegments + 6

/-- The lines a Knight operation may read and write at its declared sizes (R133 to R136, R142). -/
def knSizes (o : Nat) (f : KnWord) : List LineRun × List LineRun :=
  let pl := pitchLines f.vfmt
  let arrays := (knArrays o f).map (fun a => byteRun (64 * a.1) a.2)
  let map := [⟨f.aux, 1⟩]
  if o = 0x10 then
    (if f.mode = 0 then (arrays ++ [⟨f.src, f.sRows * pl⟩],
        ⟨f.dst, (if f.l = 0 then f.sRows else f.l) * pl⟩ :: (if f.l = 0 then map else []))
      else if f.mode = 1 then (arrays ++ ⟨f.src, (if f.sfmt = 2 then 64 * f.kc else f.sRows) * pl⟩ :: (if f.sfmt = 2 then map else []), [])
      else if f.sfmt = 2 then (arrays ++ map, [⟨f.dst, f.kc * 64 * pl⟩]) else (arrays, [⟨f.dst, f.nr * pl⟩]))
  else if o = 0x12 then
    (if f.mode = 0 then (arrays, map) else if f.mode = 1 then (arrays, [⟨f.dst, 4 * f.nr⟩]) else ([⟨f.src, f.nr * pl⟩], arrays))
  else if f.mode = 1 then ([byteRun (64 * f.rowptr) (4 * (f.nr + 1)), ⟨f.aux, 4 * f.worstItems⟩], [⟨f.dst, 4 * f.nr⟩])
  else ([], [])

def State.knightInfo (s : State) (t w : Nat) : Option OpInfo :=
  let o := wOpcode w
  let f := knWord w (s.param t (bits w 78 71))
  let t0 := wOffset w
  if f.isDyn o || f.idle o then none
  else
    let z := knSizes o f
    let last := t0 + f.cycles o - 1
    some ⟨2, 0, t0, last, z.1.map (fun r => ⟨r, .knight, false, t0, last⟩) ++ z.2.map (fun r => ⟨r, .knight, true, t0, last⟩)⟩

/-- The optimiser record that a VEC_OPTIM names: ALGO and PUB_FMT. -/
def State.optimHead (s : State) (i : Nat) : Nat × Nat :=
  let tr := s.devSection 0x32
  let r := (tr.drop (160 + 16 * leAt tr 12 2 + 32 * i)).take 32
  (leAt r 0 1, leAt r 2 1)

/-- Byte ranges that a vector operation reads and writes, and the cycle of its last access (R237, R328, R329, R338, R424). -/
def State.vectorSizes (s : State) (t w : Nat) : List LineRun × List LineRun × Nat :=
  let f := vecWord w
  let o := wOpcode w
  let t0 := wOffset w
  let n := f.rows * pitch f.fmt
  let c := if f.src1 % 64 = 0 ∧ f.dst % 64 = 0 then 1 else 2
  let std := t0 + f.rows * c + 11
  let src := byteRun f.src1 n
  match o with
  | 0x27 => ([src], [byteRun f.dst (f.rows * pitch f.const)], std)
  | 0x30 => ([src], [byteRun f.dst (64 * f.rows)], std)
  | 0x31 => ([byteRun f.src1 (64 * f.rows)], [byteRun f.dst n], std)
  | 0x32 => ([], [], t0 + 75)
  | 0x38 =>
    let r := s.topkRec t f.const
    let k := f.rows / max r.h 1
    ([src], [byteRun f.dst (if r.mode = 2 then alignUp (8 * k) 64 + alignUp ((k + 7) / 8) 64 else 16 * k)], t0 + 2 * f.rows * c + 20)
  | 0x39 => ([src], [], std)
  | 0x3A =>
    let q := s.optimHead f.const
    let st := byteRun (64 * f.src2) (256 * f.rows * (if q.1 = 0 then 2 else 3))
    ([src, st], [st, byteRun f.dst (f.rows * pitch q.2)], t0 + f.rows * (if q.1 = 0 then 2 else 4) * c + 20)
  | 0x3B =>
    let r := s.redRec t f.const
    let two := fun (out : Nat) => (redReads r f, [byteRun f.dst out], t0 + 82)
    if r.mode = 0 then two 2112
    else if r.mode = 1 then two (64 + 32 * pitch r.out)
    else if r.mode = 2 then ([byteRun f.src1 (32 * pitch f.fmt), ⟨f.src2, 1⟩], [byteRun f.dst 2176], t0 + 82)
    else ([byteRun f.src1 2176], [byteRun f.dst (32 * pitch r.out)], t0 + 82)
  | _ => (src :: ((if vecHasSrc2 o then [byteRun (64 * f.src2) n] else []) ++ (if o = 0x23 then [byteRun f.dst n] else [])), [byteRun f.dst n], std)

def State.vectorInfo (s : State) (t w : Nat) : Option OpInfo :=
  let t0 := wOffset w
  if (vecWord w).rows = 0 then none
  else
    let z := s.vectorSizes t w
    some ⟨3, 0, t0, z.2.2, z.1.map (fun r => ⟨r, .vector, false, t0, z.2.2⟩) ++ z.2.1.map (fun r => ⟨r, .vector, true, t0, z.2.2⟩)⟩

/-- The slots of a route that take from (`src`) or deliver to the tile, in ascending order. -/
def State.localSlots (s : State) (plan t route : Nat) (src : Bool) : List Nat :=
  (((s.activeSlots plan t).filter (fun q => q.2.route == route && (decide (q.2.kind < 2)
    && (if src then q.2.inp == 0 || (q.2.kind == 1 && q.2.in2 == 0) else q.2.out == 0)))).flatMap (fun q => q.2.cycles)).mergeSort (fun a b => decide (a ≤ b))

/-- What a word occupies; none for a word that requests no operation or occupies no unit. -/
def State.opInfo (s : State) (t plan i w : Nat) : Option OpInfo :=
  let o := wOpcode w
  let t0 := wOffset w
  if arrayOps.contains o then s.arrayInfo t w
  else if o = 0x05 then s.drainInfo t plan i w
  else if knightOps.contains o then s.knightInfo t w
  else if vectorOps.contains o then s.vectorInfo t w
  else if dmaOps.contains o then
    (if bits w 70 63 = 0 then none
      else let last := t0 + 3 + (bits w 70 63 + 1) / 2
        some ⟨4, 0, t0, last, [⟨⟨bits w 62 48, 2 * bits w 70 63⟩, .dma, false, t0, last⟩]⟩)
  else if o = 0x42 ∨ o = 0x43 then
    (if bits w 90 79 = 0 then none
      else
        let cs := s.localSlots plan t (bits w 63 48) (o == 0x42)
        let last := (cs.getLast?.getD t0) + (if o = 0x42 then 0 else 2)
        some ⟨5, 0, t0, last, [⟨⟨bits w 78 64, 2 * bits w 90 79⟩, .dma, o == 0x43, t0, last⟩]⟩)
  else none

/-! ### Rules within one move -/

/-- A word of a body: OP_INDEX, word, what it occupies. -/
abbrev Placed := Nat × Nat × OpInfo

def State.placed (s : State) (t plan : Nat) : List Placed :=
  let ws := s.body t plan
  (List.range ws.length).filterMap (fun i => (s.opInfo t plan i (ws.getD i 0)).map (fun o => (i, ws.getD i 0, o)))

def runsMeet (a b : LineRun) : Bool := overlap a.line a.count b.line b.count

/-- The last cycle of an operation with its guard. -/
def Placed.fin (x : Placed) : Nat := x.2.2.last + wGuard x.2.1

/-- Two operations, `a` the earlier in the body: one unit, or `b` writes or reads the destination rows of `a`, within the guard of the first
(R95, R132). The rows of a RECV, which has no guard, clash with writes alone. -/
def clashCode (a b : Placed) : Option Nat :=
  if a.fin ≤ b.2.2.first then none
  else if a.2.2.unit = 2 ∧ b.2.2.unit = 2 then some 0x0309
  else if a.2.2.unit = b.2.2.unit ∧ a.2.2.unit < 5 then some 0x052A
  else if a.2.2.uses.any (fun u => u.write && b.2.2.uses.any (fun v => (v.write || decide (a.2.2.unit < 5)) && runsMeet u.run v.run)) then
    some 0x052A
  else none

/-- An operation drains a set through the channel registers, or quantises (R120). -/
def usesChannels (w : Nat) : Bool :=
  (wOpcode w == 0x05 && (drainWord w).src == 2) || (wOpcode w == 0x30 || wOpcode w == 0x31)

/-- `a` is a PLAN that writes the line of the path map which `b` reads, and its last write does not precede the first read (R147). -/
def State.mapClash (s : State) (t : Nat) (a b : Placed) : Bool :=
  let f := knWord a.2.1 (s.param t (bits a.2.1 78 71))
  let o := wOpcode b.2.1
  let g := knWord b.2.1 (s.param t (bits b.2.1 78 71))
  let reads := (o == 0x10 && (g.sfmt == 2 && (decide (1 ≤ g.mode) && g.aux == f.aux)))
    || (o == 1 && ((arrWord b.2.1).pen && (isBit (leAt (s.param t (arrWord b.2.1).param) 1 1) 0 && leAt (s.param t (arrWord b.2.1).param) 6 2 == f.aux)))
  wOpcode a.2.1 == 0x12 && (f.mode == 0 && (reads && decide (b.2.2.first ≤ a.2.2.last)))

/-- The unit of a tile is ON (R224). -/
def State.tileUnitOn (s : State) (kind t : Nat) : Bool :=
  let bs := s.dieSection secMODES (tDie t)
  match (((List.range (leAt bs 0 4)).map (fun i => (bs.drop (8 + 8 * i)).take 8)).filter (fun r => leAt r 0 1 == kind && leAt r 2 2 == tNum t)).getLast? with
  | none => true
  | some r => leAt r 1 1 == 1

/-- The declaration of a tensor scale slot of a tile; an undeclared one holds its reset value. -/
def State.slotDecl (s : State) (t i : Nat) : Nat :=
  let bs := s.tileSection secQUANT 0 t
  if bs.isEmpty then 2 ^ 20 else leAt bs (4 * i) 4

/-- A VALID training slot whose effective policy is SKIP_ON_SATURATE (R123, R125). -/
def skipSlot (v : Nat) : Bool :=
  isBit v 0 && (!isBit v 9 && (bits v 13 12 == 2 || (bits v 13 12 == 0 && bits v 11 10 == 2)))

/-- An operation that ends in cycle `last` of a plan's moves ends after VOTE_OFFSET of VOTE_MOVE in some move. -/
def State.afterVote (s : State) (plan last : Nat) : Bool :=
  let tr := s.devSection 0x32
  !tr.isEmpty && (s.movesOf plan).any (fun m => decide (leAt tr 4 4 < m) || (m == leAt tr 4 4 && decide (leAt tr 8 3 < last)))

/-- The formation of domain d, if declared: FORM_MOVE and FORM_OFFSET. -/
def State.domainForm (s : State) (d : Nat) : Option (Nat × Nat) :=
  let bs := s.devSection 0x42
  match ((List.range (leAt bs 0 2)).map (fun i => (bs.drop (8 + 16 * i)).take 16)).find? (fun r => leAt r 0 1 == d) with
  | none => none
  | some r => some (leAt r 4 4, leAt r 8 3)

/-- The rules that one placed word meets alone: code of each failure. -/
def State.aloneCodes (s : State) (t plan : Nat) (x : Placed) : List Nat :=
  let w := x.2.1
  let o := wOpcode w
  let t0 := wOffset w
  let k := s.moveCycles
  let f := arrWord w
  let arr := arrayOps.contains o
  let q := s.param t (drainWord w).param
  let slot := s.slotDecl t (leAt q 6 1 % 16)
  let tr := s.devSection 0x32
  let back := s.backAt t plan x.1
  let code := fun (ok : Bool) (c : Nat) => if ok then [] else [c]
  code (decide (x.2.2.lead ≤ t0) && decide (x.fin < k)) 0x0529
  ++ code (x.2.2.uses.all (fun u => u.run.count == 0 || linesFit u.run.line u.run.count)) 0x052C
  ++ code (!(arr || o == 0x05) || s.tileUnitOn 0 t) 0x052D
  ++ code (!vectorOps.contains o || s.tileUnitOn 1 t) 0x052D
  ++ code (!knightOps.contains o || s.tileUnitOn 2 t) 0x052D
  ++ code (!(arr && (f.pen && isBit (leAt (s.param t f.param) 1 1) 0)) || (o == 1 && wClass w == 1)) 0x052F
  ++ code (!(arr && (f.fmtB == 5 || f.fmtB == 6)) || wClass w == 1) 0x052F
  ++ code (!(arr && f.rot != 0) || (o == 1 && (f.fmtA != 0 && s.tileUnitOn 3 t))) 0x0530
  ++ (if o = 0x05 then
      code (!isBit (leAt q 6 1) 7 || bits slot 23 20 == (drainWord w).fmt) 0x0533
      ++ code (!(isBit (leAt q 6 1) 7 && skipSlot slot) || !s.afterVote plan x.2.2.last) 0x0534
      ++ (match back with
        | none => []
        | some r => code (leAt r 1 1 != 2 || !s.afterVote plan x.2.2.last) 0x08E6)
    else [])
  ++ code (o != 0x39 || !s.afterVote plan x.2.2.last) 0x08E6
  ++ code (o != 0x3A || (s.movesOf plan).all (fun m => decide (leAt tr 4 4 + leAt tr 11 1 ≤ m))) 0x08E6
  ++ (if o = 0x38 ∧ (s.topkRec t (vecWord w).const).mode = 2 then
      (match s.domainForm (s.topkRec t (vecWord w).const).domain with
        | none => []
        | some d => code ((s.movesOf plan).all (fun m => m == d.1) && decide (x.2.2.last ≤ d.2)) 0x0608)
    else [])

/-- A CLAIM against the static operations of its window (R132, R238, R361). -/
def State.claimCodes (s : State) (t w k : Nat) (xs : List Placed) : List Nat :=
  let t0 := wOffset w
  let n := bits w 77 54
  let e := bits w 87 86
  let within := xs.filter (fun x => overlap t0 n x.2.2.first (x.2.2.last + 1 - x.2.2.first))
  (if n = 0 ∨ s.tileUnitOn (if e = 0 then 2 else if e = 1 then 1 else 0) t then [] else [0x052D])
  ++ (if t0 + n ≤ k then [] else [0x0529])
  ++ (if e = 0 ∧ within.any (fun x => x.2.2.unit == 2) then [0x0309] else [])
  ++ (if e = 1 ∧ within.any (fun x => x.2.2.unit == 3) then [0x052A] else [])
  ++ (if e = 2 ∧ within.any (fun x => x.2.2.unit == 1 || (x.2.2.unit == 0
      || (wOpcode x.2.1 == 0x11 && ((knWord x.2.1 []).mode == 0 && (knWord x.2.1 []).buf == 0)))) then [0x052A] else [])

/-- A failure of phase 4: plan, tile, position, code. -/
structure Fail where
  plan : Nat
  tile : Nat
  pos : Nat
  code : Nat
  deriving DecidableEq, Repr

/-- The ACCUMULATE that runs a tile's claimed items. -/
def State.dynamicWord (s : State) (t w : Nat) : Bool :=
  knightOps.contains (wOpcode w) && (knWord w (s.param t (bits w 78 71))).isDyn (wOpcode w)

/-- Every failure of the rules within one move of a tile's body. -/
def State.moveFails (s : State) (plan t : Nat) : List Fail :=
  let xs := s.placed t plan
  let ws := s.body t plan
  let f := fun (i c : Nat) => (⟨plan, t, i, c⟩ : Fail)
  (List.range xs.length).flatMap (fun j =>
    match xs[j]? with
    | none => []
    | some x =>
      (s.aloneCodes t plan x).map (f x.1)
      ++ (xs.take j).flatMap (fun a =>
          (match clashCode a x with
            | none => []
            | some c => [f x.1 c])
          ++ (if (wOpcode a.2.1 == 0x32 && usesChannels x.2.1) || (wOpcode x.2.1 == 0x32 && usesChannels a.2.1) then
              (if x.2.2.first ≤ a.2.2.last then [f x.1 0x0532] else []) else [])
          ++ (if s.mapClash t a x || s.mapClash t x a then [f x.1 0x0309] else [])))
  ++ ((List.range ws.length).filter (fun i => wOpcode (ws.getD i 0) == 0x44)).flatMap (fun i => (s.claimCodes t (ws.getD i 0) s.moveCycles xs).map (f i))
  ++ (List.range ws.length).filterMap (fun i => if s.dynamicWord t (ws.getD i 0) && !s.tileUnitOn 2 t then some (f i 0x052D) else none)

/-! ### Accumulator sets (R75, R88, R92, R95, R103, R143) -/

/-- What the schedule makes of the two sets: their modes (0 none, 1 to 5 as ArrMode.code, 6 the c of a pair, 7 the s of a pair that has
ended), and within the move the first cycle each is readable, the cycle after its last row read, the end of the guards on it, whether a
premove operation has written it; when buffer b was last written, and whether a premove operation has written it. -/
structure Sets where
  m0 : Nat
  m1 : Nat
  ready : Nat × Nat
  read : Nat × Nat
  busy : Nat × Nat
  marked : Bool × Bool
  buf : Nat × Nat
  bufMarked : Bool × Bool
  deriving DecidableEq, Repr

def Sets.start (m0 m1 : Nat) : Sets := ⟨m0, m1, (0, 0), (0, 0), (0, 0), (false, false), (0, 0), (false, false)⟩

def sel {α : Type} (i : Nat) (p : α × α) : α := if i = 0 then p.1 else p.2
def put {α : Type} (i : Nat) (v : α) (p : α × α) : α × α := if i = 0 then (v, p.2) else (p.1, v)

def Sets.mode (z : Sets) (i : Nat) : Nat := if i = 0 then z.m0 else z.m1
def Sets.setMode (z : Sets) (i m : Nat) : Sets := if i = 0 then { z with m0 := m } else { z with m1 := m }

/-- A set written by an operation that ends at `last` and whose accumulators are readable from `ready`. -/
def Sets.wrote (z : Sets) (i ready fin : Nat) (pre : Bool) : Sets :=
  { z with
    ready := put i ready z.ready
    busy := put i (max fin (sel i z.busy)) z.busy
    marked := put i (sel i z.marked || pre) z.marked }

/-- The mode of an array operation's word. -/
def arrayMode (w : Nat) : Nat := if wOpcode w = 1 then (if (arrWord w).fmtA = 0 then 2 else 1) else wOpcode w + 1

/-- An array operation against the sets. A DIST_ABS, DIST_SQ or MINPLUS with CLEAR 1 ends a compensated pair as an MMA with CLEAR 1 does: on set 0
the pair is over, on set 1 the operation is rejected with 0x052B (R75; DESIGN CHOICE, log entry 115). -/
def Sets.array (z : Sets) (x : Placed) : Sets × List Nat :=
  let f := arrWord x.2.1
  let m := arrayMode x.2.1
  let t0 := wOffset x.2.1
  let sets := if m = 2 then [0, 1] else [f.set]
  let order := sets.all (fun i => decide (sel i z.read ≤ t0 + 80) && decide (sel i z.busy ≤ t0))
  let modeOk :=
    if m = 2 then f.clear || (z.m0 == 2 && z.m1 == 6)
    else if f.clear then z.mode f.set != 6 || x.2.1 % 256 == 1
    else z.mode f.set == m
  let z1 :=
    if m = 2 then (z.setMode 0 2).setMode 1 6
    else if f.clear ∧ z.m1 = 6 then (z.setMode f.set m).setMode (1 - f.set) 7
    else z.setMode f.set m
  (sets.foldl (fun z i => z.wrote i x.2.2.last x.fin (wPre x.2.1)) z1,
    (if order then [] else [0x052A]) ++ (if modeOk then [] else [0x052B]))

/-- A DRAIN against the sets. -/
def Sets.drain (z : Sets) (x : Placed) : Sets × List Nat :=
  let f := drainWord x.2.1
  let t0 := wOffset x.2.1
  let sets := if f.set = 0 ∧ z.m0 = 2 ∧ z.m1 = 6 then [0, 1] else [f.set]
  let order := decide (sel f.set z.ready ≤ t0) && decide (sel f.set z.busy ≤ t0)
  (sets.foldl (fun z i => { z with
      read := put i (max (sel i z.read) (t0 + f.beat * (f.m - 1) + 1)) z.read
      busy := put i (max (sel i z.busy) x.fin) z.busy }) z,
    (if order then [] else [0x052A]) ++ (if 1 ≤ z.mode f.set ∧ z.mode f.set ≤ 5 then [] else [0x052B])
      ++ (if sel f.set z.marked && !wPre x.2.1 then [0x052D] else []))

/-- A Knight operation against the sets and merge buffers (R143); a merge of a buffer that a premove operation wrote marks the set (R159). -/
def Sets.knight (z : Sets) (x : Placed) : Sets × List Nat :=
  let f := knWord x.2.1 []
  let o := wOpcode x.2.1
  let t0 := wOffset x.2.1
  if o = 0x10 ∧ f.mode = 1 then
    ({ z with
        buf := put f.buf (x.2.2.last + 1) z.buf
        bufMarked := put f.buf (sel f.buf z.bufMarked || wPre x.2.1) z.bufMarked }, [])
  else if o = 0x11 ∧ f.mode = 0 then
    let b := f.buf
    let order := decide (sel b z.ready ≤ t0) && (decide (sel b z.buf ≤ t0) && (decide (sel b z.read ≤ t0) && decide (sel b z.busy ≤ t0)))
    let m := z.mode b
    (z.wrote b (x.2.2.last + 1) x.fin (wPre x.2.1 || sel b z.bufMarked),
      (if order then [] else [0x0309]) ++ (if m = 0 ∨ 6 ≤ m then [0x052B] else if m = 1 then [] else [0x0307]))
  else (z, [])

def Sets.step (z : Sets) (x : Placed) : Sets × List Nat :=
  if x.2.2.unit = 0 then z.array x else if x.2.2.unit = 1 then z.drain x else if x.2.2.unit = 2 then z.knight x else (z, [])

/-- The sets through a body: their state after it, and the failures. -/
def Sets.run : Sets → List Placed → Sets × List (Nat × Nat)
  | z, [] => (z, [])
  | z, x :: xs =>
    let r := z.step x
    let q := Sets.run r.1 xs
    (q.1, r.2.map (fun c => (x.1, c)) ++ q.2)

/-! ### Bank states through a move (R166 to R176) -/

/-- What the schedule carries from one move into the next: owner states, wake cycles left, open DMA operations (further moves each stays
open, and the landing slot of a DMA_IN), modes of the accumulator sets. -/
structure Carry where
  own : List Nat
  wake : List Nat
  opens : List (Nat × Option Nat)
  m0 : Nat
  m1 : Nat
  deriving DecidableEq, Repr

/-- A bank's states in a move: from which cycle each holds, latest first. -/
abbrev Segs := List (Nat × Nat)

def segAt : Segs → Nat → Nat
  | [], _ => 6
  | q :: rest, c => if q.1 ≤ c then q.2 else segAt rest c

/-- The states that hold in any of the cycles lo to hi. -/
def segsIn (g : Segs) (lo hi : Nat) : List Nat :=
  segAt g lo :: (g.filter (fun q => decide (lo < q.1) && decide (q.1 ≤ hi))).map (fun q => q.2)

/-- The banks through the handovers of a body: segments and wakes (bank, first, last cycle) of each, and failures. -/
structure Banks where
  segs : List Segs
  wakes : List (Nat × Nat × Nat)
  fails : List (Nat × Nat)
  deriving DecidableEq, Repr

/-- One BANK_GIVE; `locked` are the banks that hold landing slots of transfers issued before its cycle. -/
def Banks.give (z : Banks) (i w : Nat) (locked : List Nat) : Banks :=
  let b := bits w 49 48
  let new := bits w 52 50
  let t0 := wOffset w
  let cur := segAt (z.segs.getD b []) t0
  let bad := cur == ownSPEC || ((new == ownSPEC && !wPre w) || (cur != new && locked.contains b))
  { segs := if cur = new then z.segs else z.segs.set b ((t0 + 1, new) :: z.segs.getD b [])
    wakes := if cur = ownRETAINED ∧ new ≠ ownRETAINED then (b, t0 + 1, t0 + 520) :: z.wakes else z.wakes
    fails := z.fails ++ (if bad then [(i, 0x052D)] else []) }

/-- The landing slots (line, lines) locked in a move for operation i: transfers of earlier moves not yet due, and those issued at or
before cycle `c` by other words. -/
def State.lockedSlots (s : State) (t : Nat) (c : Carry) (ws : List Nat) (i cyc : Nat) : List (Nat × Nat) :=
  (c.opens.filterMap (fun o => if 2 ≤ o.1 then o.2.map (s.landing t) else none))
  ++ (List.range ws.length).filterMap (fun j =>
      let w := ws.getD j 0
      if j ≠ i ∧ wOpcode w = 0x40 ∧ bits w 70 63 ≠ 0 ∧ wOffset w ≤ cyc then some (s.landing t (bits w 90 79)) else none)

/-- A use of operation i against the banks: states, wakes, landing slots. -/
def State.useCodes (s : State) (t : Nat) (c : Carry) (ws : List Nat) (z : Banks) (x : Placed) (u : Use) : List Nat :=
  if u.run.count = 0 then []
  else
    let b := bankOfLine u.run.line
    let admits := fun st => if u.write then admitsWrite st u.unit (wPre x.2.1) else admitsRead st u.unit (wPre x.2.1)
    (if z.wakes.any (fun q => q.1 == b && (decide (q.2.1 ≤ u.hi) && decide (u.lo ≤ q.2.2))) then [0x052E] else [])
    ++ (if (segsIn (z.segs.getD b []) u.lo u.hi).all admits then [] else [0x052D])
    ++ (if (s.lockedSlots t c ws x.1 u.hi).any (fun l => overlap l.1 l.2 u.run.line u.run.count) then [0x053B] else [])

/-- A DMA_IN against its landing slot: the slot is free, and its bank in DMA from the issue to the end of the move (R25, R169). -/
def State.landCodes (s : State) (t : Nat) (c : Carry) (ws : List Nat) (z : Banks) (x : Placed) : List Nat :=
  let w := x.2.1
  if wOpcode w ≠ 0x40 then []
  else
    let l := s.landing t (bits w 90 79)
    let b := bankOfLine l.1
    (if (s.lockedSlots t c ws x.1 (wOffset w)).any (fun q => overlap q.1 q.2 l.1 l.2) then [0x053B] else [])
    ++ (if (segsIn (z.segs.getD b []) (wOffset w) (s.moveCycles - 1)).all (fun st => st == ownDMA) then [] else [0x052D])

/-- DMA operations of a move in order: the 17th open one fails (R302). -/
def openFails (before : Nat) (is : List Nat) : List (Nat × Nat) :=
  (List.range is.length).filterMap (fun j => if 16 ≤ before + j then some (is.getD j 0, 0x0109) else none)

/-- The banks of a tile through one move. -/
def State.moveBanks (s : State) (t plan : Nat) (c : Carry) : Banks :=
  let ws := s.body t plan
  let z0 : Banks := ⟨c.own.map (fun o => [(0, o)]),
    (List.range 4).filterMap (fun b => if c.wake.getD b 0 = 0 then none else some (b, 0, c.wake.getD b 0 - 1)), []⟩
  (List.range ws.length).foldl (fun (z : Banks) i =>
    if wOpcode (ws.getD i 0) = 0x48 then
      z.give i (ws.getD i 0) ((s.lockedSlots t c ws i (wOffset (ws.getD i 0))).map (fun l => bankOfLine l.1))
    else z) z0

/-- The bank holds one of the states throughout the move and does not wake. -/
def Banks.steady (z : Banks) (b k : Nat) (ok : Nat → Bool) : Bool :=
  (segsIn (z.segs.getD b []) 0 (k - 1)).all ok && z.wakes.all (fun q => q.1 != b)

/-- The regions of a tile's QUEUES records whose list's span meets the moves m to hi lie in banks that hold DMA (R364). -/
def State.queueFails (s : State) (t plan : Nat) (z : Banks) (m hi : Nat) : List Fail :=
  let bs := s.tileSection 0x43 0 t
  (List.range (leAt bs 0 2)).flatMap (fun i =>
    let r := (bs.drop (8 + 16 * i)).take 16
    match s.listDie t (leAt r 0 1) with
    | none => []
    | some d => match s.listRec d (leAt r 0 1) with
      | none => []
      | some l =>
        if decide (m ≤ l.closeMove + 1) && (decide (l.openMove ≤ hi)
            && (queueRegions r).any (fun q => q.2 != 0 && !z.steady (bankOfLine q.1) s.moveCycles (fun st => st == ownDMA))) then
          [⟨plan, t, 0, 0x0609⟩]
        else [])

/-- The declared TILE ranges of a tile in step-relative move 0: their banks allow the DMA, and nothing writes them (R451). -/
def State.secureFails (s : State) (t plan : Nat) (c : Carry) (z : Banks) : List Fail :=
  ((s.secRanges.filter (fun r => r.tile && r.t == t)).flatMap (fun r =>
    let run := byteRun r.addr r.bytes
    (if z.steady (bankOf r.addr) s.moveCycles (fun st => admitsRead st .dma false) then [] else [(0, 0x0907)])
    ++ (if (s.lockedSlots t c (s.body t plan) (s.body t plan).length s.moveCycles).any (fun l => overlap l.1 l.2 run.line run.count) then
        [(0, 0x0907)] else [])
    ++ (s.placed t plan).filterMap (fun x =>
        if x.2.2.uses.any (fun u => u.write && runsMeet u.run run) then some (x.1, 0x0907) else none))).map (fun q => ⟨plan, t, q.1, q.2⟩)

/-- One move of a plan on a tile from a carried state: the failures, and the carried states that can follow; each resolution of a
premove is one (R175). -/
def State.schedMove (s : State) (t plan : Nat) (c : Carry) : List (Nat × Nat) × List Carry :=
  let ws := s.body t plan
  let xs := s.placed t plan
  let k := s.moveCycles
  let z := s.moveBanks t plan c
  let acc := (Sets.start c.m0 c.m1).run xs
  let dmas := (xs.filter (fun x => x.2.2.unit == 4)).map (fun x => x.1)
  let fails := z.fails ++ acc.2 ++ openFails c.opens.length dmas
    ++ xs.flatMap (fun x => ((x.2.2.uses.flatMap (s.useCodes t c ws z x)) ++ s.landCodes t c ws z x).map (fun q => (x.1, q)))
  let own := z.segs.map (fun g => segAt g k)
  let wake := (List.range 4).map (fun b => ((z.wakes.filter (fun q => q.1 == b)).map (fun q => q.2.2 + 1 - k)).foldl max 0)
  let opens := (c.opens.filterMap (fun o => if o.1 ≤ 1 then none else some (o.1 - 1, o.2)))
    ++ (xs.filter (fun x => x.2.2.unit == 4)).map (fun x =>
        if wOpcode x.2.1 = 0x40 then (bits x.2.1 78 71, some (bits x.2.1 90 79)) else (1, none))
  let done := ws.filter (fun w => wOpcode w == 0x49 || wOpcode w == 0x4A)
  let next := fun own => (⟨own, wake, opens, acc.1.m0, acc.1.m1⟩ : Carry)
  (fails, if own.contains ownSPEC ∧ !done.isEmpty then
      (done.map (fun w => next ((List.range 4).map (fun b => if own.getD b 0 = ownSPEC then wTarget w b else own.getD b 0)))).eraseDups
    else [next own])

/-- A plan's move from each of a set of carried states; the move, and any that repeat it, are the step-relative moves m to hi. -/
def State.schedAll (s : State) (t plan m hi : Nat) (cs : List Carry) : List Fail × List Carry :=
  let rs := cs.map (s.schedMove t plan)
  (rs.flatMap (fun r => r.1.map (fun q => ⟨plan, t, q.1, q.2⟩)) ++ cs.flatMap (fun c => s.queueFails t plan (s.moveBanks t plan c) m hi),
    (rs.flatMap (fun r => r.2)).eraseDups)

/-- A plan repeated from move m; once the carried states no longer change, neither does what follows. -/
def State.schedRep (s : State) (t plan : Nat) : Nat → Nat → List Carry → List Fail × List Carry
  | 0, _, cs => ([], cs)
  | n + 1, m, cs =>
    let r := s.schedAll t plan m m cs
    if r.2 = cs then s.schedAll t plan m (m + n) cs
    else
      let q := State.schedRep s t plan n (m + 1) r.2
      (r.1 ++ q.1, q.2)

/-- One step: the entries of the sequence in order, from move m. -/
def State.schedStep (s : State) (t : Nat) : List (Nat × Nat) → Nat → List Carry → List Fail × List Carry
  | [], _, cs => ([], cs)
  | e :: es, m, cs =>
    let r := s.schedRep t e.1 e.2 m cs
    let q := State.schedStep s t es (m + e.2) r.2
    (r.1 ++ q.1, q.2)

/-- Steps in turn, until every carried state has been met; each step after the first begins behind a snapshot tick. -/
def State.schedJob (s : State) (t : Nat) (es : List (Nat × Nat)) : Nat → List Carry → List Carry → List Fail
  | 0, _, _ => []
  | n + 1, seen, cs =>
    let r := s.schedStep t es 0 cs
    let p := (es.map (fun e => e.1)).headD 0
    let snap := r.2.flatMap (fun c => s.secureFails t p c (s.moveBanks t p c))
    if r.2.all (fun c => seen.contains c) then r.1 ++ snap
    else r.1 ++ snap ++ State.schedJob s t es n (seen ++ r.2) r.2

/-- The carried state of a tile when the device enters LOADED (R88, R181). -/
def State.firstCarry (s : State) (t : Nat) : Carry :=
  let bs := s.tileSection secBANKS 0 t
  ⟨(List.range 4).map (fun b => if bs.isEmpty then ownRETAINED else leAt bs b 1), [0, 0, 0, 0], [], 0, 0⟩

/-- The plans of the sequence entries with their repeats (R218). -/
def State.sequence (s : State) : List (Nat × Nat) :=
  let bs := s.devSection secSEQUENCE
  (List.range (leAt bs 2 2)).map (fun e => (leAt bs (16 + 4 * e) 1, leAt bs (17 + 4 * e) 3))

/-- The failures of a tile's schedule over the job. -/
def State.tileFails (s : State) (t : Nat) : List Fail :=
  (List.range (leAt (s.devSection secSEQUENCE) 0 2)).flatMap (fun p => s.moveFails p t)
  ++ s.schedJob t s.sequence 4096 [s.firstCarry t] [s.firstCarry t]

end Sys2Proof.Machine
end

