-- ==== Sys2Proof/Machine/Routes.lean ====
section
/-! DEFINITION. Phase 4 of validation, second part: the slots of the network under each plan (R185, R190, R191, R197, R201, R238), work
lists (R202 to R204), decision domains (R357), what must not cross a step boundary (R451), and the phase as a whole (R240). -/

namespace Sys2Proof.Machine

/-! ### Slots that meet (R190, R191, R201) -/

/-- The format of the rows at input `port` of router t in a cycle: that of the SEND or ADD they start at; none where no rule names one. -/
def State.rowFmt (s : State) (plan : Nat) : Nat → Nat → Nat → Nat → Nat → Option Nat
  | 0, _, _, _, _ => none
  | fuel + 1, t, port, cyc, route =>
    if port = 0 then
      match (s.body t plan).find? (fun w => wOpcode w == 0x42 && bits w 63 48 == route) with
      | none => none
      | some w => some (bits w 94 91)
    else
      match s.feeder plan t port cyc with
      | none => none
      | some q => if q.x.kind = 1 then some q.x.fmt else if q.x.kind = 0 then State.rowFmt s plan fuel q.t q.x.inp q.cyc q.x.route else none

/-- A row stands at input `port` of router t in a cycle, in every slot: a SEND of the route at LOCAL, an edge port of HBM or of the I/O die, or a
slot of the router before it that an ADD or, by STATIC slots, such a source fills (R197). -/
def State.carries (s : State) (plan : Nat) : Nat → Nat → Nat → Nat → Nat → Bool
  | 0, _, _, _, _ => false
  | fuel + 1, t, port, cyc, route =>
    if port = 0 then (s.body t plan).any (fun w => wOpcode w == 0x42 && bits w 63 48 == route)
    else
      match s.feeder plan t port cyc with
      | none => openPort t port
      | some q => q.x.kind == 1 || (q.x.kind == 0 && State.carries s plan fuel q.t q.x.inp q.cyc q.x.route)

/-- Rows can enter a router at a port: at LOCAL, from the router or die before it, at an edge port; from a keeper port GRANT and DEAL rows alone. -/
def State.inputOk (s : State) (plan : Nat) (q : Slot) (port : Nat) : Bool :=
  port == 0 || ((s.feeder plan q.t port q.cyc).isSome || (openPort q.t port
    || ((keeperPort q.t port).isSome && (q.x.kind == 4 || q.x.kind == 6))))

/-- The row of a slot reaches its next router within the move, where a slot takes it, or leaves the mesh at a port that exists (R190, R191). -/
def State.outputOk (s : State) (plan : Nat) (q : Slot) : Bool :=
  match hop q.t q.x.out with
  | some h => decide (q.cyc + h.2.2 < s.moveCycles) && (s.taker plan q).isSome
  | none => decide (q.cyc + 2 < s.moveCycles) && (q.x.out == 0 || (openPort q.t q.x.out || (keeperPort q.t q.x.out).isSome))

/-- Where the way that starts at a slot must end: the rows of CLAIM and PUBLISH slots at a keeper, those of RETURN, GRANT and DEAL slots at a
tile; a CLAIM's GRANT slot, 4 cycles after its arrival, leads back to its tile (R189, R201). -/
def State.endOk (s : State) (plan : Nat) (q : Slot) : Bool :=
  let last := s.wayEnd plan 4096 q
  let first := (s.feeder plan q.t q.x.inp q.cyc).isNone
  let kept := (keeperPort last.t last.x.out).isSome
  if !first then true
  else if q.x.kind = 3 then
    kept && (s.slotsOf plan last.t).any (fun g => g.x.kind == 4 && (g.x.inp == last.x.out && (g.cyc == last.cyc + 2 + 4
      && (let e := s.wayEnd plan 4096 g
          e.t == q.t && e.x.out == 0))))
  else if q.x.kind = 5 then kept
  else if q.x.kind = 2 ∨ q.x.kind = 4 ∨ q.x.kind = 6 then last.x.out == 0
  else true

/-- The lists whose items a PUBLISH slot carries, where the tile at its input says so by SEGMENT words. -/
def State.segmentLists (s : State) (plan t : Nat) : List Nat :=
  ((s.body t plan).filter (fun w => wOpcode w == 0x12 && (knWord w (s.param t (bits w 78 71))).mode == 1)).map
    (fun w => (knWord w (s.param t (bits w 78 71))).list)

/-- Cycle c of step-relative move m lies no later than the close of a list. -/
def ListRec.openTill (l : ListRec) (m c : Nat) : Bool := decide (m < l.closeMove) || (m == l.closeMove && decide (c ≤ l.closeOff))

/-- A PUBLISH slot reaches its keeper by the close of the lists whose items it carries; where no SEGMENT says which these are, by the close of
some list of that keeper (R203; log entry 98). -/
def State.publishOk (s : State) (plan : Nat) (q : Slot) : Bool :=
  let last := s.wayEnd plan 4096 q
  let d := tDie last.t
  let named := if q.x.inp = 0 then s.segmentLists plan q.t else []
  let till := fun (l m : Nat) => match s.listRec d l with
    | none => false
    | some r => r.openTill m (last.cyc + 2)
  q.x.kind != 5 || ((s.feeder plan q.t q.x.inp q.cyc).isSome || (s.movesOf plan).all (fun m =>
    if named.isEmpty then (List.range 64).any (fun l => till l m) else named.all (fun l => till l m)))

/-- The codes that one slot of a plan meets; `earlier` are the router's slots of entries before its own. -/
def State.slotCodes (s : State) (plan : Nat) (earlier : List Slot) (q : Slot) : List Nat :=
  let code := fun (ok : Bool) (c : Nat) => if ok then [] else [c]
  let inputs := if q.x.kind = 1 then [q.x.inp, q.x.in2] else [q.x.inp]
  code (earlier.all (fun r => !(r.x.out == q.x.out && r.cyc == q.cyc))) 0x0535
  ++ code (s.outputOk plan q) 0x0536
  ++ (if q.x.kind = 1 then
      code (inputs.all (fun p => s.carries plan 4096 q.t p q.cyc q.x.route)) 0x0537
      ++ code (inputs.all (fun p => match s.rowFmt plan 4096 q.t p q.cyc q.x.route with
          | none => true
          | some f => f == q.x.fmt)) 0x0537
    else code (s.inputOk plan q q.x.inp) 0x0536)
  ++ (if q.x.kind = 0 ∧ q.x.inp = 0 then code (s.carries plan 1 q.t 0 q.cyc q.x.route) 0x0536 else [])
  ++ (if q.x.kind < 2 ∧ q.x.out = 0 then code ((s.body q.t plan).any (fun w => wOpcode w == 0x43 && bits w 63 48 == q.x.route)) 0x0536 else [])
  ++ code (s.endOk plan q) 0x0536
  ++ code (s.publishOk plan q) 0x0538

/-- A SEND or RECV against the slots of its route (R238). -/
def State.wireCodes (s : State) (plan t w : Nat) : List Nat :=
  let send := wOpcode w == 0x42
  let cs := s.localSlots plan t (bits w 63 48) send
  if cs.length = bits w 90 79 ∧ (!send || cs.all (fun c => decide (wOffset w + 2 ≤ c))) then [] else [0x0536]

/-! ### Work lists (R202 to R204, R238) -/

/-- A CLAIM against its list and its claim slots: the tile shares a declared list, the slots lie in windows, and those of this window lead to
the list's keeper. -/
def State.claimSlots (s : State) (plan t w : Nat) : List Nat :=
  let within := fun (v c : Nat) => decide (wOffset v ≤ c) && decide (c < wOffset v + bits v 77 54)
  match s.listDie t (bits w 53 48) with
  | none => [0x0538]
  | some d =>
    if ((s.slotsOf plan t).filter (fun q => q.x.kind == 3 && q.x.inp == 0)).all (fun q =>
        if within w q.cyc then tDie (s.wayEnd plan 4096 q).t == d
        else (s.body t plan).any (fun v => wOpcode v == 0x44 && within v q.cyc)) then []
    else [0x0538]

/-- A SEGMENT publishes to a list that its tile shares (R148). -/
def State.publishCodes (s : State) (t w : Nat) : List Nat :=
  let f := knWord w (s.param t (bits w 78 71))
  if wOpcode w ≠ 0x12 ∨ f.mode ≠ 1 ∨ (s.listDie t f.list).isSome then [] else [0x0538]

/-- The RETURN slots of a tile in step-relative move m; a move past the step's last is one of the next step. -/
def State.returnSlots (s : State) (t m : Nat) : Nat :=
  ((s.slotsOf (s.planOf (m % max 1 s.stepMoves)) t).filter (fun q => q.x.kind == 2 && q.x.inp == 0)).length

/-- The DEAL slots of a tile in step-relative move m that leave the keeper of die d in cycle `off` or later. -/
def State.dealSlots (s : State) (m t d off : Nat) : Nat :=
  let plan := s.planOf m
  ((s.slotsOf plan t).filter (fun q => q.x.kind == 6 && (q.x.out == 0
    && (let a := s.wayStart plan 4096 q
        (keeperPort a.t a.x.inp).isSome && (tDie a.t == d && decide (off ≤ a.cyc)))))).length

/-- A list of die d that tile t's group holds, with the rows that its deal and its return buffer need: ceil(ceil(C / n) / 7) rows to the tile
(R203); the rows of the buffer, or those that the items of its queue can fill (R204; log entry 123): 2 for a Knight item, 1 + 2 · 64 for the
widest result of the other engines. -/
structure ListNeed where
  d : Nat
  rec_ : ListRec
  deal : Nat
  ret : Nat
  deriving DecidableEq, Repr

/-- Some CLAIM of tile t names list l for an engine other than Knight. -/
def State.wideItems (s : State) (t l : Nat) : Bool :=
  (List.range (leAt (s.devSection secSEQUENCE) 0 2)).any (fun p => (s.body t p).any (fun w =>
    wOpcode w == 0x44 && (bits w 53 48 == l && bits w 87 86 != 0)))

/-- The work lists that the dies keep: die, number and record of each (R199). -/
def State.allLists (s : State) : List (Nat × Nat × ListRec) :=
  (List.range 4).flatMap (fun d => if leAt (s.dieSection secLISTS d) 0 2 = 0 then [] else
    (List.range 64).filterMap (fun l => (s.listRec d l).map (fun r => (d, l, r))))

/-- What tile t needs for the lists of its groups. -/
def State.listNeeds (s : State) (t : Nat) : List ListNeed :=
  s.allLists.filterMap (fun x =>
    let g := s.groupTiles x.2.2.group
    let share := (x.2.2.capacity + g.length - 1) / max g.length 1
    let ret := match s.queueFor t x.2.1 with
      | none => 0
      | some q => min (leAt q 10 2 / 2) (leAt q 6 2 * (if s.wideItems t x.2.1 then 129 else 2))
    if g.contains t then some ⟨x.1, x.2.2, (share + 6) / 7, ret⟩ else none)

def total (xs : List Nat) : Nat := xs.foldl (· + ·) 0

/-- What the image must reserve for a list on a tile of its group, no slot counted for two lists: DEAL slots from the close on, and RETURN
slots in the closing move and the move after it. -/
def State.listCodes (s : State) (t : Nat) (x : ListNeed) : List Nat :=
  let all := s.listNeeds t
  let m := x.rec_.closeMove
  let deals := all.filter (fun y => y.d == x.d && (y.rec_.closeMove == m && decide (x.rec_.closeOff ≤ y.rec_.closeOff)))
  let span := fun (k : Nat) => all.filter (fun y => decide (m ≤ y.rec_.closeMove) && decide (y.rec_.closeMove ≤ m + k))
  (if total (deals.map (fun y => y.deal)) ≤ s.dealSlots m t x.d x.rec_.closeOff then [] else [0x0538])
  ++ (if (List.range all.length).all (fun k => decide (total ((span k).map (fun y => y.ret))
        ≤ total ((List.range (k + 2)).map (fun j => s.returnSlots t (m + j))))) then [] else [0x0539])

/-- The failures of the work lists on the tiles of their groups. -/
def State.listFails (s : State) : List Fail :=
  (s.allLists.flatMap (fun x => s.groupTiles x.2.2.group)).eraseDups.flatMap (fun t => (s.listNeeds t).flatMap (fun x =>
    (s.listCodes t x).map (fun c => ⟨s.planOf x.rec_.closeMove, t, 0, c⟩)))

/-- The failures of the network under a plan at one router and in its tile's body. -/
def State.netFails (s : State) (plan t : Nat) : List Fail :=
  let qs := s.slotsOf plan t
  let ws := s.body t plan
  qs.flatMap (fun q => (s.slotCodes plan (qs.filter (fun r => decide (r.e < q.e))) q).map (fun c => ⟨plan, t, q.e, c⟩))
  ++ (List.range ws.length).flatMap (fun i =>
      let w := ws.getD i 0
      ((if wOpcode w = 0x42 ∨ wOpcode w = 0x43 then s.wireCodes plan t w else [])
        ++ ((if wOpcode w = 0x44 then s.claimSlots plan t w else []) ++ s.publishCodes t w)).map (fun c => ⟨plan, t, i, c⟩))

/-! ### Decision domains (R357) -/

/-- Step-relative move n + 1 holds a premove body on tile t: it lies in the group of exactly one domain formed in move n. -/
def State.premoveFails (s : State) (plan t : Nat) : List Fail :=
  let ws := s.body t plan
  let ds := s.devSection 0x42
  match ws.findIdx? wPre with
  | none => []
  | some i =>
    if (s.movesOf plan).all (fun m =>
        ((List.range (leAt ds 0 2)).filter (fun k =>
          let r := (ds.drop (8 + 16 * k)).take 16
          leAt r 4 4 + 1 == m && (s.groupTiles (leAt r 2 1)).contains t)).length == 1) then []
    else [⟨plan, t, i, 0x0608⟩]

/-- Every tile of a domain's group holds a premove body in move FORM_MOVE + 1. -/
def State.domainFails (s : State) : List Fail :=
  let ds := s.devSection 0x42
  (List.range (leAt ds 0 2)).flatMap (fun k =>
    let r := (ds.drop (8 + 16 * k)).take 16
    let p := s.planOf (leAt r 4 4 + 1)
    (s.groupTiles (leAt r 2 1)).filterMap (fun t => if (s.body t p).any wPre then none else some ⟨p, t, 0, 0x0608⟩))

/-! ### Across a step boundary (R451) -/

/-- With a SECURING section: no DMA_IN is due after the boundary that follows its issue, and no DMA_OUT of the last move or of move 0
writes a declared HBM range. -/
def State.boundaryFails (s : State) (im : Image) (plan t : Nat) : List Fail :=
  let ws := s.body t plan
  let ms := s.movesOf plan
  if s.secureSec.isEmpty then []
  else
    (List.range ws.length).filterMap (fun i =>
      let w := ws.getD i 0
      let late := wOpcode w == 0x40 && (bits w 70 63 != 0 && ms.any (fun m => decide (s.stepMoves < m + bits w 78 71)))
      let out := wOpcode w == 0x41 && (ms.any (fun m => m == 0 || m + 1 == s.stepMoves) && (im.descsOf t w).any (fun b =>
        let x := descOf b
        x.kind != 2 && (!x.void && (!allZero b && s.secRanges.any (fun r => !r.tile && overlap r.addr r.bytes x.dst x.dExt)))))
      if late || out then some ⟨plan, t, i, 0x0907⟩ else none)

/-! ### The phase (R240) -/

/-- `b` comes strictly before `a`: plans ascending, then die and tile number, then OP_INDEX. -/
def Fail.after (a b : Fail) : Bool :=
  decide (b.plan < a.plan) || (a.plan == b.plan && (decide (b.tile < a.tile) || (a.tile == b.tile && decide (b.pos < a.pos))))

def firstFail : List Fail → Option Fail
  | [] => none
  | f :: fs => match firstFail fs with
    | none => some f
    | some g => if f.after g then some g else some f

/-- Every failure of the schedule. -/
def State.scheduleFails (s : State) (im : Image) : List Fail :=
  (List.range 1024).flatMap s.tileFails
  ++ (List.range (leAt (s.devSection secSEQUENCE) 0 2)).flatMap (fun p => (List.range 1024).flatMap (fun t =>
      s.netFails p t ++ s.premoveFails p t ++ s.boundaryFails im p t))
  ++ s.listFails ++ s.domainFails

/-- Phase 4: the first failure of the schedule. -/
def State.phase4 (s : State) (im : Image) : Option Reject :=
  match firstFail ((s.probe im).scheduleFails im) with
  | none => none
  | some f => some ⟨f.code, 0xFFFF, 4, f.pos, f.plan, some f.tile⟩

end Sys2Proof.Machine
end

