-- ==== Sys2Proof/Machine/Loader.lean ====
section
/-! DEFINITION. Loading an image: the phases in order and the writes of phase 5 (R181, R206, R223 to R226, R240, R242, R274, R332, R400,
R414, R432). -/

namespace Sys2Proof.Machine

/-- Validates an image of which `given` bytes were handed over (R240): the first failure, if any. -/
def State.validate (s : State) (i : ImgSrc) (given : Nat) : Option Reject :=
  match s.phase1 i given with
  | some r => some r
  | none =>
    if i.le 24 4 = 0 then none
    else
      let im := s.imageOf i
      match s.phase2 im with
      | some r => some r
      | none => match s.phase3 im with
        | some r => some r
        | none => s.phase4 im

/-- Records the outcome of a load or check in NET_IMG_REJECT and NET_IMG_REJECT_WHERE (R247). -/
def State.noteReject (s : State) (r : Option Reject) : State :=
  match r with
  | none => (s.setReg Reg.netImgReject 0).setReg Reg.netImgRejectWhere 0
  | some r =>
    let wher := match r.tile with
      | none => 0
      | some t => tDie t * 2 ^ 16 + tY t * 2 ^ 12 + tX t * 2 ^ 8 + 1
    (s.setReg Reg.netImgReject (r.code * 2 ^ 48 + r.section_ % 2 ^ 16 * 2 ^ 32 + 2 ^ 31 + r.phase * 2 ^ 28 + r.position % 2 ^ 24)).setReg
      Reg.netImgRejectWhere (r.plan * 2 ^ 24 + wher)

/-- Writes one record of a BANKS section (R223). -/
def State.loadBankRecord (s : State) (p : Nat) (bs : List Byte) (i : Nat) : State :=
  let r := (bs.drop (16 + 16 * i)).take 16
  let a := leAt r 0 1 % 4 * 2 ^ 19 + leAt r 2 2 * 64
  let n := leAt r 4 2 * 64
  s.bankWrite p a (padTo n ((bs.drop (leAt r 8 8)).take n))

/-- Initial owner states and contents of a tile's banks: a tile without a BANKS section has RETAINED banks, lines that no record covers read as
zero, and every wake has ended before move 0 (R181, R216, R223). -/
def State.loadBanks (s : State) (t : Nat) : State :=
  let p := s.phys t
  let bs := s.tileSection secBANKS 0 t
  let s0 := (List.range 4).foldl (fun s b => s.bankClear p b) s
  let s1 := (List.range (leAt bs 4 4)).foldl (fun s i => s.loadBankRecord p bs i) s0
  (List.range 4).foldl (fun s b => (s.setFld (Reg.tlBankOwn p b) 2 0 (if bs.isEmpty then ownRETAINED else leAt bs b 1 % 8)).setFld
    (Reg.tlBankOwn p b) 8 8 0) s1

/-- Initial values of a tile's quantisation registers (R226); those of a tile without a QUANT section are the reset values (R128, R216). -/
def State.loadQuant (s : State) (t : Nat) : State :=
  let p := s.phys t
  let bs := s.tileSection secQUANT 0 t
  let s0 := (s.resetRegs (fun k => decide (tileKey p 0x600 ≤ k) && decide (k < tileKey p 0x1000))).modTile p (fun ts => { ts with amax := [] })
  if bs.isEmpty then s0
  else
    let s1 := (List.range 16).foldl (fun s i => s.setReg (Reg.tlQntSlotCtl p i) (leAt bs (4 * i) 4)) s0
    let s2 := s1.setFld (Reg.tlQntChanCtl p) 0 0 (leAt bs 640 1)
    (List.range 64).foldl (fun s n =>
      (((s.setReg (Reg.tlQntChScale p n) (leAt bs (64 + 4 * n) 4)).setReg (Reg.tlQntChBias p n) (leAt bs (320 + 4 * n) 4)).setReg
        (Reg.tlQntChZero p n) (leAt bs (576 + n) 1)).chanDerive p n) s2

/-- Writes the OWNERS section into every copy (R274). -/
def State.loadOwners (s : State) : State :=
  let bs := s.devSection 0x11
  (List.range (leAt bs 4 4)).foldl (fun s i => s.ownerWrite (leAt bs 0 4 + i) (leAt bs (16 + 8 * i) 8)) s

/-- INIT_EXP into line 1 of every gather block (R414); the layout epoch (R432). -/
def State.loadCollectives (s : State) : State :=
  let s1 := (s.collRecs.filter (fun r => r.kind == 1)).foldl (fun s r =>
    (List.range (r.blocks * s.axisLen r.axis)).foldl (fun (s : State) b =>
      { s with hbm := Mem.write s.hbm (r.recv + 2176 * b + 64) (List.replicate 32 (Byte.of r.initExp)) }) s) s
  s1.setFld Reg.netLayout 7 0 (leAt s.collSec 4 1)

/-- NET_LOSS_CTL from the TRAINING section (R332). -/
def State.loadTraining (s : State) : State :=
  let bs := s.devSection 0x32
  if bs.isEmpty then s else (s.setFld Reg.netLossCtl 31 16 (leAt bs 2 2)).setFld Reg.netLossCtl 7 0 (leAt bs 0 1)

/-- The mode of a unit (R224): ON unless the governing MODES section turns it OFF; the last record of a unit stands. -/
def State.unitOn (s : State) (kind d index : Nat) : Bool :=
  let bs := s.dieSection secMODES d
  match ((List.range (leAt bs 0 4)).map (fun i => (bs.drop (8 + 8 * i)).take 8)).filter (fun r => leAt r 0 1 == kind && leAt r 2 2 == index) |>.getLast? with
  | none => true
  | some r => leAt r 1 1 == 1

/-- Phase 5 (R242): the registers and stores that the held image gives. -/
def State.writeImage (s : State) (im : Image) : State :=
  let s0 := { s with job := { JobState.reset with image := some im, tests := s.job.tests } }
  let seq := im.dev 2
  let s1 := ((((s0.setReg Reg.netImgId im.jobId).setReg Reg.netImgSize im.size).setReg Reg.netStepMoves (leAt seq 4 4)).setReg
    Reg.netScaleTick (leAt seq 8 4)).setReg Reg.netMoveCtl im.moveExp
  let s2 := (((s1.setReg Reg.netMoveNumber 0).setReg Reg.netMoveOffset 0).setReg Reg.netStepLimit 0).setFld Reg.netSnapStatus 63 32 0
  let s3 := s2.resetRegs (fun k => decide (Reg.netHoldTotal ≤ k) && decide (k < Reg.netHoldLimit))
  let s4 := (List.range 1024).foldl (fun s t => (s.loadBanks t).loadQuant t) s3
  let s5 := ((s4.loadOwners).loadCollectives).loadTraining
  (List.range 16).foldl (fun s k => s.setFld (Reg.petStatus k) 1 1 (b2n (s.unitOn 4 (k / 4) (k % 4)))) s5

/-- The image region's first byte (R254). -/
def State.imageBase (s : State) : Nat := dieBase 0 + s.imageOff

/-- Copies an image into the image region and enters LOADING (R242). -/
def State.receiveImage (s : State) (i : ImgSrc) (given : Nat) : State :=
  let n := min given (i.le 16 8)
  ({ s with hbm := Mem.copyTo i.m i.a (min n (2 ^ 31)) s.hbm s.imageBase }.hbmWake.setJobState jobLOADING).setFld Reg.netJobState 19 16 1

/-- Runs a load whose image lies in a memory: the end state and whether it failed (R213, R240, R242). -/
def State.loadFrom (s : State) (i : ImgSrc) (given : Nat) : State × Bool :=
  let v := s.validate i given
  let s1 := s.noteReject v
  match v with
  | some _ => (s1.enterEmpty, true)
  | none =>
    if i.le 24 4 = 0 then (s1.enterEmpty, false)
    else
      let s2 := s1.writeImage (s1.imageOf i)
      ((s2.setFld Reg.netJobState 19 16 0).setJobState jobLOADED, false)

end Sys2Proof.Machine
end

