-- ==== Sys2Proof/Machine/HostCmd.lean ====
section
/-! DEFINITION. Rings, commands and completions of the host interface (R472 to R481), and the commands of R479. -/

namespace Sys2Proof.Machine

/-! ### Rings (R474, R475) -/

def State.sqEnabled (s : State) (r : Nat) : Bool := isBit (s.reg (Reg.hqSqCtl r)) 0
def State.cqEnabled (s : State) (c : Nat) : Bool := isBit (s.reg (Reg.hqCqCtl c)) 0
def State.sqSize (s : State) (r : Nat) : Nat := 2 ^ (s.fld (Reg.hqSqCtl r) 12 8)
def State.cqSize (s : State) (c : Nat) : Nat := 2 ^ (s.fld (Reg.hqCqCtl c) 12 8)
def State.sqHead (s : State) (r : Nat) : Nat := s.fld (Reg.hqSqStatus r) 31 16
def State.cqTail (s : State) (c : Nat) : Nat := s.fld (Reg.hqCqStatus c) 31 16
def State.boundCq (s : State) (r : Nat) : Nat := s.fld (Reg.hqSqCtl r) 21 16

/-- Completions written and not yet acknowledged. -/
def State.unconsumed (s : State) (c : Nat) : Nat := (s.cqTail c + s.cqSize c - s.fld (Reg.hqCqHead c) 15 0) % s.cqSize c

/-- The CQ has no space: 2^SIZE_EXP − 1 entries are unconsumed, or it is not enabled (log entry 24). -/
def State.cqFull (s : State) (c : Nat) : Bool := !s.cqEnabled c || decide (s.cqSize c ≤ s.unconsumed c + 1)

/-- The 64-byte entry that the device takes next from ring r, if it takes one: none in D3hot (log entry 24). -/
def State.sqEntry (s : State) (r : Nat) : Option (List Byte) :=
  if s.d3 || (!s.sqEnabled r || (s.sqHead r == s.fld (Reg.hqSqTail r) 15 0 || s.cqFull (s.boundCq r))) then none
  else some (Mem.read s.hostMem (bits (s.reg (Reg.hqSqBase r)) 63 6 * 64 + 64 * s.sqHead r) 64)

/-- The ring with its head past the entry taken. -/
def State.sqTake (s : State) (r : Nat) : State := s.setFld (Reg.hqSqStatus r) 31 16 ((s.sqHead r + 1) % s.sqSize r)

def cmdOp (b : List Byte) : Nat := leAt b 0 1
def cmdSeq (b : List Byte) : Nat := leAt b 4 4

/-- A repeat: completed with the result of the original, at once or after it has ended; of an original that is not known, with free
values (R478, log entry 25). -/
def State.repeatCmd (s : State) (r seq : Nat) : State :=
  match (s.takenOf r).find? (fun t => t.seq == seq) with
  | none =>
    { s with freeCtr := s.freeCtr + 3 }.complete ⟨r, seq, s.freeValue % 65536, true, s.sqHead r, s.useFree.freeValue, s.useFree.useFree.freeValue⟩
  | some t =>
    match t.result with
    | some (st, r0, r1) => s.complete ⟨r, seq, st, true, s.sqHead r, r0, r1⟩
    | none => s.setTaken r ((s.takenOf r).map (fun u => if u.seq = seq then { u with repeats := u.repeats ++ [s.sqHead r] } else u))

/-- Notes an executed command: NEXT advances, and the last 256 of the ring are kept (R478). -/
def State.noteTaken (s : State) (r seq : Nat) : State :=
  (s.setReg (Reg.hqSqSeq r) ((seq + 1) % 2 ^ 32)).setTaken r ((⟨seq, s.sqHead r, none, []⟩ :: s.takenOf r).take 256)

/-- Takes the entry of ring r when it is a command that `is` admits, or one with a reserved opcode, and carries out R478 on it; `act`
executes it once NEXT has advanced. -/
def State.takeCmd (s : State) (r : Nat) (is : List Byte → Bool) (act : State → List Byte → State) : State :=
  match s.sqEntry r with
  | none => s
  | some b =>
    let reserved := decide (0x0C < cmdOp b)
    if !(is b || reserved) then s
    else
      let seq := cmdSeq b
      let next := s.fld (Reg.hqSqSeq r) 31 0
      let delta := (seq + 2 ^ 32 - next) % 2 ^ 32
      let s1 := s.sqTake r
      if delta = 0 then
        let s2 := s1.noteTaken r seq
        if reserved then s2.finish r seq 0x0A01 0 0 else act s2 b
      else if 2 ^ 32 - 256 ≤ delta then s1.repeatCmd r seq
      else s1.complete ⟨r, seq, if delta < 2 ^ 31 then 0x0A06 else 0x0A05, false, s1.sqHead r, 0, 0⟩

/-- Every byte of a command outside the named ranges is 0, and FLAGS within `flags` (R13, R476, R480). -/
def cmdClean (b : List Byte) (flags : Nat) (named : List (Nat × Nat)) : Bool :=
  decide (leAt b 1 1 ≤ flags) && (zeroAt b 2 2 && (List.range 56).all (fun i =>
    leAt b (8 + i) 1 == 0 || named.any (fun r => decide (r.1 ≤ 8 + i) && decide (8 + i < r.1 + r.2))))

/-- A length field holds all ones (R16). -/
def allOnes (b : List Byte) (i n : Nat) : Bool := leAt b i n == 256 ^ n - 1

/-- The code of a source range in a host region: unregistered 0x0A04, too long for what remains of it 0x0102 (R16, R473). -/
def State.regionCode (s : State) (i off n : Nat) : Nat :=
  if (s.region i).bytes = 0 then 0x0A04 else if (s.region i).bytes < off + n then 0x0102 else 0

/-- The memory image of a registered region from an offset on. -/
def State.regionSrc (s : State) (i off : Nat) : ImgSrc := ⟨s.hostMem, (s.region i).base + off⟩

/-! ### Commands that end at once, and transfers -/

/-- NOP (R479). -/
def execNop (r : Ring) (s : State) : Host.Outcome State Fault Refusal :=
  .next (s.takeCmd r.val (fun b => cmdOp b == 0) (fun s b =>
    s.finish r.val (cmdSeq b) (if cmdClean b 0 [] then 0 else 0x0A02) 0 0))

/-- REGISTER (R472, R480). -/
def execRegister (r : Ring) (s : State) : Host.Outcome State Fault Refusal :=
  .next (s.takeCmd r.val (fun b => cmdOp b == 5) (fun s b =>
    let n := leAt b 24 8
    let ok := cmdClean b 0 [(8, 1), (16, 8), (24, 8)] && (decide (leAt b 8 1 < 128) && (leAt b 16 8 % 4096 == 0
      && (!allOnes b 24 8 && (n % 4096 == 0 && decide (n ≤ 2 ^ 40)))))
    let f := fun (s : State) st => s.finish r.val (cmdSeq b) st 0 0
    if !s.idleJob then f s 0x0A07
    else if !ok then f s 0x0A02
    else if n = 0 then f s 0
    else f { s with regions := Sparse.set (fun _ => HostRegion.none) s.regions (leAt b 8 1) ⟨leAt b 16 8, n⟩ } 0))

/-- UNREGISTER (R472, R480). -/
def execUnregister (r : Ring) (s : State) : Host.Outcome State Fault Refusal :=
  .next (s.takeCmd r.val (fun b => cmdOp b == 6) (fun s b =>
    let f := fun (s : State) st => s.finish r.val (cmdSeq b) st 0 0
    if !s.idleJob then f s 0x0A07
    else if !cmdClean b 0 [(8, 1)] || decide (128 ≤ leAt b 8 1) then f s 0x0A02
    else f { s with regions := Sparse.set (fun _ => HostRegion.none) s.regions (leAt b 8 1) HostRegion.none } 0))

/-- LOADED, RUNNING or STOPPED. -/
def State.holdsJob (s : State) : Bool := s.jobState == jobLOADED || (s.jobState == jobRUNNING || s.jobState == jobSTOPPED)

/-- Units that a command needs are up: READY is 1, and no fill runs (R279, R483). -/
def State.memoryUp (s : State) : Bool := s.ready && !isBit (s.reg Reg.hbmScrubStatus) 1

/-- A command that needs the dies or HBM: it is taken, and waits for them (R483 step 4). The first one of this kind that waits goes on;
otherwise the entry of ring r is taken. -/
def State.dieCommand (s : State) (r op : Nat) (act : State → Nat → List Byte → State) : State :=
  match if s.memoryUp then s.heldCmds.findIdx? (fun c => cmdOp c.bytes == op) else none with
  | some k => match s.heldCmds[k]? with
    | some c => act { s with heldCmds := s.heldCmds.eraseIdx k } c.ring c.bytes
    | none => s
  | none => s.takeCmd r (fun b => cmdOp b == op) (fun s b =>
    if s.memoryUp then act s r b else { s with heldCmds := s.heldCmds ++ [⟨r, cmdSeq b, b, false⟩] })

/-- PETAL (R480): the command goes to the dispatcher. -/
def execPetal (r : Ring) (s : State) : Host.Outcome State Fault Refusal :=
  .next (s.dieCommand r.val 7 (fun s r b =>
    let i := leAt b 8 1
    let off := leAt b 16 8
    let cmd := Mem.read s.hostMem ((s.region i).base + off) 64
    let f := fun (s : State) st => s.finish r (cmdSeq b) st 0 0
    if !s.holdsJob then f s 0x0A07
    else if !cmdClean b 0 [(8, 1), (16, 8), (24, 8)] || decide (128 ≤ i) then f s 0x0A02
    else if !s.inRegion i off 64 then f s 0x0A04
    else if leAt cmd 0 1 != 1 && leAt b 24 8 != 0 then f s 0x0A02
    else { s with petals := s.petals ++ [⟨cmd, true, 0, 0, s.move, 0, true, 0, r, cmdSeq b, leAt b 24 8, 0, [], [], 0⟩] }))

/-- MEMCOPY (R480). -/
def execMemcopy (r : Ring) (s : State) : Host.Outcome State Fault Refusal :=
  .next (s.dieCommand r.val 8 (fun s r b =>
    let n := leAt b 32 8
    let code := s.regionCode (leAt b 8 1) (leAt b 16 8) n
    let f := fun (s : State) st => s.finish r (cmdSeq b) st 0 0
    if !s.holdsJob then f s 0x0A07
    else if !cmdClean b 0 [(8, 1), (9, 1), (16, 8), (24, 8), (32, 8)] || (decide (128 ≤ leAt b 8 1) || (decide (1 < leAt b 9 1) || allOnes b 32 8)) then
      f s 0x0A02
    else if n = 0 then f s 0
    else if code ≠ 0 then f s code
    else if !s.inJob (leAt b 24 8) n then f s 0x0403
    else { s with copies := s.copies ++ [⟨false, r, cmdSeq b, b⟩] }))

/-- FLASH_READ (R480): a slot that layer 2 is writing is busy. -/
def execFlashRead (r : Ring) (s : State) : Host.Outcome State Fault Refusal :=
  .next (s.takeCmd r.val (fun b => cmdOp b == 0x0A) (fun s b =>
    let slot := leAt b 8 1
    let n := leAt b 32 8
    let code := s.regionCode (leAt b 9 1) (leAt b 16 8) n
    let f := fun (s : State) st => s.finish r.val (cmdSeq b) st 0 0
    if !cmdClean b 0 [(8, 1), (9, 1), (16, 8), (24, 8), (32, 8)] || (decide (1 < slot) || (decide (128 ≤ leAt b 9 1) || allOnes b 32 8)) then f s 0x0A02
    else if n = 0 then f s 0
    else if 1900000000000 < leAt b 24 8 + n then f s 0x0102
    else if code ≠ 0 then f s code
    else if isBit (s.reg Reg.netSnapStatus) 2 && s.fld Reg.netSnapStatus 63 32 % 2 == slot then f s 0x0A0C
    else { s with copies := s.copies ++ [⟨true, r.val, cmdSeq b, b⟩] }))

/-- MEMCOPY_COMPLETE (R479): copy `k` of those under way, a MEMCOPY, has written its last byte. -/
def execMemcopyComplete (k : Nat) (mem : MemEnv) (s : State) : Host.Outcome State Fault Refusal :=
  match s.copies[k]? with
  | none => .next s
  | some c =>
    if c.flash then .next s
    else
      let h := (s.region (leAt c.bytes 8 1)).base + leAt c.bytes 16 8
      let d := leAt c.bytes 24 8
      let n := leAt c.bytes 32 8
      let s1 := { s with copies := s.copies.eraseIdx k }
      let parts := partialAtoms d n
      let s2 := if leAt c.bytes 9 1 = 0 then
          let s3 := (s1.hbmAccess mem (parts.map (fun a => ⟨a, 64⟩)) [⟨d, n⟩]).mergeAtoms mem parts
          { s3 with hbm := Mem.copyTo s3.hostMem h n s3.hbm d }.spoilAtoms mem [⟨d, n⟩]
        else
          let s3 := s1.hbmAccess mem [⟨d, n⟩]
          { s3 with hostMem := Mem.copyTo (s3.delivered mem).hbm d n s3.hostMem h }
      .next (s2.finish c.ring c.seq 0 0 0)

/-- FLASH_READ_COMPLETE (R479): copy `k` of those under way, a FLASH_READ, has written its last byte. -/
def execFlashReadComplete (k : Nat) (s : State) : Host.Outcome State Fault Refusal :=
  match s.copies[k]? with
  | none => .next s
  | some c =>
    if !c.flash then .next s
    else
      let h := (s.region (leAt c.bytes 9 1)).base + leAt c.bytes 16 8
      let s1 := { s with
        copies := s.copies.eraseIdx k
        hostMem := Mem.copyTo s.flash (leAt c.bytes 8 1 * 2 ^ 41 + leAt c.bytes 24 8) (leAt c.bytes 32 8) s.hostMem h }
      .next (s1.finish c.ring c.seq 0 0 0)

/-! ### Job-control commands (R479) -/

/-- The job-control command of opcode `op` at the head of the waiting ones. -/
def State.headJob (s : State) (op : Nat) : Option JobCmd :=
  match s.jobCmds with
  | [] => none
  | c :: _ => if cmdOp c.bytes = op then some c else none

/-- Marks the command at the head as begun. -/
def State.beginJob (s : State) : State :=
  match s.jobCmds with
  | [] => s
  | c :: rest => { s with jobCmds := { c with begun := true } :: rest }

/-- A job-control command: where one of this kind stands at the head of those that wait and can go on, it does; otherwise the entry of
ring r is taken, and goes on at once when none waits before it (R479). `act` carries out the command at the head, or answers none while
it waits. -/
def State.jobCommand (s : State) (r : Nat) (is : List Byte → Bool) (act : State → JobCmd → Option State) : State :=
  let run := fun (s : State) => match s.jobCmds with
    | [] => none
    | c :: _ => if is c.bytes && s.ready then act s c else none
  match run s with
  | some t => t
  | none => s.takeCmd r is (fun s b =>
    let s1 := { s with jobCmds := s.jobCmds ++ [⟨r, cmdSeq b, b, false⟩] }
    (run s1).getD s1)

/-- The checks of a LOAD before it begins; 0 when it may (R16, R242, R278, R448, R480). -/
def State.loadCode (s : State) (b : List Byte) : Nat :=
  if !s.repairable then 0x053E
  else if !cmdClean b 1 [(8, 1), (16, 8), (24, 8)] || (decide (128 ≤ leAt b 8 1) || allOnes b 24 8) then 0x0A02
  else if isBit (s.reg Reg.hqDevStatus) 1 then 0x040D
  else if isBit (s.reg Reg.hqDevStatus) 2 then 0x090A
  else if leAt b 24 8 = 0 then 0
  else s.regionCode (leAt b 8 1) (leAt b 16 8) (leAt b 24 8)

/-- Runs a LOAD to its end, from the image it names, and completes it (R242, R480). -/
def State.loadNow (s : State) (b : List Byte) : State :=
  let s1 := s.receiveImage (s.regionSrc (leAt b 8 1) (leAt b 16 8)) (leAt b 24 8)
  let i : ImgSrc := ⟨s1.hbm, s1.imageBase⟩
  let x := s1.loadFrom i (leAt b 24 8)
  if x.2 then x.1.endJob (x.1.fld Reg.netImgReject 63 48) (x.1.reg Reg.netImgReject) 0 else x.1.endJob 0 (i.le 40 8) 0

/-- LOAD (R242, R479, R480): it waits for the fill of R279 and for running self-tests (R442); from STOPPED it first enters EMPTY. -/
def execLoad (r : Ring) (s : State) : Host.Outcome State Fault Refusal :=
  .next (s.jobCommand r.val (fun b => cmdOp b == 1 && leAt b 1 1 % 2 == 0) (fun s c =>
    if c.begun then (if s.filling then none else some (s.loadNow c.bytes))
    else if s.filling || decide (0 < s.testing) then none
    else
      let code := s.loadCode c.bytes
      if code ≠ 0 then some (s.endJob code (s.reg Reg.netImgReject) 0)
      else if leAt c.bytes 24 8 = 0 then some (s.endJob 0 (s.reg Reg.netImgId) 0)
      else if s.jobState = jobSTOPPED then some s.beginJob.enterEmpty
      else some (s.beginJob.loadNow c.bytes)))

/-- LOAD_CHECK_ONLY (R243): phases 1 to 4 on the image in the command's source. -/
def execLoadCheckOnly (r : Ring) (s : State) : Host.Outcome State Fault Refusal :=
  .next (s.jobCommand r.val (fun b => cmdOp b == 1 && leAt b 1 1 % 2 == 1) (fun s c =>
    if s.filling || decide (0 < s.testing) then none
    else
      let b := c.bytes
      let code := s.loadCode b
      if code ≠ 0 then some (s.endJob code (s.reg Reg.netImgReject) 0)
      else if leAt b 24 8 = 0 then some (s.endJob 0 (s.reg Reg.netImgId) 0)
      else
        let i := s.regionSrc (leAt b 8 1) (leAt b 16 8)
        let v := s.validate i (leAt b 24 8)
        let s1 := s.noteReject v
        match v with
        | some x => some (s1.endJob x.code (s1.reg Reg.netImgReject) 0)
        | none => some (s1.endJob 0 (i.le 40 8) 0)))

/-- UNLOAD (R244): in EMPTY it changes nothing; from LOADED and STOPPED it enters EMPTY, and completes when the fill ends. -/
def execUnload (r : Ring) (s : State) : Host.Outcome State Fault Refusal :=
  .next (s.jobCommand r.val (fun b => cmdOp b == 2) (fun s c =>
    if c.begun || s.filling then none
    else if !s.idleJob then some (s.endJob 0x053E 0 0)
    else if !cmdClean c.bytes 0 [] then some (s.endJob 0x0A02 0 0)
    else if s.jobState = jobEMPTY then some (s.endJob 0 0 0)
    else some s.beginJob.enterEmpty))

/-- Some STACK section with an OFFLOAD frame names a region that is not registered, or a host range outside it (R320). -/
def State.stackHostBad (s : State) : Bool :=
  (List.range 4).any (fun d =>
    let reg := leAt (s.stackSec d) 32 1
    (List.range (s.frameCount d)).any (fun f =>
      let x := s.frameRec d f
      x.policy == 1 && !s.inRegion reg x.hostOff x.bytes))

/-- START (R36, R40, R246, R320, R442, R479, R528). -/
def execStart (r : Ring) (s : State) : Host.Outcome State Fault Refusal :=
  .next (s.jobCommand r.val (fun b => cmdOp b == 3) (fun s c => some (
    if !(s.jobState == jobLOADED || s.jobState == jobSTOPPED) || s.filling then s.endJob 0x0A07 0 0
    else if !cmdClean c.bytes 0 [] then s.endJob 0x0A02 0 0
    else if s.job.mustRestore || decide (0 < s.testing) then s.endJob 0x0908 0 0
    else if s.power.stops ≠ 0 then (s.setFld Reg.mgtPwrStatus 7 7 1).endJob 0x0D0B 0 0
    else if s.stackHostBad then s.endJob 0x08E1 0 0
    else if s.reg Reg.netStepLimit ≤ s.stepNumber then s.endJob 0 0 0
    else
      let s1 := (s.dropRises.setFld Reg.netJobState 10 8 0).setJobState jobRUNNING
      { s1 with job := { s1.job with stopDriver := false, stopPower := false, stopD3 := false } }.endJob 0 0 0)))

/-- STOP (R36, R479): it completes when the job has stopped. -/
def execStop (r : Ring) (s : State) : Host.Outcome State Fault Refusal :=
  .next (s.jobCommand r.val (fun b => cmdOp b == 4) (fun s c =>
    if c.begun then none
    else if s.jobState ≠ jobRUNNING ∧ s.jobState ≠ jobSTOPPED then some (s.endJob 0x0A07 0 0)
    else if !cmdClean c.bytes 0 [] then some (s.endJob 0x0A02 0 0)
    else if s.jobState = jobSTOPPED then some (s.endJob 0 0 0)
    else some { s.beginJob with job := { s.job with stopDriver := true } }))

/-! ### RESHARD (R429, R430) -/

/-- The plan's entries: tensor, index, new entry. -/
def State.planEntries (s : State) : List (Nat × Nat × Nat) :=
  let a := s.planArea
  (List.range (Mem.le s.hbm (a + 8) 4)).map (fun i =>
    (Mem.le s.hbm (a + 64 + 16 * i) 4, Mem.le s.hbm (a + 68 + 16 * i) 4, Mem.le s.hbm (a + 72 + 16 * i) 8))

/-- One entry's fields are valid (reason 4). -/
def State.planEntryOk (s : State) (e : Nat × Nat × Nat) : Bool :=
  match s.tensorRec e.1, s.dtensor e.1 with
  | some _, some (first, n, block) =>
    let v := e.2.2
    decide (first ≤ e.2.1) && (decide (e.2.1 < first + n) && (isBit v 63 && (bits v 54 51 == block && (bits v 30 24 == 0
      && (List.range 4).all (fun i => decide (coord (bits v 50 31) i < s.axisLen i))))))
  | _, _ => false

/-- The entries of a tensor once the plan has taken effect. -/
def State.planned (s : State) (es : List (Nat × Nat × Nat)) (first n : Nat) : List Nat :=
  (List.range n).map (fun j => match es.find? (fun e => e.2.1 == first + j) with
    | some e => e.2.2
    | none => s.ownerEntry 0 (first + j))

/-- Owners of a tensor's entries after the plan stay on the ring, hold equal numbers of units and share no position (reason 5). -/
def State.planBalanced (s : State) (es : List (Nat × Nat × Nat)) (r : CollRec) : Bool :=
  match s.dtensor r.tensor with
  | none => true
  | some (first, n, _) =>
    let vs := (s.planned es first n).filter (fun v => isBit v 63)
    let ring := s.ownAddr :: s.ringPeers r.axis
    vs.all (fun v => ring.contains (entOwner v))
      && (ring.all (fun o => (vs.filter (fun v => entOwner v == o)).length == (vs.filter (fun v => entOwner v == s.ownAddr)).length)
      && ring.all (fun o => !hasDup ((vs.filter (fun v => entOwner v == o)).map (fun v => entBase v))))

/-- A NEW.BASE for this device names a unit position of the tensor (reason 7). -/
def State.planBaseOk (s : State) (e : Nat × Nat × Nat) : Bool :=
  match s.tensorRec e.1, s.dtensor e.1 with
  | some r, some (_, _, block) =>
    let a := entBase e.2.2 * 65536
    entOwner e.2.2 != s.ownAddr || (decide (r.owned ≤ a) && (r.ownedBytes != 0 && ((a - r.owned) % r.ownedBytes == 0
      && decide (((a - r.owned) / r.ownedBytes + 1) * 2 ^ (3 + block) ≤ r.blocks))))
  | _, _ => false

/-- The re-shard that the plan area describes. -/
def State.planOf' (s : State) (target : Nat) : Reshard :=
  ⟨target, Mem.le s.hbm s.planArea 1, Mem.le s.hbm (s.planArea + 4) 4, s.planEntries, 1, 0, false, []⟩

/-- The reason to refuse a re-shard, 0 for none (R430). -/
def State.reshardReason (s : State) (target : Nat) : Nat :=
  let a := s.planArea
  let count := Mem.le s.hbm (a + 8) 4
  if s.jobState ≠ jobRUNNING then 1
  else if target < s.stepNumber then 2
  else if Mem.le s.hbm a 1 = s.layoutEpoch ∨ s.reshard.isSome = true then 3
  else if s.collSec = [] ∨ 4096 < count ∨ allZero (Mem.read s.hbm (a + 1) 3 ++ Mem.read s.hbm (a + 12) 52) = false then 4
  else
    let es := s.planEntries
    let x := s.planOf' target
    if es.any (fun e => !s.planEntryOk e) || hasDup (es.map (fun e => e.2.1)) then 4
    else if (s.collRecs.filter (fun r => r.kind == 0)).any (fun r => !s.planBalanced es r) then 5
    else if 4096 < (s.installUnits x).stagedNew.length - s.stagedNew.length
        ∨ (s.unitsIn x).any (fun u => decide (s.stageBytes < (u.2 + 1) * u.1.ownedBytes)) = true then 6
    else if es.any (fun e => !s.planBaseOk e) then 7
    else 0

/-- RESHARD (R429 to R431): it completes when phase 6 ends; a plan of no entries at once, with nothing done (R16). -/
def execReshard (r : Ring) (s : State) : Host.Outcome State Fault Refusal :=
  .next (s.jobCommand r.val (fun b => cmdOp b == 9) (fun s c =>
    if c.begun then none
    else
      let target := leAt c.bytes 8 8
      if !cmdClean c.bytes 0 [(8, 8)] then some (s.endJob 0x0A02 0 0)
      else
        let why := s.reshardReason target
        if why ≠ 0 then some ((s.setReg Reg.netReshardStatus (0x0809 * 2 ^ 48 + why * 2 ^ 40 + target % 2 ^ 32)).endJob 0x0809 0 0)
        else if (s.planOf' target).entries.isEmpty then some (s.endJob 0 0 0)
        else
          let x := s.planOf' target
          let s1 := { (s.setReg Reg.netReshardStatus (target % 2 ^ 32)).beginJob with reshard := some { x with phase := 0 } }
          some (s1.setFld Reg.netLayout 16 8 (256 + x.epoch))))

/-! ### RETURN and RESTORE (R460) -/

/-- RETURN: the valid IN slot of the number goes back to KEPT's OUT slot; it completes when every message is acknowledged. -/
def execReturn (r : Ring) (s : State) : Host.Outcome State Fault Refusal :=
  .next (s.jobCommand r.val (fun b => cmdOp b == 0x0B) (fun s c =>
    let n := leAt c.bytes 8 4
    let k := Reg.netSnapSlot (1 + n % 2)
    match s.secureConn 10 with
    | none => some (s.endJob 0x0908 0 0)
    | some q =>
      if c.begun then (if s.snapUnacked q.conn then none else some (s.endJob 0 0 0))
      else if s.jobState ≠ jobLOADED ∧ s.jobState ≠ jobSTOPPED then some (s.endJob 0x0908 0 0)
      else if !cmdClean c.bytes 0 [(8, 4)] then some (s.endJob 0x0A02 0 0)
      else if !isBit (s.reg k) 0 || s.fld k 63 32 != n then some (s.endJob 0x0908 0 0)
      else some (s.beginJob.sendParts q (1 + n % 2) 0 n)))

/-- RESTORE: the source is checked, and written back when every check passes; the device is then STOPPED. It waits for running self-tests
(R442). -/
def execRestore (r : Ring) (s : State) : Host.Outcome State Fault Refusal :=
  .next (s.jobCommand r.val (fun b => cmdOp b == 0x0C) (fun s c =>
    let b := c.bytes
    let n := leAt b 8 4
    let src := leAt b 12 1
    let host := s.regionSrc (leAt b 13 1) (leAt b 16 8)
    let m := if src = 0 then s.hbm else if src = 3 then s.hostMem else s.flash
    let bases := if src = 0 then s.slotBases 0 else if src = 3 then seqBases host.m host.a else seqBases s.flash ((src - 1) * 2 ^ 41)
    let total := ((List.range 4).map (fun d => s.partBytes d)).foldl (· + ·) 0
    if s.filling || decide (0 < s.testing) then none
    else if s.jobState ≠ jobLOADED ∧ s.jobState ≠ jobSTOPPED then some (s.endJob 0x0908 0 0)
    else if !cmdClean b 0 [(8, 4), (12, 1), (13, 1), (16, 8)] || (decide (3 < src) || (decide (128 ≤ leAt b 13 1)
        || (src != 3 && (leAt b 13 1 != 0 || leAt b 16 8 != 0)))) then some (s.endJob 0x0A02 0 0)
    else if s.secureSec = [] then some (s.endJob 0x0908 0 0)
    else if src == 3 && !s.inRegion (leAt b 13 1) (leAt b 16 8) total then some (s.endJob 0x0A04 0 0)
    else
      let code := s.restoreCode m bases n
      some (if code ≠ 0 then s.endJob code 0 0 else (s.restoreFrom m bases n).endJob 0 0 0)))

/-! ### Completions, doorbells and ring control (R474, R475, R477, R481) -/

/-- COMPLETION_POST (R477): the oldest completion due at CQ c is written at its tail, and its vector sent where IEN is 1. -/
def execCompletionPost (c : Ring) (s : State) : Host.Outcome State Fault Refusal :=
  match s.completions.findIdx? (fun x => s.boundCq x.ring == c.val) with
  | none => .next s
  | some k =>
    match s.completions[k]? with
    | none => .next s
    | some x =>
      if s.cqFull c.val || s.d3 then .next s
      else
        let ph := s.fld (Reg.hqCqStatus c.val) 0 0
        let t := s.cqTail c.val
        let bs := leBytes 4 x.seq ++ (leBytes 2 x.status ++ (leBytes 1 x.ring ++ (leBytes 1 (ph + 2 * b2n x.again)
          ++ (leBytes 2 x.head ++ (leBytes 6 0 ++ (leBytes 8 x.result0 ++ leBytes 8 x.result1))))))
        let s1 := { s with
          completions := s.completions.eraseIdx k
          hostMem := Mem.write s.hostMem (bits (s.reg (Reg.hqCqBase c.val)) 63 6 * 64 + 32 * t) bs }
        let s2 := s1.setFld (Reg.hqCqStatus c.val) 31 16 ((t + 1) % s.cqSize c.val)
        let s3 := if t + 1 = s.cqSize c.val then s2.setFld (Reg.hqCqStatus c.val) 0 0 (1 - ph) else s2
        .next (if isBit (s.reg (Reg.hqCqCtl c.val)) 1 then s3.sendMsix (s.fld (Reg.hqCqCtl c.val) 24 16) else s3)

/-- SQ_DOORBELL (R475): `stores` is what the driver wrote to host memory before it. -/
def execSqDoorbell (r : Ring) (value : Nat) (stores : List (Nat × List Byte)) (s : State) : Host.Outcome State Fault Refusal :=
  let s1 := { s with hostMem := stores.foldl (fun m (w : Nat × List Byte) => Mem.write m w.1 w.2) s.hostMem }
  if s1.sqSize r.val ≤ bits value 15 0 then .next (s1.hostFault 3) else .next (s1.setFld (Reg.hqSqTail r.val) 15 0 value)

/-- CQ_DOORBELL (R475). -/
def execCqDoorbell (c : Ring) (value : Nat) (s : State) : Host.Outcome State Fault Refusal :=
  if s.cqSize c.val ≤ bits value 15 0 then .next (s.hostFault 3) else .next (s.setFld (Reg.hqCqHead c.val) 15 0 value)

/-- RING_CTL_WRITE (R12, R474): a write of HQ_SQ_CTL[r] or HQ_CQ_CTL[r]. -/
def execRingCtlWrite (cq : Bool) (r : Ring) (value : Nat) (s : State) : Host.Outcome State Fault Refusal :=
  let e := bits value 12 8
  if e < 4 ∨ 16 < e then .next s
  else if cq then
    let k := Reg.hqCqCtl r.val
    let on := s.cqEnabled r.val
    if on && (!isBit value 0 && (List.range 64).any (fun q => s.sqEnabled q && s.boundCq q == r.val)) then .next s
    else
      let s1 := ((s.setFld k 24 16 (bits value 24 16)).setFld k 1 0 (bits value 1 0))
      let s2 := if on then s1 else s1.setFld k 12 8 e
      if !on && isBit value 0 then .next (s2.setReg (Reg.hqCqStatus r.val) 1) else .next s2
  else
    let k := Reg.hqSqCtl r.val
    let on := s.sqEnabled r.val
    let s1 := s.setFld k 0 0 (bit value 0)
    let s2 := if on then s1 else (s1.setFld k 12 8 e).setFld k 21 16 (bits value 21 16)
    if !on && isBit value 0 then .next (s2.setReg (Reg.hqSqStatus r.val) 0) else .next s2

/-- INT_CAUSE_CLEAR (R11, R481): `set` are the causes that occur in the same cycle; they end set. -/
def execIntCauseClear (value : Nat) (set : List (Fin 7)) (s : State) : Host.Outcome State Fault Refusal :=
  let s1 := ((bitList 7 value).filter (fun i => !set.any (fun c => c.val == i))).foldl (fun s i => s.setFld Reg.hqIntCause i i 0) s
  .next (set.foldl (fun s i => s.cause i.val) s1)

end Sys2Proof.Machine
end

