-- ==== Sys2Proof/Machine/Digest.lean ====
section
/-! DEFINITION. SHA3-512, which attestation, firmware and meter readings are signed over (R492, R493, R513). The spec names the
function, not its steps: they are those of FIPS 202 (PRESUMED, log entry 27). -/

namespace Sys2Proof.Machine

/-- Rotation of a 64-bit lane. -/
def rotl64 (v n : Nat) : Nat := ((v <<< n) ||| (v >>> (64 - n))) % 2 ^ 64

/-- Lane (x, y) of a state of 25 lanes. -/
def lane (a : List Nat) (x y : Nat) : Nat := a.getD (x % 5 + 5 * (y % 5)) 0

/-- Rotation offsets, by x + 5y. -/
def keccakRot : List Nat :=
  [0, 1, 62, 28, 27, 36, 44, 6, 55, 20, 3, 10, 43, 25, 39, 41, 45, 15, 21, 8, 18, 2, 61, 56, 14]

/-- Round constants. -/
def keccakRc : List Nat :=
  [0x0000000000000001, 0x0000000000008082, 0x800000000000808A, 0x8000000080008000, 0x000000000000808B, 0x0000000080000001,
   0x8000000080008081, 0x8000000000008009, 0x000000000000008A, 0x0000000000000088, 0x0000000080008009, 0x000000008000000A]
  ++ [0x000000008000808B, 0x800000000000008B, 0x8000000000008089, 0x8000000000008003, 0x8000000000008002, 0x8000000000000080,
   0x000000000000800A, 0x800000008000000A, 0x8000000080008081, 0x8000000000008080, 0x0000000080000001, 0x8000000080008008]

/-- A state of 25 lanes from its entries. -/
def lanes (f : Nat → Nat → Nat) : List Nat := (List.range 25).map (fun i => f (i % 5) (i / 5))

/-- The column parities and the step theta. -/
def keccakTheta (a : List Nat) : List Nat :=
  let c := (List.range 5).map (fun x => lane a x 0 ^^^ lane a x 1 ^^^ lane a x 2 ^^^ lane a x 3 ^^^ lane a x 4)
  lanes (fun x y => lane a x y ^^^ (c.getD ((x + 4) % 5) 0 ^^^ rotl64 (c.getD ((x + 1) % 5) 0) 1))

/-- The steps rho and pi. -/
def keccakRhoPi (a : List Nat) : List Nat :=
  lanes (fun x y => rotl64 (lane a (x + 3 * y) x) (keccakRot.getD ((x + 3 * y) % 5 + 5 * x) 0))

/-- The steps chi and iota. -/
def keccakChi (rc : Nat) (b : List Nat) : List Nat :=
  lanes (fun x y => (lane b x y ^^^ ((2 ^ 64 - 1 - lane b (x + 1) y) &&& lane b (x + 2) y)) ^^^ (if x = 0 ∧ y = 0 then rc else 0))

/-- The permutation of 24 rounds. -/
def keccakF (a : List Nat) : List Nat := keccakRc.foldl (fun a rc => keccakChi rc (keccakRhoPi (keccakTheta a))) a

/-- Adds a 72-byte block into the state and permutes it. -/
def absorb (a : List Nat) (block : List Byte) : List Nat :=
  keccakF ((List.range 25).map (fun i => a.getD i 0 ^^^ (if i < 9 then leAt block (8 * i) 8 else 0)))

/-- Absorbs whole blocks and the padded rest. -/
def absorbAll : Nat → List Nat → List Byte → List Nat
  | 0, a, _ => a
  | fuel + 1, a, bs =>
    if bs.length < 72 then
      let p := padTo 72 (bs ++ [Byte.of 6])
      absorb a (p.take 71 ++ [(p.getD 71 0) ||| Byte.of 0x80])
    else absorbAll fuel (absorb a (bs.take 72)) (bs.drop 72)

/-- SHA3-512 of a byte string. -/
def sha3 (bs : List Byte) : List Byte :=
  ((absorbAll (bs.length / 72 + 1) (List.replicate 25 0) bs).take 8).flatMap (leBytes 8)

end Sys2Proof.Machine
end

