-- ==== Sys2Proof/Machine/Settings.lean ====
section
/-! DEFINITION. The settings store (R499 to R503) and the firmware slots it depends on (R493). -/

namespace Sys2Proof.Machine

/-! ### Firmware slots (R493, R494) -/

def FwComp.slot (c : FwComp) (i : Nat) : FwSlot := if i = 0 then c.slotA else c.slotB
def FwComp.setSlot (c : FwComp) (i : Nat) (x : FwSlot) : FwComp := if i = 0 then { c with slotA := x } else { c with slotB := x }
def FwComp.act (c : FwComp) : FwSlot := c.slot c.active
def FwComp.other (c : FwComp) : FwSlot := c.slot (1 - c.active)

/-- A field of a slot's image. -/
def FwSlot.le (x : FwSlot) (off n : Nat) : Nat := Mem.le x.image off n
def FwSlot.version (x : FwSlot) : Nat := x.le 10 2
def FwSlot.sv (x : FwSlot) : Nat := x.le 12 1
def FwSlot.cfgFormat (x : FwSlot) : Nat := x.le 13 1
def FwSlot.cfgMin (x : FwSlot) : Nat := x.le 14 1

def slotEMPTY : Nat := 0
def slotSTAGING : Nat := 1
def slotSTAGED : Nat := 2
def slotTRIAL : Nat := 3
def slotCONFIRMED : Nat := 4
def slotREJECTED : Nat := 5
def slotRETIRED : Nat := 6
def slotINVALID : Nat := 7

/-- Component 0 MGT, 1 IOD. -/
def State.fw (s : State) (k : Nat) : FwComp := if k = 0 then s.mgmt.fw0 else s.mgmt.fw1
def State.setFw (s : State) (k : Nat) (c : FwComp) : State :=
  { s with mgmt := if k = 0 then { s.mgmt with fw0 := c } else { s.mgmt with fw1 := c } }

/-! ### The store (R499, R500) -/

/-- Bytes of a record: a 16-byte head, the padded value, a 16-byte tail. -/
def CfgRec.size (r : CfgRec) : Nat := 32 + (r.value.length + 15) / 16 * 16

/-- Bytes in use in a half, header included. -/
def CfgHalf.used (h : CfgHalf) : Nat := 64 + (h.records.map CfgRec.size).foldl (· + ·) 0

/-- Half 1 governs: valid, with the higher generation (R500). -/
def Mgmt.high (m : Mgmt) : Bool := m.half1.valid && (!m.half0.valid || decide (m.half0.generation < m.half1.generation))

/-- The governing half. -/
def Mgmt.half (m : Mgmt) : CfgHalf := if m.high then m.half1 else m.half0
def Mgmt.setHalf (m : Mgmt) (h : CfgHalf) : Mgmt := if m.high then { m with half1 := h } else { m with half0 := h }

/-- The current record of a pair: the valid one with the highest SEQ, of those that are not obsolete (R502). -/
def CfgHalf.current (h : CfgHalf) (key format : Nat) : Option CfgRec :=
  h.records.foldl (fun acc r =>
    if r.good && (!r.obsolete && (r.key == key && r.format == format)) then
      match acc with
      | none => some r
      | some a => if a.seq ≤ r.seq then some r else acc
    else acc) none

/-- The value of a pair; none after a DELETE or without a record. -/
def CfgHalf.value (h : CfgHalf) (key format : Nat) : Option (List Byte) :=
  match h.current key format with
  | none => none
  | some r => if r.delete then none else some r.value

/-- The formats in which a key is held: 0 for the owner's, else the running firmware's, and during a TRIAL whose format differs also
that of the firmware it replaces (R501, R502). -/
def State.cfgFormats (s : State) (key : Nat) : List Nat :=
  if 0x8000 ≤ key then [0]
  else
    let a := s.mgmt.fw0.act
    let o := s.mgmt.fw0.other
    if a.st = slotTRIAL ∧ a.cfgFormat ≠ o.cfgFormat then [a.cfgFormat, o.cfgFormat] else [a.cfgFormat]

/-- The format a key is read in. -/
def State.cfgFormat (s : State) (key : Nat) : Nat := if 0x8000 ≤ key then 0 else s.mgmt.fw0.act.cfgFormat

/-- The value of a key as the running firmware reads it. -/
def State.cfgValue (s : State) (key : Nat) : Option (List Byte) := s.mgmt.half.value key (s.cfgFormat key)

/-- Appends one record with the next SEQ; a half of 6 MiB or more is due for compaction (R503). -/
def State.cfgAppend (s : State) (key format : Nat) (value : Option (List Byte)) : State :=
  let n := s.mgmt.cfgSeq + 1
  let h := s.mgmt.half
  let h1 := { h with records := h.records ++ [⟨key, format, value.isNone, n, value.getD [], true, false⟩] }
  { s with mgmt := { s.mgmt.setHalf h1 with cfgSeq := n } }

/-- A CFG_SET or CFG_DELETE writes the key in every format it is held in. -/
def State.cfgWrite (s : State) (key : Nat) (value : Option (List Byte)) : State :=
  (s.cfgFormats key).foldl (fun s f => s.cfgAppend key f value) s

/-- The first start of a TRIAL firmware with another format copies the current records into its own (R502). -/
def State.cfgCopy (s : State) : State :=
  let a := s.mgmt.fw0.act.cfgFormat
  let o := s.mgmt.fw0.other.cfgFormat
  if a = o then s
  else [1, 2, 3].foldl (fun s key =>
    match s.mgmt.half.current key o with
    | none => s
    | some r => s.cfgAppend key a (if r.delete then none else some r.value)) s

/-- A confirmation or a fall-back of MGT leaves records of keys 0x0001 to 0x0003 in another format than the running firmware's obsolete (R502). -/
def State.cfgRetire (s : State) (k : Nat) : State :=
  if k ≠ 0 then s
  else
    let h := s.mgmt.half
    let f := s.mgmt.fw0.act.cfgFormat
    { s with mgmt := s.mgmt.setHalf { h with records := h.records.map (fun r =>
        { r with obsolete := r.obsolete || (decide (r.key < 0x8000) && r.format != f) }) } }

/-- Total of the owner's current values, with `key` holding `n` bytes instead (R501). -/
def CfgHalf.ownerBytes (h : CfgHalf) (key n : Nat) : Nat :=
  let keys := (h.records.map (fun r => r.key)).eraseDups.filter (fun k => decide (0x8000 ≤ k) && k != key)
  n + (keys.map (fun k => ((h.value k 0).getD []).length)).foldl (· + ·) 0

/-- A value of FRK_PORT_CTL in register layout, with no reserved bit set. -/
def portCtlOk (v : Nat) : Bool :=
  match Reg.desc (Reg.frkPortCtl 0) with
  | none => false
  | some d => v == (d.fields.filter (fun f => f.acc == Access.rw)).foldl (fun x f => x + bits v f.hi f.lo * 2 ^ f.lo) 0

/-- The value suits its key (R501); endpoint IDs are those that MCTP lets a device hold (PRESUMED, log entry 28). -/
def cfgValueOk (key : Nat) (v : List Byte) : Bool :=
  if key = 1 then v.length == 4 && (leNat v &&& 0xFFFFF8FE == 0 && bits (leNat v) 10 8 != 7)
  else if key = 2 then v.length == 1 && (leNat v == 0 || (decide (8 ≤ leNat v) && decide (leNat v ≤ 254)))
  else if key = 3 then v.length == 32 && (List.range 8).all (fun i => portCtlOk (leAt v (4 * i) 4))
  else decide (0x8000 ≤ key)

/-! ### Settings taken into effect (R501) -/

def State.applyEvtCtl (s : State) : State :=
  match s.cfgValue 1 with
  | none => s
  | some v => s.setReg Reg.evtCtl (leNat v)

def State.applyEid (s : State) : State :=
  match s.cfgValue 2 with
  | none => s
  | some v => { s with mgmt := { s.mgmt with eid := leNat v } }

/-- Key 0x0003: FRK_PORT_CTL of every port, before ports train. -/
def State.applyPortCtl (s : State) : State :=
  match s.cfgValue 3 with
  | none => s
  | some v => (List.range 8).foldl (fun s p => s.setReg (Reg.frkPortCtl p) (leAt v (4 * p) 4)) s

/-! ### Opening and compacting (R500, R503) -/

/-- Opens the store. `bad` are the SEQs of records that fail their CRC: one at the end of the written area is ignored, one elsewhere is
skipped with a record of 0x0B11. -/
def State.cfgOpen (s : State) (bad : List Nat) : State :=
  let h := s.mgmt.half
  let h1 := { h with records := h.records.map (fun r => if bad.contains r.seq then { r with good := false } else r) }
  let s1 := { s with mgmt := s.mgmt.setHalf h1 }
  (h1.records.dropLast.filter (fun r => bad.contains r.seq)).foldl (fun s _ => s.event 0x0B11 sevWARNING srcMgmt 0 []) s1

/-- The records a compaction keeps: current ones of every pair in force, by ascending KEY and FORMAT. -/
def State.cfgKept (s : State) : List CfgRec :=
  let h := s.mgmt.half
  let all := h.records.filter (fun r => (s.cfgFormats r.key).contains r.format
    && (match h.current r.key r.format with
      | none => false
      | some c => c.seq == r.seq && r.good))
  all.mergeSort (fun a b => decide (a.key * 256 + a.format ≤ b.key * 256 + b.format))

/-- SETTINGS_COMPACT (R503). It waits for the end of a service pause of MGT (R495). -/
def execSettingsCompact (s : State) : Host.Outcome State Fault Refusal :=
  let m := s.mgmt
  if !m.running || (m.pause.isSome || decide (m.half.used < 6 * 2 ^ 20)) then .next s
  else
    let h : CfgHalf := ⟨true, m.half.generation + 1, s.cfgKept⟩
    let m1 := if m.high then { m with half0 := h } else { m with half1 := h }
    .next { s with mgmt := m1 }

end Sys2Proof.Machine
end

