-- ==== Sys2Proof/Machine/Resets.lean ====
section
/-! DEFINITION. Resets and bring-up (R278, R465, R467, R482, R483) and the host's accesses that do not reach a register: faulted ones and
those through BAR2 (R466, R470, R471, R484). -/

namespace Sys2Proof.Machine

/-! ### What a reset ends (R244, R482) -/

/-- The job-control command under way completes: a LOAD with 0x0540, which NET_IMG_REJECT records; any other with 0x0A08. -/
def State.abortJob (s : State) : State :=
  match s.jobCmds with
  | [] => s
  | c :: _ =>
    if !c.begun then s
    else if leAt c.bytes 0 1 = 1 then
      let s1 := s.noteReject (some ⟨0x0540, 0xFFFF, 0, 0, 0, none⟩)
      s1.endJob 0x0540 (s1.reg Reg.netImgReject) 0
    else s.endJob 0x0A08 0 0

/-- MEMCOPYs under way, commands that wait for the dies, and FLASH_READs when `flash`, complete with 0x0A08. -/
def State.abortCopies (s : State) (flash : Bool) : State :=
  let s1 := s.heldCmds.foldl (fun s c => s.finish c.ring c.seq 0x0A08 0 0) { s with heldCmds := [] }
  (s.copies.filter (fun c => !c.flash || flash)).foldl (fun s c => s.finish c.ring c.seq 0x0A08 0 0)
    { s1 with copies := s.copies.filter (fun c => c.flash && !flash) }

/-- A LOAD is under way. -/
def State.loading (s : State) : Bool := (s.jobCmd 1).isSome

/-- A reset that reaches the dies, up to the end of their reset (R104, R160, R208, R247, R332, R366). `aborted`: it ends a LOAD, and
NET_IMG_REJECT records 0x0540 (R244), be its command still in the queues or gone with them. -/
def State.resetDies (s : State) (aborted : Bool) : State :=
  let s0 := if aborted then s.noteReject (some ⟨0x0540, 0xFFFF, 0, 0, 0, none⟩) else s
  let s1 := ((s0.abortJob).abortCopies false).enterEmpty
  let s2 := s1.resetRegs (fun k => k == Reg.netHoldLimit || ((!aborted && (k == Reg.netImgReject || k == Reg.netImgRejectWhere))
    || decide (0x02000000 ≤ k)))
  (s2.setFld Reg.hqDevStatus 0 0 0).setFld Reg.hqDevStatus 7 4 0

/-- Steps 5 and 6 of R483. -/
def State.bringUp (s : State) : State :=
  let s1 := (s.setFld Reg.hqDevStatus 7 4 4).applyRepair
  ((s1.setFld Reg.hqDevStatus 7 4 5).setFld Reg.hqDevStatus 0 0 1).cause 0

/-- The registers of the I/O die that no entry to EMPTY resets: fabric, resilience and snapshot engine. NET_RES_STATUS.SERVICE stands
(R446), and so do the castle and flash slots (R462). -/
def ioReg (k : Nat) : Bool :=
  (decide (0x200000 ≤ k) && decide (k < 0x300000)) || (decide (0x3408 ≤ k) && (decide (k < 0x3500) && !(decide (0x3490 ≤ k) && decide (k < 0x34B8))))

/-- A reset that reaches the I/O die (R403, R432, R462, R512): fabric ports, routes, addresses and engines. -/
def State.resetIo (s : State) (aborted : Bool) : State :=
  let s1 := (s.abortCopies true).resetDies aborted
  { (s1.resetRegs ioReg) with
    rises := Sparse.clearIf s1.rises ioReg
    ports := []
    routes := []
    arrived := []
    conns := []
    meter := { s1.meter with run := s1.meter.run + 1, passes := 0, steps := 0, updates := 0 } }.applyPortCtl

/-- Ring, interrupt and MSI-X registers (R482). -/
def queueReg (k : Nat) : Bool :=
  (decide (0x100000 ≤ k) && decide (k < 0x120000)) || (decide (0x18 ≤ k) && decide (k < 0x44))

/-- A reset that reaches the queues: rings, registrations, NEXT and MSI-X are cleared, commands abandoned without completion. -/
def State.resetQueues (s : State) : State :=
  { (s.resetRegs queueReg) with
    rises := Sparse.clearIf s.rises queueReg
    regions := []
    taken := []
    completions := []
    jobCmds := []
    heldCmds := []
    copies := []
    msix := [] }

/-- DIE_RESET (R482): HQ_RESET.DIES. -/
def execDieReset (s : State) : Host.Outcome State Fault Refusal :=
  if s.ready then .next (s.resetDies s.loading).bringUp else .next s

/-- IO_DIE_RESET (R482): HQ_RESET.IO. -/
def execIoDieReset (s : State) : Host.Outcome State Fault Refusal :=
  if s.ready then .next (s.resetIo s.loading).bringUp else .next s

/-- Adds to what the device has sent. -/
def State.send (s : State) (x : Sent) : State := { s with sent := s.sent ++ [x] }

/-- FLR (R465, R482): queues and dies; Function Readiness Status is sent. -/
def execFlr (s : State) : Host.Outcome State Fault Refusal :=
  if s.fld Reg.hqDevStatus 7 4 = 0 then .next s
  else
    let s1 := { s.resetQueues with d3 := false }
    .next ((if s.ready then (s1.resetDies s.loading).bringUp else s1).send .frs)

/-- The link has trained: speed, width, Device Readiness Status (R465, R483 step 3). -/
def State.linkUp (s : State) (gen width : Nat) : State :=
  (((s.setFld Reg.hqDevStatus 31 24 gen).setFld Reg.hqDevStatus 23 16 width).setFld Reg.hqDevStatus 7 4 1).send .drs

/-- Speeds and widths at which the device operates (R465). -/
def linkOk (gen width : Nat) : Bool := decide (1 ≤ gen) && (decide (gen ≤ 6) && (width == 8 || width == 16))

/-- What follows link training: the stacks train unless they hold their training and fill (R483 steps 3 to 6). -/
def State.afterLink (s : State) : State :=
  if s.trained then s.bringUp
  else (List.range 16).foldl (fun s k => s.setFld (Reg.hbmStatus k) 2 0 1) (s.setFld Reg.hqDevStatus 7 4 2)

/-- FUNDAMENTAL_RESET (R482, R483): PERST# stays asserted when `perst`; after a hot reset, a link disable or a link down the link
trains again, at the given speed and width. -/
def execFundamentalReset (perst : Bool) (gen width : Nat) (s : State) : Host.Outcome State Fault Refusal :=
  if s.fld Reg.hqDevStatus 7 4 = 0 then .next s
  else
    let s1 := (({ s.resetQueues with d3 := false }.resetIo s.loading).setFld Reg.hqDevStatus 31 16 0)
    if perst || !linkOk gen width then .next s1 else .next (s1.linkUp gen width).afterLink

/-- PERST_DEASSERT (R483 step 3): MOD_READY stands, and the link trains at a speed and width the device operates at. -/
def execPerstDeassert (gen width : Nat) (s : State) : Host.Outcome State Fault Refusal :=
  if !s.mgmt.modReady || (s.fld Reg.hqDevStatus 7 4 != 0 || !linkOk gen width) then .next s
  else .next (s.linkUp gen width).afterLink

/-- Training goes over to the fill (R278, R483 step 4): stacks in training read FILLING, STAGE HBM_FILL. -/
def State.fillStage (s : State) : State :=
  if s.fld Reg.hqDevStatus 7 4 ≠ 2 then s
  else (List.range 16).foldl (fun s k => s.setFld (Reg.hbmStatus k) 2 0 2) ((s.setFld Reg.hqDevStatus 7 4 3).setFld Reg.hbmScrubStatus 1 1 1)

/-- HBM_INIT_DONE (R278, R483): the stacks are trained, their remap tables reloaded and every atom zero; those of `failed` have failed
training. -/
def execHbmInitDone (failed : List Stack) (s : State) : Host.Outcome State Fault Refusal :=
  if s.fld Reg.hqDevStatus 7 4 ≠ 2 ∧ s.fld Reg.hqDevStatus 7 4 ≠ 3 then .next s
  else
    let s1 := (({ s with hbm := [], trained := true }.loadRemaps.setFld Reg.hbmScrubStatus 1 1 0).setFld Reg.hqDevStatus 1 1 (b2n (!failed.isEmpty)))
    let s2 := (List.range 16).foldl (fun s k =>
      if failed.any (fun f => f.val == k) then
        (s.setFld (Reg.hbmStatus k) 2 0 4).event 0x040D sevFATAL srcHbm k []
      else s.setFld (Reg.hbmStatus k) 2 0 3) s1
    .next s2.bringUp

/-! ### D3hot (R467) -/

/-- D3HOT_ENTRY: a running job stops first; the device enters D3hot once it is STOPPED. -/
def execD3hotEntry (s : State) : Host.Outcome State Fault Refusal :=
  if s.running then .next { s with job := { s.job with stopD3 := true } } else .next { s with d3 := true }

/-- D0_RETURN: every job state, ring, region and register stands. -/
def execD0Return (s : State) : Host.Outcome State Fault Refusal := .next { s with d3 := false }

/-! ### Faults of the host side (R466, R470, R484) -/

/-- HOST_POISONED_WRITE (R466). -/
def execHostPoisonedWrite (s : State) : Host.Outcome State Fault Refusal := .next ((s.hostFault 2).send (.aer 0))

/-- HOST_READ_FAULT (R466): a completion timeout, or another faulty completion; the read is issued again. -/
def execHostReadFault (timeout : Bool) (s : State) : Host.Outcome State Fault Refusal :=
  .next ((s.hostFault 1).send (.aer (if timeout then 1 else 2)))

/-- A BAR0 access that R470 handles: not aligned, of another size than 4 or 8 bytes, or to a window of a die in reset. -/
def State.bar0Fault (s : State) (addr bytes : Nat) : Bool :=
  !(bytes == 4 || bytes == 8) || (addr % bytes != 0 || (decide (0x02000000 ≤ addr) && !s.diesUp))

/-- BAR0_FAULT_ACCESS (R470): a read answers 0, a write is discarded; either counts 0x0A03. -/
def execBar0FaultAccess (addr bytes : Nat) (s : State) : Host.Outcome State Fault Refusal :=
  if s.bar0Fault addr bytes && decide (addr < 0x04000000) then .next (s.hostFault 0) else .next s

/-- HOST_COUNT_REPORT (R484). -/
def execHostCountReport (s : State) : Host.Outcome State Fault Refusal :=
  .next ([(0, 0x0A03, sevWARNING), (3, 0x0A09, sevWARNING), (1, 0x0A0A, sevNOTICE), (2, 0x0A0B, sevWARNING)].foldl
    (fun s (e : Nat × Nat × Nat) =>
      let n := s.rise (Reg.hqErrCount e.1)
      if n = 0 then s else (s.event e.2.1 e.2.2 srcHost 0 [it8 n]).clearRise (Reg.hqErrCount e.1)) s)

/-! ### BAR2 (R471) -/

/-- The region of R254 that a device address lies in: 0 job, 1 castle, 2 image or reserve, 3 a hole. -/
def State.bar2Region (s : State) (a : Nat) : Nat :=
  let d := a / 2 ^ 38
  let off := a % 2 ^ 38
  if 4 ≤ d ∨ s.dieBytes ≤ off then 3
  else if off < s.jobBytes d then 0
  else if off < (if d = 0 then s.imageOff else s.ownerOff) then 1
  else 2

/-- A BAR2 write to a device address is carried out. -/
def State.bar2Writable (s : State) (a : Nat) : Bool :=
  s.ready && (s.bar2Region a == 0 || (s.bar2Region a == 1 && s.repairable))

/-- BAR2_READ (R471): the stored data, zeros in a hole or before READY. It is held while the fill of R279 runs. -/
def execBar2Read (addr bytes : Nat) (mem : MemEnv) (s : State) : Host.Outcome State Fault Refusal :=
  if s.filling then .next s
  else if !s.ready then .next (s.send (.bar2 (List.replicate bytes 0)))
  else
    let s1 := (s.hbmTouch addr bytes).hbmAccess mem [⟨addr, bytes⟩]
    let m := (s1.delivered mem).hbm
    let hole := (List.range bytes).any (fun i => s.bar2Region (addr + i) == 3)
    let data := (List.range bytes).map (fun i => if s.bar2Region (addr + i) = 3 then 0 else Mem.byte m (addr + i))
    .next ((if hole then s1.hostFault 0 else s1).send (.bar2 data))

/-- BAR2_WRITE (R471): bytes of the job region, and in EMPTY and STOPPED of the castle region, are written; others are discarded. -/
def execBar2Write (addr : Nat) (data : List Byte) (s : State) (mem : MemEnv := []) : Host.Outcome State Fault Refusal :=
  if s.filling then .next s
  else
    let ok := (List.range data.length).filter (fun i => s.bar2Writable (addr + i))
    let s0 := if ok.isEmpty then s
      else (s.hbmAccess mem ((partialAtoms addr data.length).map (fun a => ⟨a, 64⟩)) [⟨addr, data.length⟩]).mergeAtoms mem (partialAtoms addr data.length)
    let s1 := { s0 with hbm := ok.foldl (fun m i => Mem.set m (addr + i) (data.getD i 0)) s0.hbm }
    let s2 := if ok.isEmpty then s1 else s1.spoilAtoms mem [⟨addr, data.length⟩]
    let s3 := if s.ready then s2.hbmTouch addr data.length else s2
    .next (if ok.length < data.length then s3.hostFault 0 else s3)

end Sys2Proof.Machine
end

