-- ==== Sys2Proof/Machine/Recorder.lean ====
section
/-! DEFINITION. The event recorder's flash partition and its registers (R507 to R509, R515). -/

namespace Sys2Proof.Machine

/-! ### The partition (R508) -/

/-- The lowest SEQ of a block. -/
def EvtBlock.low (b : EvtBlock) : Nat := (b.records.map (fun r => r.seq)).foldl min (2 ^ 64)

/-- The place of the block, among all but the head, whose lowest SEQ is oldest. -/
def oldestBlock (bs : List EvtBlock) : Nat :=
  ((List.range (bs.length - 1)).foldl (fun (best : Nat × Nat) i =>
    let v := (bs.getD i ⟨[], 0⟩).low
    if v < best.1 then (v, i) else best) (2 ^ 65, 0)).2

/-- Adds a record to the head block, which is the last. -/
def appendHead (copied : Bool) (r : EvtRec) : List EvtBlock → List EvtBlock
  | [] => [⟨[r], b2n copied⟩]
  | [b] => [⟨b.records ++ [r], b.copied + b2n copied⟩]
  | b :: c :: bs => b :: appendHead copied r (c :: bs)

/-- Room left in the head block. -/
def headRoom (bs : List EvtBlock) : Nat :=
  match bs.getLast? with
  | none => 0
  | some b => 4096 - b.records.length

/-- Copies forward the records of a freed block whose severity is `keep` or higher, within the limit; counts those dropped. -/
def copyForward (keep : Nat) : List EvtRec → List EvtBlock → List EvtBlock × Nat
  | [], bs => (bs, 0)
  | r :: rs, bs =>
    if r.sev < keep then copyForward keep rs bs
    else if 1048576 ≤ (bs.map (fun b => b.copied)).foldl (· + ·) 0 then
      let x := copyForward keep rs bs
      (x.1, x.2 + 1)
    else copyForward keep rs (appendHead true r bs)

/-- Makes room for one record: an erased block becomes the head, and one block is freed where none would stay erased. The blocks, the
records dropped and the blocks freed. -/
def openHead (keep : Nat) : Nat → List EvtBlock → List EvtBlock × Nat × Nat
  | 0, bs => (bs, 0, 0)
  | fuel + 1, bs =>
    if 0 < headRoom bs then (bs, 0, 0)
    else
      let bs1 := bs ++ [⟨[], 0⟩]
      if bs1.length < 1024 then (bs1, 0, 0)
      else
        let v := oldestBlock bs1
        let x := copyForward keep (bs1.getD v ⟨[], 0⟩).records (bs1.eraseIdx v)
        let y := openHead keep fuel x.1
        (y.1, x.2 + y.2.1, 1 + y.2.2)

/-- The bytes of a record's severity in its group. -/
def EvtGroup.recs (g : EvtGroup) : List EvtRec :=
  (List.zip (List.range g.records.length) g.records).map (fun x => ⟨g.seq + x.1, g.sev, x.2⟩)

/-- Writes one record to flash. -/
def State.flashRecord (s : State) (r : EvtRec) : State :=
  let x := openHead (s.fld Reg.evtCtl 10 8) 1024 s.recorder.blocks
  let s1 := { s with recorder := { s.recorder with blocks := appendHead false r x.1 } }
  (((s1.count (Reg.evtCount 0) 1).count (Reg.evtCount 2) x.2.1).count (Reg.evtCount 3) x.2.2).setReg Reg.evtHead r.seq

/-- EVENT_FLASH_DRAIN (R508): the oldest queued record and its continuations reach flash; during a service pause they wait. -/
def execEventFlashDrain (s : State) : Host.Outcome State Fault Refusal :=
  match s.recorder.queue with
  | [] => .next s
  | g :: rest =>
    if !s.mgmtUp then .next s
    else .next (g.recs.foldl State.flashRecord { s with recorder := { s.recorder with queue := rest } })

/-- EVT_DROP_REPORT (R507): at most once a second. -/
def execEvtDropReport (s : State) : Host.Outcome State Fault Refusal :=
  let n := s.recorder.dropped
  if n = 0 then .next s
  else .next ({ s with recorder := { s.recorder with dropped := 0 } }.event 0x0B13 sevWARNING srcMgmt 0 [it8 n])

/-! ### Reading records (R509) -/

/-- The retained record with the lowest SEQ at or above `n`. -/
def Recorder.find (r : Recorder) (n : Nat) : Option EvtRec :=
  (r.blocks.flatMap (fun b => b.records)).foldl (fun acc e =>
    if e.seq < n then acc
    else match acc with
      | none => some e
      | some a => if e.seq < a.seq then some e else acc) none

/-- A byte string with some of its bits flipped. -/
def flipBits (bs : List Byte) (flips : List Nat) : List Byte :=
  flips.foldl (fun bs i => bs.set (i / 8) ((bs.getD (i / 8) 0) ^^^ Byte.of (2 ^ (i % 8)))) bs

/-- EVT_SEL_WRITE (R509): `flips` are the bits that flash reads wrong in the record shown. -/
def execEvtSelWrite (value : Nat) (flips : List Nat) (s : State) : Host.Outcome State Fault Refusal :=
  if s.pauseMgt then .next s
  else
    let s1 := s.setReg Reg.evtSel value
    match s.recorder.find (value % 2 ^ 64) with
    | none => .next (s1.setReg Reg.evtReadStatus 0)
    | some r =>
      let bs := flipBits r.bytes flips
      let bad := leAt bs 60 4 != crc32c (bs.take 60)
      let s2 := (List.range 8).foldl (fun s i => s.setReg (Reg.evtRec i) (leAt bs (8 * i) 8)) s1
      let s3 := s2.setReg Reg.evtReadStatus (1 + 2 * b2n bad)
      .next (if bad then s3.count (Reg.evtCount 4) 1 else s3)

end Sys2Proof.Machine
end

