-- ==== Sys2Proof/Machine/Mgmt.lean ====
section
/-! DEFINITION. The management controller: its requests (R488 to R490), identity and attestation (R491, R492), firmware (R493 to R498),
settings commands (R501), the clock (R504), posted events (R509), meter readings (R513) and the MCTP control commands (R488). -/

namespace Sys2Proof.Machine

/-! ### Requests and responses (R488, R489) -/

/-- The commands of R490. -/
def mgmtCodes : List Nat :=
  [0x01, 0x02, 0x03, 0x10, 0x11, 0x12, 0x13, 0x14, 0x15, 0x20, 0x30, 0x31, 0x32, 0x40, 0x50, 0x51]

/-- Sends a response: over MCTP, or over the request in the mailbox with STATUS and DONE set and BUSY cleared. -/
def State.respond (s : State) (p : MgmtPath) (status : Nat) (payload : List Byte) : State :=
  let bs := leBytes 1 p.command ++ (leBytes 1 1 ++ (leBytes 2 p.tag ++ (leBytes 2 status ++ (leBytes 2 payload.length ++ payload))))
  if p.mctp then s.send (.mctp bs)
  else
    ({ s with mgmt := { s.mgmt with mboxBuf := Mem.write s.mgmt.mboxBuf 0 bs, mboxBusy := false } }.setFld Reg.mgtMboxCtl 31 16 status).setFld
      Reg.mgtMboxCtl 1 1 1

/-- Serves a request whose bytes begin with its header: `len` are the payload lengths the command admits, `bad` the code for another;
`act` carries it out. A request for another command is not this one's. -/
def State.serve (s : State) (code : Nat) (p : MgmtPath) (bs : List Byte) (len : Nat → Bool) (bad : Nat)
    (act : State → MgmtPath → List Byte → State) : State :=
  let n := leAt bs 6 2
  if !mgmtCodes.contains p.command then s.respond p 0x0B02 []
  else if p.command ≠ code then s
  else if leAt bs 1 1 ≠ 0 ∨ leAt bs 4 2 ≠ 0 then s.respond p 0x0B01 []
  else if 8192 < n ∨ len n = false ∨ (p.mctp = true ∧ bs.length ≠ 8 + n) then s.respond p bad []
  else act s p ((bs.drop 8).take n)

/-- A request reaches the controller. During a service pause of MGT an MCTP request is discarded and the mailbox waits; while the
request of an IOD pause is outstanding, another on MCTP is answered busy if that one came by MCTP, and waits otherwise; a pause that no
request began leaves MCTP open. -/
def State.request (s : State) (code : Nat) (q : MgmtReq) (len : Nat → Bool) (bad : Nat)
    (act : State → MgmtPath → List Byte → State) : State :=
  if !s.mgmtUp then s
  else
    match q with
    | .mctp bs =>
      let p : MgmtPath := ⟨true, leAt bs 2 2, leAt bs 0 1⟩
      match s.mgmt.pause with
      | none => s.serve code p bs len bad act
      | some (_, some o) => if o.mctp then s.respond p 0x0B03 [] else s
      | some (_, none) => s.serve code p bs len bad act
    | .mailbox =>
      if !s.mgmt.mboxBusy || s.mgmt.pause.isSome then s
      else
        let bs := Mem.read s.mgmt.mboxBuf 0 8200
        s.serve code ⟨false, leAt bs 2 2, leAt bs 0 1⟩ bs len bad act

/-- MBOX_GO (R489): GO submits the request in the buffer; a reserved COMMAND is answered at once. While BUSY reads 1, in a service pause too, GO is
discarded. -/
def execMboxGo (s : State) : Host.Outcome State Fault Refusal :=
  if !s.mgmtUp || (s.mgmt.mboxBusy || s.mgmt.pause.isSome) then .next s
  else
    let c := Mem.le s.mgmt.mboxBuf 0 1
    if mgmtCodes.contains c then .next { s with mgmt := { s.mgmt with mboxBusy := true } }
    else .next (s.respond ⟨false, Mem.le s.mgmt.mboxBuf 2 2, c⟩ 0x0B02 [])

/-! ### Identity and attestation (R490 to R492) -/

/-- ORDER of HQ_ID (R485). -/
def State.order (s : State) : Nat := b2n s.small

/-- GET_IDENTITY (R490). -/
def execGetIdentity (q : MgmtReq) (s : State) : Host.Outcome State Fault Refusal :=
  .next (s.request 0x01 q (fun n => n == 0) 0x0B01 (fun s p _ =>
    s.respond p 0 (leBytes 8 Config.uid.toNat ++ ((List.range 16).map Config.serial ++ (leBytes 2 4 ++ (leBytes 1 0xB0 ++ (leBytes 1 s.order
      ++ leBytes 8 Config.meterId.toNat)))))))

/-- GET_CERT (R490). -/
def execGetCert (q : MgmtReq) (s : State) : Host.Outcome State Fault Refusal :=
  .next (s.request 0x02 q (fun n => n == 10) 0x0B01 (fun s p b =>
    let count := leAt b 8 2
    let chain := Config.certs (leAt b 0 1)
    if 1 < leAt b 0 1 ∨ zeroAt b 1 3 = false ∨ count < 1 ∨ 8184 < count then s.respond p 0x0B01 []
    else s.respond p 0 (leBytes 4 chain.length ++ (chain.drop (leAt b 4 4)).take count)))

/-- MGT_FW_STATUS of a component (R515). -/
def State.fwStatus (s : State) (k : Nat) : Nat :=
  let c := s.fw k
  let o := c.other
  c.active + (c.slotA.st * 2 ^ 4 + (c.slotB.st * 2 ^ 8 + (b2n c.selftest * 2 ^ 15 + ((if o.st = slotEMPTY then 0 else o.version) * 2 ^ 16
    + (c.act.version * 2 ^ 32 + (c.act.sv * 2 ^ 48 + c.floor * 2 ^ 56))))))

/-- SHA3-512 of the stored image of a slot; of an image written at manufacture the model holds the header alone (log entry 26). -/
def FwSlot.digest (x : FwSlot) (k : Nat) : List Byte :=
  if x.factory then (List.range 64).map (Config.factoryDigest k) else sha3 (Mem.read x.image 0 x.bytes)

/-- An ML-DSA-87 signature (4,627 bytes) of the digest of `bs`. -/
def signed4627 (key : Nat) (bs : List Byte) : List Byte := (List.range 4627).map (Config.signature key (sha3 bs))

/-- Bytes 0 to 319 of the report of R492. -/
def State.report (s : State) (nonce : List Byte) : List Byte :=
  let held := if s.job.image.isSome then sha3 (Mem.read s.hbm s.imageBase (s.reg Reg.netImgSize)) else List.replicate 64 0
  let gen := match s.repairCopy with
    | none => 0
    | some c => c.generation
  leBytes 8 Config.uid.toNat ++ (nonce ++ (leBytes 8 (s.reg Reg.mgtTime) ++ (leBytes 1 (s.fld Reg.mgtTimeStatus 0 0) ++ (List.replicate 7 0
    ++ (leBytes 8 (s.reg Reg.netImgId) ++ (held ++ (s.mgmt.fw0.act.digest 0 ++ (s.mgmt.fw1.act.digest 1 ++ (leBytes 8 (s.fwStatus 0)
    ++ (leBytes 8 (s.fwStatus 1) ++ (leBytes 8 Config.meterId.toNat ++ (leBytes 8 gen ++ List.replicate 32 0))))))))))))

/-- ATTEST (R492). -/
def execAttest (q : MgmtReq) (s : State) : Host.Outcome State Fault Refusal :=
  .next (s.request 0x03 q (fun n => n == 32) 0x0B01 (fun s p b => s.respond p 0 (s.report b ++ signed4627 0 (s.report b))))

/-! ### Firmware sessions (R489, R490, R494) -/

def fwMagic : List Byte := [0x4E, 0x41, 0x52, 0x46, 0x57, 0x49, 0x4D, 0x47]

/-- The checks of R494 in order on a slot of component `k`: the first code that fails, 0 for none. Check 6 runs when `settings`. -/
def State.fwCheck (s : State) (k : Nat) (x : FwSlot) (settings : Bool) : Nat :=
  let n := x.le 16 8
  let head := Mem.read x.image 0 1664
  let run := s.mgmt.fw0.act.cfgFormat
  if head.take 8 ≠ fwMagic ∨ x.le 15 1 ≠ 0 ∨ zeroAt head 27 37 = false ∨ zeroAt head 1660 4 = false
      ∨ allZero (Mem.read x.image 6291 45) = false ∨ x.bytes ≠ 6336 + n ∨ n % 64 ≠ 0 ∨ n < 64 ∨ 2 ^ 26 < n then 0x0B04
  else if x.le 8 1 ≠ k ∨ x.le 24 2 ≠ 4 ∨ x.le 26 1 ≠ 0xB0 then 0x0B05
  else if x.factory = false ∧ (15 < x.le 9 1 ∨ Config.keyGood (x.le 9 1) = false) then 0x0B06
  else if x.factory = false ∧ Config.verifies (x.le 9 1) (sha3 (head ++ Mem.read x.image 6336 n)) (Mem.read x.image 1664 4627) = false then 0x0B07
  else if x.sv < (s.fw k).floor then 0x0B08
  else if settings = true ∧ k = 0 ∧ (x.cfgFormat < run ∨ run < x.cfgMin) then 0x0B0B
  else if x.factory = false ∧ Config.decrypts (Mem.read x.image 0 x.bytes) = false then 0x0B09
  else 0

/-- Closes the firmware session: its slot becomes EMPTY (R489). -/
def State.fwClose (s : State) : State :=
  match s.mgmt.session with
  | none => s
  | some (k, _) =>
    let c := s.fw k
    let s1 := s.setFw k (c.setSlot (1 - c.active) .empty)
    { s1 with mgmt := { s1.mgmt with session := none } }

/-- FW_BEGIN (R16, R494). -/
def execFwBegin (q : MgmtReq) (s : State) : Host.Outcome State Fault Refusal :=
  .next (s.request 0x10 q (fun n => n == 16) 0x0B01 (fun s p b =>
    let k := leAt b 0 1
    let c := s.fw k
    let o := c.other.st
    if 1 < k ∨ zeroAt b 1 7 = false ∨ leAt b 8 8 = 2 ^ 64 - 1 then s.respond p 0x0B01 []
    else if leAt b 8 8 < 6400 then s.respond p 0x0B04 []
    else if s.mgmt.session.isSome || (c.act.st == slotTRIAL || !(o == slotEMPTY || (o == slotSTAGED || (o == slotREJECTED
        || (o == slotRETIRED || o == slotINVALID))))) then s.respond p 0x0B0A []
    else
      let s1 := s.setFw k (c.setSlot (1 - c.active) ⟨slotSTAGING, false, leAt b 8 8, []⟩)
      { s1 with mgmt := { s1.mgmt with session := some (k, leAt b 8 8) } }.respond p 0 []))

/-- FW_DATA (R490): bytes in any order, below IMAGE_BYTES. -/
def execFwData (q : MgmtReq) (s : State) : Host.Outcome State Fault Refusal :=
  .next (s.request 0x11 q (fun n => decide (9 ≤ n) && decide (n ≤ 8192)) 0x0B01 (fun s p b =>
    match s.mgmt.session with
    | none => s.respond p 0x0B0A []
    | some (k, n) =>
      let off := leAt b 0 8
      let c := s.fw k
      let x := c.other
      if n < off + (b.length - 8) then s.respond p 0x0B01 []
      else (s.setFw k (c.setSlot (1 - c.active) { x with image := Mem.write x.image off (b.drop 8) })).respond p 0 []))

/-- FW_END (R494): a failed check leaves the slot EMPTY, a pass STAGED. -/
def execFwEnd (q : MgmtReq) (s : State) : Host.Outcome State Fault Refusal :=
  .next (s.request 0x12 q (fun n => n == 0) 0x0B01 (fun s p _ =>
    match s.mgmt.session with
    | none => s.respond p 0x0B0A []
    | some (k, _) =>
      let c := s.fw k
      let x := c.other
      let code := s.fwCheck k x true
      let s1 := s.setFw k (c.setSlot (1 - c.active) (if code = 0 then { x with st := slotSTAGED } else .empty))
      { s1 with mgmt := { s1.mgmt with session := none } }.respond p code []))

/-- FW_SESSION_TIMEOUT (R489): 60 s without FW_DATA. -/
def execFwSessionTimeout (s : State) : Host.Outcome State Fault Refusal := .next s.fwClose

/-! ### Activation, trial, confirmation (R495 to R498) -/

/-- A record of a firmware event. -/
def State.fwEvent (s : State) (code sev : Nat) : State := s.event code sev srcMgmt 0 []

/-- An I/O die reset by the controller, once the dies are up. -/
def State.ioRestart (s : State) : State := if s.ready then (s.resetIo s.loading).bringUp else s

/-- Starts a service pause: 0 and 1 activate MGT and IOD, 2 and 3 follow their fall-backs. The range of R495 reads from now on as it stands. -/
def State.startPause (s : State) (k : Nat) (p : Option MgmtPath) : State :=
  { s with mgmt := { s.mgmt with pause := some (k, p), frozen := s.regs.filter (fun e => decide (0x400000 ≤ e.1) && decide (e.1 < 0x500000)) } }

/-- The old slot becomes active again and the TRIAL slot REJECTED (R497). -/
def State.fwRevert (s : State) (k : Nat) : State :=
  let c := s.fw k
  ((s.setFw k { c.setSlot c.active { c.act with st := slotREJECTED } with active := 1 - c.active, starts := 0, selftest := true }).cfgRetire k).fwEvent
    0x0B0E sevERROR

/-- A fall-back with its service pause; that of IOD is an I/O die reset. -/
def State.fallBack (s : State) (k : Nat) (p : Option MgmtPath) : State :=
  let s1 := (s.fwRevert k).startPause (k + 2) p
  if k = 1 then s1.ioRestart else s1

/-- The boot ROM verifies the active slot of component k (R498): whether a slot starts. -/
def State.bootSlot (s : State) (k : Nat) : State × Bool :=
  let c := s.fw k
  let o := c.other
  if s.fwCheck k c.act false = 0 then (s, true)
  else
    let c1 := c.setSlot c.active { c.act with st := slotINVALID }
    if o.st = slotCONFIRMED ∨ (o.st = slotSTAGED ∧ c.floor ≤ o.sv) then
      (((s.setFw k { c1.setSlot (1 - c.active) { o with st := slotCONFIRMED } with active := 1 - c.active, starts := 0 }).cfgRetire k).fwEvent
        0x0B0E sevERROR, true)
    else ((s.setFw k c1).fwEvent 0x0B0F sevFATAL, false)

/-- A start of component k's firmware: a TRIAL slot runs its self-test at its first start, and falls back at its third (R496, R497,
R502). Whether it falls back. -/
def State.startFw (s : State) (k : Nat) (selfTest : Bool) : State × Bool :=
  let c := s.fw k
  if c.act.st ≠ slotTRIAL then (s.setFw k { c with selftest := true }, false)
  else
    let n := c.starts + 1
    let s1 := s.setFw k { c with starts := n, selftest := if n = 1 then selfTest else c.selftest }
    let s2 := if n = 1 ∧ k = 0 then s1.cfgCopy else s1
    (s2, decide (3 ≤ n) || !((s2.fw k).selftest))

/-- A restart of the controller closes the session and leaves no slot in STAGING (R489). -/
def State.mgmtRestart (s : State) : State :=
  let s1 := s.fwClose
  [0, 1].foldl (fun s k =>
    let c := s.fw k
    if c.other.st = slotSTAGING then s.setFw k (c.setSlot (1 - c.active) .empty) else s) s1

/-- FW_ACTIVATE (R495). -/
def execFwActivate (q : MgmtReq) (s : State) : Host.Outcome State Fault Refusal :=
  .next (s.request 0x13 q (fun n => n == 1) 0x0B01 (fun s p b =>
    let k := leAt b 0 1
    let c := s.fw k
    if 1 < k then s.respond p 0x0B01 []
    else if c.other.st ≠ slotSTAGED ∨ c.other.sv < c.floor ∨ c.act.st ≠ slotCONFIRMED
        ∨ (k = 1 ∧ (s.jobState ≠ jobEMPTY ∨ s.filling = true)) then s.respond p 0x0B0A []
    else
      let s1 := s.startPause k (some p)
      if k = 1 then s1.ioRestart else s1))

/-- SERVICE_PAUSE_END (R495 to R498): the new slot enters TRIAL and starts, `selfTest` being the outcome of its self-test; after a
fall-back the old firmware has started again. The requester is answered. -/
def execServicePauseEnd (selfTest : Bool) (s : State) : Host.Outcome State Fault Refusal :=
  match s.mgmt.pause with
  | none => .next s
  | some (kind, path) =>
    let k := kind % 2
    let s1 := { s with mgmt := { s.mgmt with pause := none } }
    let s2 := if k = 0 then s1.mgmtRestart else s1
    let c := s2.fw k
    let s3 := if kind < 2 then
        (s2.setFw k { c.setSlot (1 - c.active) { c.other with st := slotTRIAL } with active := 1 - c.active, starts := 0, selftest := false }).fwEvent
          0x0B0C sevINFO
      else s2
    let s4 := (s3.bootSlot k).1
    let x := s4.startFw k selfTest
    let s5 := match path with
      | none => x.1
      | some p => x.1.respond p 0 []
    .next (if x.2 then s5.fallBack k none else s5)

/-- Confirms a TRIAL slot (R496). -/
def State.fwConfirm (s : State) (k : Nat) : State :=
  let c := s.fw k
  let floor := max c.floor c.act.sv
  let o := c.other
  let c1 := (c.setSlot c.active { c.act with st := slotCONFIRMED }).setSlot (1 - c.active)
    { o with st := if o.sv < floor then slotRETIRED else slotSTAGED }
  ((s.setFw k { c1 with floor := floor, starts := 0 }).cfgRetire k).fwEvent 0x0B0D sevINFO

/-- FW_CONFIRM (R496). -/
def execFwConfirm (q : MgmtReq) (s : State) : Host.Outcome State Fault Refusal :=
  .next (s.request 0x14 q (fun n => n == 1) 0x0B01 (fun s p b =>
    let k := leAt b 0 1
    if 1 < k then s.respond p 0x0B01 []
    else if (s.fw k).act.st ≠ slotTRIAL ∨ (s.fw k).selftest = false then s.respond p 0x0B0A []
    else (s.fwConfirm k).respond p 0 []))

/-- FW_REJECT (R497): answered after the service pause. -/
def execFwReject (q : MgmtReq) (s : State) : Host.Outcome State Fault Refusal :=
  .next (s.request 0x15 q (fun n => n == 1) 0x0B01 (fun s p b =>
    let k := leAt b 0 1
    if 1 < k then s.respond p 0x0B01 []
    else if (s.fw k).act.st ≠ slotTRIAL ∨ (k = 1 ∧ (s.jobState ≠ jobEMPTY ∨ s.filling = true)) then s.respond p 0x0B0A []
    else s.fallBack k (some p)))

/-- FW_TRIAL_TIMER (R496): component k has run 600 s without a restart. -/
def execFwTrialTimer (k : Fin 2) (s : State) : Host.Outcome State Fault Refusal :=
  let c := s.fw k.val
  if s.mgmtUp && (c.act.st == slotTRIAL && c.selftest) then .next (s.fwConfirm k.val) else .next s

/-- FW_WATCHDOG (R489, R497): a watchdog restarts component k's firmware. A TRIAL slot falls back; a restart of the controller closes the session. -/
def execFwWatchdog (k : Fin 2) (s : State) : Host.Outcome State Fault Refusal :=
  if !s.mgmtUp || s.mgmt.pause.isSome then .next s
  else if (s.fw k.val).act.st = slotTRIAL then .next (s.fallBack k.val none)
  else .next (if k.val = 0 then s.mgmtRestart else s)

/-! ### Events, settings and clock (R501, R504, R509) -/

/-- EVT_POST (R509). -/
def execEvtPost (q : MgmtReq) (s : State) : Host.Outcome State Fault Refusal :=
  .next (s.request 0x20 q (fun n => n == 28) 0x0B01 (fun s p b =>
    let code := leAt b 0 2
    if 6 < leAt b 2 1 ∨ zeroAt b 3 1 = false ∨ zeroAt b 6 2 = false then s.respond p 0x0B01 []
    else
      let n := s.recorder.nextSeq
      let s1 := s.eventRaw code (leAt b 2 1) srcMgmt (leAt b 4 2) true s.evtMove (b.drop 8)
      (if code = 0x0903 then s1.setFld Reg.netResStatus 0 0 1 else s1).respond p 0 (leBytes 8 n)))

/-- A reserved settings key (R501). -/
def cfgReserved (key : Nat) : Bool := key == 0 || (decide (4 ≤ key) && decide (key < 0x8000))

/-- CFG_GET (R490): a key without a value answers LENGTH 0 (log entry 29). -/
def execCfgGet (q : MgmtReq) (s : State) : Host.Outcome State Fault Refusal :=
  .next (s.request 0x30 q (fun n => n == 2) 0x0B01 (fun s p b =>
    let key := leAt b 0 2
    let v := (s.cfgValue key).getD []
    if cfgReserved key then s.respond p 0x0B10 []
    else s.respond p 0 (leBytes 1 (s.cfgFormat key) ++ (leBytes 1 0 ++ (leBytes 2 v.length ++ v)))))

/-- CFG_SET (R501, R502): EVT_CTL takes effect at once. -/
def execCfgSet (q : MgmtReq) (s : State) : Host.Outcome State Fault Refusal :=
  .next (s.request 0x31 q (fun n => decide (9 ≤ n) && decide (n ≤ 8 + 4096)) 0x0B01 (fun s p b =>
    let key := leAt b 0 2
    let v := b.drop 8
    if zeroAt b 2 2 = false ∨ zeroAt b 6 2 = false ∨ leAt b 4 2 ≠ v.length then s.respond p 0x0B01 []
    else if cfgReserved key || (!cfgValueOk key v || (decide (0x8000 ≤ key) && decide (2 ^ 21 < s.mgmt.half.ownerBytes key v.length))) then
      s.respond p 0x0B10 []
    else
      let s1 := s.cfgWrite key (some v)
      (if key = 1 then s1.applyEvtCtl else s1).respond p 0 []))

/-- CFG_DELETE (R501). -/
def execCfgDelete (q : MgmtReq) (s : State) : Host.Outcome State Fault Refusal :=
  .next (s.request 0x32 q (fun n => n == 2) 0x0B01 (fun s p b =>
    if cfgReserved (leAt b 0 2) then s.respond p 0x0B10 [] else (s.cfgWrite (leAt b 0 2) none).respond p 0 []))

/-- Sets the module clock (R504). -/
def State.setTime (s : State) (v : Nat) : State :=
  let old := s.reg Reg.mgtTime
  ((s.setReg Reg.mgtTime v).setFld Reg.mgtTimeStatus 0 0 1).event 0x0B15 sevINFO srcMgmt 0 [it8 old, it8 v]

/-- TIME_GET (R490). -/
def execTimeGet (q : MgmtReq) (s : State) : Host.Outcome State Fault Refusal :=
  .next (s.request 0x50 q (fun n => n == 0) 0x0B01 (fun s p _ =>
    s.respond p 0 (leBytes 8 (s.reg Reg.mgtTime) ++ leBytes 1 (s.fld Reg.mgtTimeStatus 0 0))))

/-- TIME_SET (R504). -/
def execTimeSet (q : MgmtReq) (s : State) : Host.Outcome State Fault Refusal :=
  .next (s.request 0x51 q (fun n => n == 8) 0x0B01 (fun s p b => (s.setTime (leAt b 0 8)).respond p 0 []))

/-- MGT_TIME_WRITE (R504): discarded during a service pause of MGT. -/
def execMgtTimeWrite (value : Nat) (s : State) : Host.Outcome State Fault Refusal :=
  if s.pauseMgt then .next s else .next (s.setTime (value % 2 ^ 64))

/-! ### Meter readings (R513) -/

/-- Bytes 0 to 127 of a reading. -/
def State.reading (s : State) (nonce : List Byte) : List Byte :=
  [0x4E, 0x4D, 0x54, 0x52] ++ (leBytes 2 1 ++ (leBytes 2 0 ++ (leBytes 8 Config.meterId.toNat ++ (leBytes 8 Config.uid.toNat
    ++ (leBytes 8 s.meter.readingSeq ++ (leBytes 8 s.meter.seconds ++ (leBytes 8 s.utcSeconds ++ (leBytes 8 (s.reg Reg.mtrEnergy)
    ++ (leBytes 8 (s.reg Reg.mtrPasses) ++ (leBytes 8 (s.reg Reg.mtrSteps) ++ (leBytes 8 (s.reg Reg.mtrUpdates) ++ (nonce
    ++ (leBytes 4 (s.reg Reg.mtrStatus) ++ List.replicate 12 0)))))))))))))

/-- MTR_READ (R513): a wrong LENGTH is answered 0x0C04. -/
def execMtrRead (q : MgmtReq) (s : State) : Host.Outcome State Fault Refusal :=
  .next (s.request 0x40 q (fun n => n == 32) 0x0C04 (fun s p b =>
    let s1 := { s with meter := { s.meter with readingSeq := s.meter.readingSeq + 1 } }
    s1.respond p 0 (s1.reading b ++ signed4627 1 (s1.reading b))))

/-! ### MCTP control commands (R488; their messages are those of DSP0236: PRESUMED, log entry 28) -/

/-- The answer to an MCTP control command: message type 0, the instance, the command, completion code 0 and its data. -/
def State.mctpControl (s : State) (inst cmd : Nat) (data : List Byte) : State :=
  s.send (.mctp ([0, Byte.of (inst % 32), Byte.of cmd, 0] ++ data))

/-- SET_ENDPOINT_ID: operation 0 sets, 1 forces; a static endpoint ID (settings key 0x0002) admits no assignment. -/
def execSetEndpointId (inst op eid : Nat) (s : State) : Host.Outcome State Fault Refusal :=
  if !s.mgmtUp then .next s
  else
    let static := match s.cfgValue 2 with
      | none => false
      | some v => leNat v != 0
    let ok := !static && (decide (op ≤ 1) && (decide (8 ≤ eid) && decide (eid ≤ 254)))
    let s1 := if ok then { s with mgmt := { s.mgmt with eid := eid } } else s
    .next (s1.mctpControl inst 1 [Byte.of (if ok then 0 else 16), Byte.of s1.mgmt.eid, 0])

/-- GET_ENDPOINT_ID. -/
def execGetEndpointId (inst : Nat) (s : State) : Host.Outcome State Fault Refusal :=
  if !s.mgmtUp then .next s else .next (s.mctpControl inst 2 [Byte.of s.mgmt.eid, 0, 0])

/-- GET_MCTP_VERSION_SUPPORT: one version, which the spec does not name: a free value (log entry 28). -/
def execGetMctpVersionSupport (inst : Nat) (s : State) : Host.Outcome State Fault Refusal :=
  if !s.mgmtUp then .next s else .next (s.useFree.mctpControl inst 4 (Byte.of 1 :: leBytes 4 s.freeValue))

/-- GET_MESSAGE_TYPE_SUPPORT: Vendor Defined – PCI. -/
def execGetMessageTypeSupport (inst : Nat) (s : State) : Host.Outcome State Fault Refusal :=
  if !s.mgmtUp then .next s else .next (s.mctpControl inst 5 [1, 0x7E])

end Sys2Proof.Machine
end

