-- ==== Sys2Proof/Machine/Power.lean ====
section
/-! DEFINITION. The sealed meter (R510 to R514), the power manager with its sensors (R524 to R531), and power-on (R483, R487). -/

namespace Sys2Proof.Machine

/-! ### The meter (R510 to R512, R514) -/

/-- A record of the meter, which it also keeps in its own log of 1,024 entries. -/
def State.meterEvent (s : State) (code sev : Nat) : State :=
  let s1 := s.event code sev srcMeter 0 []
  { s1 with meter := { s1.meter with log := (⟨code, s1.meter.seconds⟩ :: s1.meter.log).take 1024 } }

/-- METER_SAMPLE (R511): a voltage in mV and a current in mA, which stand for 20 µs. -/
def execMeterSample (mv ma : Nat) (s : State) : Host.Outcome State Fault Refusal :=
  let pj := s.meter.picojoules + mv * ma * 20
  let out := decide (4000 * 10 ^ 6 < mv * ma) || (decide (mv < 40000) || decide (60000 < mv))
  .next { s.setReg Reg.mtrEnergy (s.reg Reg.mtrEnergy + pj / 10 ^ 9) with
    meter := { s.meter with picojoules := pj % 10 ^ 9, range := s.meter.range || out } }

/-- METER_SECOND (R511, R514): the mean power of the second in mW is its energy in mJ. -/
def execMeterSecond (s : State) : Host.Outcome State Fault Refusal :=
  let m := s.meter
  let s1 := (s.setReg Reg.mtrPower (s.reg Reg.mtrEnergy - m.secondStart)).setFld Reg.mtrStatus 2 2 (b2n m.range)
  let due := m.range && m.rangeWait == 0
  let s2 := { s1 with meter := { m with
    seconds := m.seconds + 1
    range := false
    rangeWait := if due then 59 else m.rangeWait - 1
    secondStart := s.reg Reg.mtrEnergy } }
  .next (if due then s2.meterEvent 0x0C02 sevNOTICE else s2)

/-- METER_WORK_MESSAGE (R512): the message of the last tick arrives; `ok` when its CRC holds. -/
def execMeterWorkMessage (ok : Bool) (s : State) : Host.Outcome State Fault Refusal :=
  if !ok then .next s
  else
    let m := s.meter
    let base := if m.run = m.lastRun then (m.lastPasses, m.lastSteps, m.lastUpdates) else (0, 0, 0)
    let s1 := ((s.setReg Reg.mtrPasses (s.reg Reg.mtrPasses + (m.passes - base.1))).setReg Reg.mtrSteps
      (s.reg Reg.mtrSteps + (m.steps - base.2.1))).setReg Reg.mtrUpdates (s.reg Reg.mtrUpdates + (m.updates - base.2.2))
    .next ({ s1 with meter := { m with lastRun := m.run, lastPasses := m.passes, lastSteps := m.steps, lastUpdates := m.updates } }.setFld
      Reg.mtrStatus 3 3 0)

/-- METER_LINK_TIMEOUT (R512): no valid message for 1 s while a job runs. -/
def execMeterLinkTimeout (s : State) : Host.Outcome State Fault Refusal :=
  if !s.running || isBit (s.reg Reg.mtrStatus) 3 then .next s
  else .next ((s.setFld Reg.mtrStatus 3 3 1).meterEvent 0x0C03 sevWARNING)

/-- METER_TAMPER (R510). -/
def execMeterTamper (s : State) : Host.Outcome State Fault Refusal :=
  if isBit (s.reg Reg.mtrStatus) 1 then .next s else .next ((s.setFld Reg.mtrStatus 1 1 1).meterEvent 0x0C01 sevERROR)

/-- METER_SELFCHECK_FAIL (R514). -/
def execMeterSelfcheckFail (s : State) : Host.Outcome State Fault Refusal :=
  if isBit (s.reg Reg.mtrStatus) 4 then .next s else .next ((s.setFld Reg.mtrStatus 4 4 1).meterEvent 0x0C05 sevERROR)

/-! ### ACLK (R526, R535) -/

/-- The loops' targets as levels, with CAP_STEP first: the order of the LIMITER bits. -/
def State.targets (s : State) : List Nat :=
  [s.fld Reg.mgtPwrCtl 27 24, s.power.peak, s.power.fast, s.power.slow, s.power.thermal, s.power.coolant, s.power.voltage]

/-- ACLK is the least of the targets: LEVEL, the loops that govern it, and the steps counted. -/
def State.relevel (s : State) : State :=
  let n := s.targets.foldl min 10
  let old := s.fld Reg.mgtPwrStatus 31 28
  let lim := ((List.range 7).map (fun i => if s.targets.getD i 10 = n ∧ n < 10 then 2 ^ i else 0)).foldl (· + ·) 0
  let s1 := (s.setFld Reg.mgtPwrStatus 31 28 n).setFld Reg.mgtPwrStatus 22 16 lim
  if n < old then s1.count (Reg.mgtPwrCount 0) 1 else if old < n then s1.count (Reg.mgtPwrCount 1) 1 else s1

/-- Changes the power manager and follows with ACLK. -/
def State.modPower (s : State) (f : Power → Power) : State := { s with power := f s.power }.relevel

/-- A standing condition of MGT_PWR_STATUS.COND. -/
def State.cond (s : State) (i : Nat) (on : Bool) : State := s.setFld Reg.mgtPwrStatus i i (b2n on)

/-- A record of the power manager. -/
def State.powerEvent (s : State) (code sev : Nat) : State := s.event code sev srcDevice 0 []

/-- Stop condition `i` begins or ends (R528): it stops a running job; once none stands, bit 7 of COND clears. -/
def State.stopCond (s : State) (i : Nat) (on : Bool) : State :=
  let s1 := { s with power := { s.power with stops := setBits s.power.stops i i (b2n on) } }
  if on && !isBit s.power.stops i then
    if s1.running then { s1 with job := { s1.job with stopPower := true } }.count (Reg.mgtPwrCount 3) 1 else s1
  else if s1.power.stops = 0 then s1.cond 7 false else s1

/-- POWER_PEAK (R526): the 100 µs mean exceeds 3,600 W. -/
def execPowerPeak (s : State) : Host.Outcome State Fault Refusal :=
  .next (((s.count (Reg.mgtPwrCount 2) 1).modPower (fun p => { p with peak := 0 })).powerEvent 0x0D03 sevNOTICE)

/-- POWER_FAST (R526): a 1 ms mean of `w` watts. -/
def execPowerFast (w : Nat) (s : State) : Host.Outcome State Fault Refusal :=
  let excess := decide (3200 < w)
  let s1 := (s.setFld Reg.mgtPwrStatus 63 48 w).count (Reg.mgtPwrCount 6) (b2n excess)
  let p := s.power
  if !excess then
    .next ((({ s1 with power := { p with fastMs := 0, fastStage := 0 } }).cond 1 false).stopCond 1 false)
  else if p.fastStage = 0 then
    if p.fastMs + 1 < 8 then .next { s1 with power := { p with fastMs := p.fastMs + 1 } }
    else .next (s1.modPower (fun p => { p with fastMs := 0, fastStage := 1, fast := p.fast - 2 }))
  else if p.fastStage = 1 then .next (s1.modPower (fun p => { p with fastStage := 2, fast := 0 }))
  else if p.fastStage = 2 then
    .next ((({ s1 with power := { p with fastStage := 3 } }.cond 1 true).powerEvent 0x0D04 sevCRITICAL).stopCond 1 true)
  else .next s1

/-- POWER_SLOW (R526): a 1 s mean of `w` watts; it also ages the trips of R531. -/
def execPowerSlow (w : Nat) (s : State) : Host.Outcome State Fault Refusal :=
  let limit := s.fld Reg.mgtPwrCtl 11 0
  .next (s.modPower (fun p => { p with
    slow := if limit < w then p.slow - 1 else p.slow
    lowSeconds := if w * 100 < limit * 95 then p.lowSeconds + 1 else 0
    trips := (p.trips.map (· + 1)).filter (fun t => decide (t < 86400)) }))

/-- POWER_RAISE (R526): five seconds below 0.95 × LIMIT_W. -/
def execPowerRaise (s : State) : Host.Outcome State Fault Refusal :=
  if s.power.lowSeconds < 5 then .next s
  else .next (s.modPower (fun p => { p with
    lowSeconds := 0, peak := min 10 (p.peak + 1), fast := min 10 (p.fast + 1), slow := min 10 (p.slow + 1) }))

/-- CLOCK_REDUCED_NOTICE (R526): the level and the LIMITER bits. -/
def execClockReducedNotice (s : State) : Host.Outcome State Fault Refusal :=
  let n := s.fld Reg.mgtPwrStatus 31 28
  if n < s.fld Reg.mgtPwrCtl 27 24 then
    .next (s.event 0x0D05 sevNOTICE srcDevice 0 [itN 1 n, itN 1 (s.fld Reg.mgtPwrStatus 22 16)])
  else .next s

/-! ### Sensors (R530) -/

/-- Signed reading of a sensor in 1/16 °C. -/
def tempOf (t : Nat) : Int := signed 16 t

/-- The bitmap of sensors whose threshold stands: `deg` °C for sensors 0 to 20, `inlet` for 21; each clears 5 °C below. -/
def overMap (temps : List (Option Nat)) (old : Nat) (deg inlet : Int) : Nat :=
  ((List.range 22).map (fun i =>
    let lim := (if i < 21 then deg else inlet) * 16
    match temps.getD i none with
    | none => if isBit old i then 2 ^ i else 0
    | some t => if lim < tempOf t ∨ (isBit old i = true ∧ lim - 80 < tempOf t) then 2 ^ i else 0)).foldl (· + ·) 0

/-- Whether a flow threshold stands: below `ml`, clearing 500 mL/min above it. -/
def lowMap (flow : Option Nat) (old : Bool) (ml : Nat) : Bool :=
  match flow with
  | none => old
  | some f => decide (f < ml) || (old && decide (f < ml + 500))

/-- Sensors 0 to 20 of a bitmap, and the coolant's: inlet and flow. -/
def hotBits (m : Nat) : Nat := m % 2 ^ 21
def coolBits (m : Nat) : Nat := m / 2 ^ 21

/-- A code is recorded once when its condition begins. -/
def State.began (s : State) (old new code sev : Nat) : State := if old = 0 ∧ new ≠ 0 then s.powerEvent code sev else s

/-- Every junction and stack lies 5 °C below its throttle point. -/
def allCool (temps : List (Option Nat)) : Bool :=
  (List.range 21).all (fun i => match temps.getD i none with
    | none => true
    | some t => decide (tempOf t ≤ 90 * 16))

/-- The register values of the readings; refresh doubles above 85 °C (R249, R256, R281, R535). -/
def State.showSensors (s : State) (x : Sensors) : State :=
  let s1 := (List.range 23).foldl (fun s i =>
    s.setReg (Reg.mgtTemp i) (match x.temps.getD i none with
      | none => 0
      | some t => 2 ^ 31 + t % 2 ^ 16)) s
  let s2 := s1.setReg Reg.mgtFlow (match x.flow with
    | none => 0
    | some f => 2 ^ 31 + f % 2 ^ 16)
  (List.range 16).foldl (fun s k => match x.temps.getD (5 + k) none with
    | none => s
    | some t => (s.setFld (Reg.hbmStatus k) 31 24 (unsigned 8 (tempOf t / 16))).setFld (Reg.hbmStatus k) 9 9 (b2n (decide (85 * 16 < tempOf t)))) s2

/-- SENSOR_POLL (R530), every 10 ms. -/
def execSensorPoll (x : Sensors) (s : State) : Host.Outcome State Fault Refusal :=
  let p := s.power
  let warn := overMap x.temps p.warn 90 40 + 2 ^ 23 * b2n (lowMap x.flow (isBit p.warn 23) 3000)
  let thr := overMap x.temps p.throttle 95 45 + 2 ^ 23 * b2n (lowMap x.flow (isBit p.throttle 23) 2000)
  let low := match x.flow with
    | none => p.lowFlow
    | some f => if f < 1000 then p.lowFlow + 1 else if lowMap x.flow (isBit p.stopAt 23) 1000 then p.lowFlow else 0
  let stp := overMap x.temps p.stopAt 105 55 + 2 ^ 23 * b2n (decide (100 ≤ low))
  let rise := hotBits thr == 0 && allCool x.temps
  let s1 := (s.showSensors x).modPower (fun p => { p with
    warn := warn, throttle := thr, stopAt := stp, lowFlow := low
    cool := if rise then (p.cool + 1) % 100 else 0
    thermal := if hotBits thr ≠ 0 then p.thermal - 1 else if rise && p.cool == 99 then min 10 (p.thermal + 1) else p.thermal
    coolant := if isBit thr 23 then 0 else if isBit thr 21 then 4 else 10 })
  let s2 := (((s1.began (hotBits p.warn) (hotBits warn) 0x0D06 sevWARNING).began (coolBits p.warn) (coolBits warn) 0x0D09 sevWARNING).began
    (hotBits p.stopAt) (hotBits stp) 0x0D07 sevCRITICAL).began (coolBits p.stopAt) (coolBits stp) 0x0D0A sevCRITICAL
  let s3 := (((s2.cond 2 (hotBits warn != 0)).cond 3 (hotBits stp != 0)).cond 4 (coolBits warn != 0)).cond 5 (coolBits stp != 0)
  .next ((s3.stopCond 2 (hotBits stp != 0)).stopCond 3 (coolBits stp != 0))

/-! ### Clocks (R524) -/

/-- MOD_READY follows. -/
def State.setModReady (s : State) (on : Bool) : State :=
  if s.mgmt.modReady = on then s else { s with mgmt := { s.mgmt with modReady := on } }.send (.modReady on)

/-- MCLK and FCLK as checked: a clock that fails is recorded; without MCLK, MOD_READY is withheld; without FCLK, ports stay DOWN. -/
def State.clocks (s : State) (mclk fclk : Bool) : State :=
  let fails := b2n (!mclk && !s.mgmt.mclkBad) + b2n (!fclk && !s.mgmt.fclkBad)
  let s1 := (List.range fails).foldl (fun s _ => (s.count (Reg.mgtPwrCount 7) 1).powerEvent 0x0D0C sevERROR) s
  let s2 := { s1 with mgmt := { s1.mgmt with mclkBad := !mclk, fclkBad := !fclk } }.cond 6 (!mclk || !fclk)
  if fclk then s2
  else (List.range 8).foldl (fun s p =>
    if s.portSt p ≤ portDOWN then s else ((s.setPort p .reset).setPortSt p portDOWN).cause 6) s2

/-- REFCLK_CHECK (R524), once a second. -/
def execRefclkCheck (mclk fclk : Bool) (s : State) : Host.Outcome State Fault Refusal :=
  if !s.mgmtUp then .next s
  else
    let s1 := s.clocks mclk fclk
    .next (if mclk then (if s.mgmt.mclkBad && s.power.on then s1.setModReady true else s1) else s1.setModReady false)

/-! ### Power on and off (R483, R487, R525, R531) -/

/-- Registers of the management range and the meter window. -/
def standbyReg (k : Nat) : Bool := decide (0x400000 ≤ k) && decide (k < 0x510000)

/-- Dies, I/O die and HBM lose power: everything but flash, the controller, the meter, the power manager and the host is lost. -/
def State.powerOff (s : State) : State :=
  { State.reset with
    pending := s.pending
    small := s.small
    freeCtr := s.freeCtr
    regs := s.regs.filter (fun e => standbyReg e.1)
    rises := s.rises.filter (fun e => standbyReg e.1)
    recorder := s.recorder
    hostMem := s.hostMem
    repair0 := s.repair0
    repair1 := s.repair1
    repairsDue := s.repairsDue
    flash := s.flash
    mgmt := s.mgmt
    meter := s.meter
    power := { s.power with on := false }
    sent := s.sent }.setModReady false

/-- The validity of the flash slots, from their headers and trailers (R462). -/
def State.flashSlots (s : State) : State :=
  [0, 1].foldl (fun s i =>
    let n := Mem.le s.flash (i * 2 ^ 41 + 16) 4
    s.setReg (Reg.netSnapSlot (3 + i)) (n * 2 ^ 32 + b2n (headsOk s.flash (seqBases s.flash (i * 2 ^ 41)) n))) s

/-- Step 2 of R483: the I/O die and its microcode start, and MOD_READY is asserted unless MCLK is absent. -/
def State.powerUp (s : State) (iodTest : Bool) : State :=
  let b := s.bootSlot 1
  let x := b.1.startFw 1 iodTest
  let s1 := if x.2 then x.1.fwRevert 1 else x.1
  let s2 := ({ s1 with
    power := { s1.power with on := true, faulted := false, tripped := false }
    meter := { s1.meter with run := s1.meter.run + 1, passes := 0, steps := 0, updates := 0 } }.applyPortCtl).flashSlots
  if b.2 && !s2.mgmt.mclkBad then s2.setModReady true else s2

/-- POWER_ON (R483 steps 1 and 2, R487, R504, R535): 48 V is applied within 40 to 60 V. -/
def execPowerOn (x : PowerOn) (s : State) : Host.Outcome State Fault Refusal :=
  if s.mgmt.running || !(decide (40000 ≤ x.mv) && decide (x.mv ≤ 60000)) then .next s
  else
    let held := match x.clock with
      | none => none
      | some t => if s.fld Reg.mgtTimeStatus 0 0 = 1 then some (s.reg Reg.mgtTime + t) else none
    let s0 := s.powerOff.resetRegs (fun k => decide (0x400100 ≤ k) && (decide (k < 0x500000) && k != Reg.evtHead))
    let s1 := { s0 with
      repairsDue := []
      repair0 := { s0.repair0 with valid := s0.repair0.valid && !isBit x.badCopies 0 }
      repair1 := { s0.repair1 with valid := s0.repair1.valid && !isBit x.badCopies 1 }
      power := { Power.reset with trips := s.power.trips }
      mgmt := { s0.mgmt with running := true, pause := none, mboxBuf := [], mboxBusy := false, eid := 0, mclkBad := false, fclkBad := false } }
    let s2 := (s1.setFld Reg.mgtPwrStatus 47 32 x.mv).setFld Reg.mtrStatus 0 0 1
    let s3 := match held with
      | some t => s2.setReg Reg.mgtTime t
      | none => ((s2.setReg Reg.mgtTime 0).setReg Reg.mgtTimeStatus 0).event 0x0B14 sevNOTICE srcMgmt 0 []
    let b := s3.mgmtRestart.bootSlot 0
    if !b.2 then .next { b.1 with mgmt := { b.1.mgmt with running := false } }
    else
      let y := b.1.startFw 0 x.mgtTest
      let s4 := if y.2 then y.1.fwRevert 0 else y.1
      .next ((((s4.clocks x.mclk x.fclk).cfgOpen x.badRecords).applyEvtCtl.applyEid).powerUp x.iodTest)

/-- INPUT_VOLTAGE_CHANGE (R525): the input stands at `mv`, outside 38 to 63 V for at least 50 µs. The standby rail holds from 34 V to
63 V. -/
def execInputVoltageChange (mv : Nat) (s : State) : Host.Outcome State Fault Refusal :=
  let s1 := s.setFld Reg.mgtPwrStatus 47 32 mv
  if mv < 38000 ∨ 63000 < mv then
    let s2 := if s.power.on then ((s1.count (Reg.mgtPwrCount 5) 1).powerEvent 0x0D02 sevCRITICAL).powerOff else s1.setModReady false
    let s3 := { s2 with power := { s2.power with faulted := s2.power.faulted || s.power.on } }
    if mv < 34000 ∨ 63000 < mv then .next { s3 with mgmt := { s3.mgmt with running := false, pause := none } } else .next s3
  else if mv < 40000 ∨ 60000 < mv then
    let s2 := (s1.modPower (fun p => { p with voltage := 0 })).cond 0 true
    .next (if isBit (s.reg Reg.mgtPwrStatus) 0 then s2 else s2.powerEvent 0x0D01 sevWARNING)
  else .next (((s1.modPower (fun p => { p with voltage := 10 })).cond 0 false).stopCond 0 false)

/-- INPUT_MARGIN_TIMEOUT (R525): 100 ms in the margin band. -/
def execInputMarginTimeout (s : State) : Host.Outcome State Fault Refusal :=
  if isBit (s.reg Reg.mgtPwrStatus) 0 then .next (s.stopCond 0 true) else .next s

/-- INPUT_RESTORED (R525): after an input fault, the input has stood within 40 to 60 V for 1 s; the controller is still up. -/
def execInputRestored (iodTest : Bool) (s : State) : Host.Outcome State Fault Refusal :=
  let mv := s.fld Reg.mgtPwrStatus 47 32
  if !s.mgmtUp || (!s.power.faulted || (s.power.on || (s.power.tripped || !(decide (40000 ≤ mv) && decide (mv ≤ 60000))))) then .next s
  else .next (s.powerUp iodTest)

/-- THERMAL_TRIP (R531): the third within 24 h is FATAL, and power then stays off. -/
def execThermalTrip (s : State) : Host.Outcome State Fault Refusal :=
  if !s.power.on then .next s
  else
    let n := s.power.trips.length + 1
    let s1 := ((s.count (Reg.mgtPwrCount 4) 1).powerEvent 0x0D08 (if 3 ≤ n then sevFATAL else sevCRITICAL)).powerOff
    .next ({ s1 with power := { s1.power with trips := 0 :: s.power.trips, tripped := true, locked := decide (3 ≤ n) } }.send (.thermtrip true))

/-- TRIP_RECOVERY (R531): every sensor has read below 60 °C for 10 s; THERMTRIP# ends as the compute rails return. -/
def execTripRecovery (iodTest : Bool) (s : State) : Host.Outcome State Fault Refusal :=
  if !s.mgmtUp || (!s.power.tripped || s.power.locked) then .next s
  else .next ((s.powerUp iodTest).send (.thermtrip false))

/-! ### Time with nothing commanded -/

/-- A microsecond passes in which no command arrives (log entry 1): the module clock counts while the controller runs (R504), and stacks whose
training was under way are found filling (R483 step 4). -/
def State.idleClock (s : State) : State :=
  (if s.mgmt.running then s.setReg Reg.mgtTime ((s.reg Reg.mgtTime + 1) % 2 ^ 64) else s).fillStage

end Sys2Proof.Machine
end

