-- ==== Sys2Proof/Machine/Regs.lean ====
section
/-! DEFINITION. Host accesses to registers through BAR0 (R9 to R15, R469, R470): what a register reads as, the write of a register
without a row of its own, what a write does at a register that has one, and the clear registers (R68). -/

namespace Sys2Proof.Machine

/-! ### Addresses and keys (R196, R469) -/

/-- The key of a BAR0 address: tile windows and spare windows reach the physical tiles behind them. -/
def State.keyOf (s : State) (addr : Nat) : Option Nat :=
  if addr < 0x02000000 then some addr
  else if 0x04000000 ≤ addr then none
  else
    let d := (addr - 0x02000000) / 0x00800000
    let off := (addr - 0x02000000) % 0x00800000
    if off < 0x00100000 then some addr
    else if off < 0x00500000 then some (tileKey (s.phys (d * 256 + (off - 0x00100000) / 0x4000)) (off % 0x4000))
    else if 0x00600000 ≤ off ∧ off < 0x00640000 then
      let y := (off - 0x00600000) / 0x4000
      some (tileKey (d * 272 + y * 17 + s.spareX d y) (off % 0x4000))
    else none

/-- The register map at a key is 64 bits wide. -/
def isWide (k : Nat) : Bool :=
  match Reg.desc k with
  | none => false
  | some d => d.wide

/-! ### Reads -/

/-- The operation of a unit under way at the present offset, the newest first. -/
def State.underWay (s : State) (p unit : Nat) : Option OpRun :=
  (s.tile p).ops.reverse.find? (fun o => o.unit == unit && o.runsAt s.offset)

/-- A self-test of kind `kind` runs on a physical tile (R440). -/
def State.underTest (s : State) (p kind : Nat) : Bool := s.job.tests.any (fun x => x.running && (testKind x.code == kind && x.tile == p))

/-- OP_INDEX, MODE and BUSY of TL_ARR_STATUS, with DRAIN_BUSY and the speculative marks (R106). -/
def State.arrStatus (s : State) (p : Nat) : Nat :=
  let t := s.tile p
  let base := b2n t.set0.spec * 2 ^ 4 + (b2n t.set1.spec * 2 ^ 5 + b2n (s.underWay p 1).isSome * 2 ^ 6)
  match s.underWay p 0 with
  | some o => base + (o.opIndex % 2 ^ 16 * 2 ^ 16 + (o.mode * 2 + b2n (decide (o.passes ≤ s.offset))))
  | none => base + (if s.underTest p 1 then 14 else 0)

/-- OP_INDEX of a static operation, DYNAMIC, MODE and BUSY of TL_KN_STATUS, with the marks of the merge buffers (R161). -/
def State.knStatus (s : State) (p : Nat) : Nat :=
  let t := s.tile p
  let base := b2n t.bufSpec0 * 2 ^ 6 + b2n t.bufSpec1 * 2 ^ 7
  match s.underWay p 2 with
  | some o => base + ((if o.dyn then 2 ^ 5 else o.opIndex % 2 ^ 16 * 2 ^ 16) + (o.mode * 2 + 1))
  | none => base + (if s.underTest p 3 then 30 else 0)

/-- OP_INDEX, OPEN, ISSUING and BUSY of TL_DMA_STATUS (R304). The model moves a block through the transpose buffer within one command, so
TRANSPOSING reads 0. -/
def State.dmaStatus (s : State) (p : Nat) : Nat :=
  let t := s.tile p
  let opened := t.dma.filter (fun x => decide (x.issue ≤ s.move) && decide (s.move ≤ if x.out then x.issue + 1 else x.due))
  let base := b2n (t.dma.any (fun x => !(if x.out then x.acked else x.landed))) + opened.length * 2 ^ 8
  match s.underWay p 4 with
  | some o => base + (o.opIndex % 2 ^ 16 * 2 ^ 16 + 2)
  | none => base

/-- Fields of a register that a tile shows from its hidden state (R106, R161, R183, R305). -/
def State.tileView (s : State) (p off v : Nat) : Nat :=
  if off = 0x508 then s.arrStatus p
  else if 0x510 ≤ off ∧ off < 0x520 then dlyReg (s.fld (Reg.tlArrRepair p) 6 0) ((off - 0x510) / 4)
  else if off = 0x1000 then s.knStatus p
  else if off = 0x1110 then
    ((List.range 4).map (fun b => b2n (s.bankState p b == ownSPEC) * 2 ^ b
      + (b2n (s.bankState p b == ownRETAINED && !s.bankWaking p b) * 2 ^ (4 + b) + b2n (s.bankWaking p b) * 2 ^ (8 + b)))).foldl (· + ·) 0
  else if off = 0x1200 then s.dmaStatus p
  else if 0xF00 ≤ off ∧ off < 0x1000 ∧ off % 16 = 12 then s.slotAmax p ((off - 0xF0C) / 16)
  else v

/-- Fields that a die shows from its hidden state (R209, R334). -/
def State.dieView (s : State) (d off v : Nat) : Nat :=
  if 0x1100 ≤ off ∧ off < 0x1200 then
    let l := (off - 0x1100) / 4
    match s.listRec d l with
    | none => 0
    | some r => 1 + (b2n (s.list d l).isOpen * 2 + (b2n (s.list d l).dealt * 4 + (r.group * 2 ^ 8 + (s.list d l).items.length * 2 ^ 16)))
  else if off = 0x1400 then
    let n := fun (st : Nat) => ((List.range (s.frameCount d)).filter (fun f => (s.frame d f).st == st)).length
    s.occupancy d + (n 5 % 2 ^ 8 * 2 ^ 48 + n 3 % 2 ^ 8 * 2 ^ 56)
  else if off = 0x1434 then
    let f := s.fld (Reg.dieStkFrameSel d) 11 0
    if f < s.frameCount d then (s.frame d f).st + ((s.frameRec d f).policy * 2 ^ 4 + (b2n (s.frame d f).waited * 2 ^ 6 + 2 ^ 7)) else 0
  else v

/-- The view of an expert layer (R368). -/
def State.expView (s : State) : Nat :=
  let l := s.fld Reg.netExpSel 5 0
  match s.layerRec l with
  | none => 0
  | some r =>
    let x := s.layer l
    1 + (b2n (s.queuesLanded r && !x.returned) * 4 + (b2n (x.dispatched && !s.answersLanded r) * 16 + x.gen * 2 ^ 24))

/-- Fields of the remaining windows that the device forms when they are read. -/
def State.globView (s : State) (k v : Nat) : Nat :=
  if k = Reg.hqId then setBits v 39 32 s.order
  else if 0x100000 ≤ k ∧ k < 0x101000 ∧ k % 64 = 12 then
    let r := (k - 0x100000) / 64
    setBits v 0 0 (b2n (s.sqEnabled r && s.cqFull (s.boundCq r)))
  else if k = Reg.netStepNumber then s.stepNumber
  else if k = Reg.hbmMapInfo then 16 * 2 ^ 56 + (s.stackGb * 2 ^ 48 + s.dieBytes)
  else if k = Reg.mgtUid ∨ k = Reg.frkUid then Config.uid.toNat
  else if k = Reg.mtrId then Config.meterId.toNat
  else if k = Reg.mgtFwStatus 0 then s.fwStatus 0
  else if k = Reg.mgtFwStatus 1 then s.fwStatus 1
  else if k = Reg.mgtMboxCtl then setBits v 2 2 (b2n (s.mgmt.mboxBusy || s.mgmt.pause.isSome))
  else if k = Reg.netResStatus then setBits v 31 16 s.testing
  else if k = Reg.netRepairIndex then setBits v 31 16 s.repairEntries.length
  else if k = Reg.netExpStatus then s.expView
  else if 0x2410 ≤ k ∧ k < 0x2430 then s.reg (layerKey (s.fld Reg.netExpSel 5 0) ((k - 0x2410) / 4))
  else if 0x2800 ≤ k ∧ k < 0x2C00 then s.reg (layerKey (s.fld Reg.netExpSel 5 0) (256 + (k - 0x2800) / 4))
  else if 0x2C00 ≤ k ∧ k < 0x2E00 then
    match s.domains.find? (fun r => r.domain == (k - 0x2C00) / 8) with
    | none => 0
    | some r => setBits (setBits v 0 0 1) 4 4 r.scope
  else if k = Reg.frkXportStatus then
    s.connRecs.length + ((s.connRecs.map (fun r => (s.conn r.conn).unacked.length)).foldl (· + ·) 0) * 2 ^ 16
  else if k = Reg.frkConnState then
    let x := s.conn (s.fld Reg.frkConnSel 12 0)
    x.next * 2 ^ 32 + x.recvNext
  else if k = Reg.frkConnInfo then
    let c := s.fld Reg.frkConnSel 12 0
    match s.connRec c with
    | none => 0
    | some r => (s.conn c).unacked.length * 2 ^ 48 + (min (s.conn c).retries 65535 * 2 ^ 32 + (2 ^ 31 + (r.vc * 2 ^ 20 + r.peer)))
  else if k = Reg.frkCollStatus then
    let c := s.fld Reg.frkCollSel 7 0
    match s.collRec c with
    | none => 0
    | some r => 1 + (r.kind * 2 + (s.coll c).stages * 2 ^ 24)
  else if 0x220010 ≤ k ∧ k < 0x220040 then s.reg (collKey (s.fld Reg.frkCollSel 7 0) ((k - 0x220010) / 8))
  else if 0x210000 ≤ k ∧ k < 0x218000 ∧ k % 0x1000 = 4 then setBits v 2 0 (s.portSt ((k - 0x210000) / 0x1000))
  else if 0x320000 ≤ k ∧ k < 0x330000 ∧ k % 0x1000 = 0 then
    let j := (k - 0x320000) / 0x1000
    let mine := s.petals.filter (fun x => (petalOf x.cmd).stacks.contains j)
    let run := mine.find? (fun x => x.stage == 2)
    let op := match run with
      | none => 0
      | some x => leAt x.cmd 0 1 * 2 ^ 8 + 1
    setBits v 31 24 (min 64 (mine.filter (fun x => x.stage == 1)).length) + op
  else v

/-- The bits of a register that a read returns: write-only and reserved bits read 0, and so does GO, which the device clears (R10,
R489). -/
def readable (d : RegDesc) (v : Nat) : Nat :=
  (d.fields.filter (fun f => f.acc != .wo && f.acc != .w1s)).foldl (fun x f => x + bits v f.hi f.lo * 2 ^ f.lo) 0

/-- What the register at a key reads as; 0 where no map assigns the key (R15). In a service pause of MGT its range reads as the pause found it
(R495). -/
def State.readReg (s : State) (k : Nat) : Nat :=
  match Reg.desc k with
  | none => 0
  | some d =>
    let v := if s.pauseMgt && (decide (0x400000 ≤ k) && decide (k < 0x500000)) then (Sparse.get Reg.reset s.mgmt.frozen k).toNat else s.reg k
    readable d (if 0x10000000 ≤ k then s.tileView ((k - 0x10000000) / 0x4000) ((k - 0x10000000) % 0x4000) v
      else if 0x02000000 ≤ k then s.dieView ((k - 0x02000000) / 0x00800000) ((k - 0x02000000) % 0x00800000) v
      else s.globView k v)

/-- An address of the mailbox buffer or the MSI-X table. -/
def bufferAddr (a : Nat) : Bool := (decide (0x408000 ≤ a) && decide (a < 0x40B000)) || (decide (0x120000 ≤ a) && decide (a < 0x122000))

/-- A 32-bit read of BAR0 (R9, R15, R470): a register, either half of a 64-bit one, or a word of a buffer. -/
def State.read32 (s : State) (addr : Nat) : Nat :=
  if s.bar0Fault addr 4 then 0
  else if bufferAddr addr then (if 0x408000 ≤ addr then Mem.le s.mgmt.mboxBuf (addr - 0x408000) 4 else Mem.le s.msix (addr - 0x120000) 4)
  else match s.keyOf addr with
    | none => 0
    | some k => if isWide k then s.readReg k % 2 ^ 32 else if decide (4 ≤ k) && isWide (k - 4) then s.readReg (k - 4) / 2 ^ 32 else s.readReg k

/-- A 64-bit read (R9): a 64-bit register, or two 32-bit reads, the lower address in the lower half. -/
def State.read64 (s : State) (addr : Nat) : Nat :=
  if s.bar0Fault addr 8 then 0
  else match s.keyOf addr with
    | none => 0
    | some k => if isWide k then s.readReg k else s.read32 addr + 2 ^ 32 * s.read32 (addr + 4)

/-! ### Writes of registers without a row of their own (R9 to R12, R15) -/

/-- Registers whose writes are rows of their own. -/
def ownRow (k : Nat) : Bool :=
  if 0x10000000 ≤ k then
    let off := (k - 0x10000000) % 0x4000
    off == 0x504 || ((decide (0x600 ≤ off) && (decide (off < 0x1000) && off != 0x608)) || (decide (0x1100 ≤ off) && decide (off < 0x1110)))
  else if 0x02000000 ≤ k then decide (0x1000 ≤ (k - 0x02000000) % 0x00800000) && decide ((k - 0x02000000) % 0x00800000 < 0x1040)
  else
    [0x14, 0x1C, 0x2128, 0x3458, 0x34C8, 0x200000, 0x200004, 0x200010, 0x200030, 0x300010, 0x300014, 0x300018, 0x30001C, 0x330010, 0x400008,
     0x400208].contains k
    || ((decide (0x100000 ≤ k) && (decide (k < 0x102000) && k % 64 == 8)) || (decide (0x110000 ≤ k) && decide (k < 0x120000)))

/-- The written value holds a reserved encoding, so the whole write is discarded (R12). -/
def reservedValue (k v : Nat) : Bool :=
  if 0x10000000 ≤ k ∧ (k - 0x10000000) % 0x4000 = 0x500 then decide (bits v 12 8 < 8) || decide (24 < bits v 12 8)
  else if k = Reg.netLossCtl then decide (bits v 31 16 < 16) || (decide (signed 8 v < -32) || decide (63 < signed 8 v))
  else if k = Reg.hqIntCtl then bits v 18 16 == 7
  else if k = Reg.evtCtl then bits v 10 8 == 7
  else if k = Reg.mgtPwrCtl then decide (10 < bits v 27 24) || (decide (bits v 11 0 < 1000) || decide (3200 < bits v 11 0))
  else false

/-- The state of the device admits a write of the register. Of the registers that the loader writes (R242), the bank owners, the quantisation
registers and the step limit have rules of their own. -/
def State.writeOpen (s : State) (k : Nat) : Bool :=
  let idle := s.jobState == jobLOADED || s.jobState == jobSTOPPED
  if k = Reg.netLossCtl ∨ k = Reg.netLossClean ∨ k = Reg.netTrnUpdates ∨ k = Reg.netExpRun then idle
  else if 0x100000 ≤ k ∧ k < 0x101000 then !s.sqEnabled ((k - 0x100000) / 64)
  else if 0x101000 ≤ k ∧ k < 0x102000 then !s.cqEnabled ((k - 0x101000) / 64)
  else if 0x310000 ≤ k ∧ k < 0x320000 then !isBit (s.reg k) 38
  else if 0x400000 ≤ k ∧ k < 0x500000 then !s.pauseMgt
  else true

/-- The value a register takes: written RW fields, W1C bits cleared; other fields stay. -/
def merged (d : RegDesc) (old v : Nat) : Nat :=
  d.fields.foldl (fun x f => match f.acc with
    | .rw => setBits x f.hi f.lo (bits v f.hi f.lo)
    | .w1c => setBits x f.hi f.lo (bits old f.hi f.lo - (bits old f.hi f.lo &&& bits v f.hi f.lo))
    | _ => x) old

/-- What follows a write: ACLK after MGT_PWR_CTL (R526); a port that is disabled or enabled again starts from DOWN (R386). -/
def State.afterWrite (s : State) (k old : Nat) : State :=
  if k = Reg.mgtPwrCtl then s.relevel
  else if 0x210000 ≤ k ∧ k < 0x218000 ∧ k % 0x1000 = 0 ∧ bit old 0 ≠ bit (s.reg k) 0 then
    let p := (k - 0x210000) / 0x1000
    ((s.setPort p .reset).setPortSt p portDOWN).cause 6
  else s

/-! ### Clear registers (R68, R129, R183, R537) -/

/-- Bits lo to lo + n − 1 that clear `n` counters from `base`, `stride` apart. -/
def clearRun (lo n base stride : Nat) : List (Nat × Bool × List Nat) :=
  (List.range n).map (fun i => (lo + i, false, [base + stride * i]))

/-- A bit that clears first records. -/
def clearFirst (b : Nat) (ks : List Nat) : List (Nat × Bool × List Nat) := [(b, true, ks)]

/-- The clear registers of a tile window whose key begins at `b`. -/
def tileClears (b off : Nat) : List (Nat × Bool × List Nat) :=
  if off = 0x420 then clearRun 0 5 (b + 0x400) 4 ++ clearFirst 5 [b + 0x418]
  else if off = 0x550 then clearRun 0 6 (b + 0x530) 4 ++ clearFirst 6 [b + 0x548]
  else if off = 0x608 then
    ((List.range 16).map (fun i => (i, false, [b + 0xF04 + 16 * i, b + 0xF08 + 16 * i]))) ++ clearRun 16 1 (b + 0x604) 4
  else if off = 0x1048 then clearRun 0 11 (b + 0x1010) 4 ++ clearFirst 11 [b + 0x1040]
  else if off = 0x1168 then clearRun 0 16 (b + 0x1120) 4 ++ clearFirst 16 [b + 0x1160]
  else if off = 0x1248 then clearRun 0 8 (b + 0x1210) 4 ++ clearFirst 8 [b + 0x1240]
  else if off = 0x1320 then clearRun 0 4 (b + 0x1300) 4
  else if off = 0x1428 then clearRun 0 7 (b + 0x1400) 4 ++ clearFirst 7 [b + 0x1420]
  else if off = 0x1520 then clearRun 0 6 (b + 0x1500) 4
  else []

/-- The clear registers outside the tile windows. -/
def State.globClears (s : State) (k : Nat) : List (Nat × Bool × List Nat) :=
  if 0x02000000 ≤ k then
    let off := (k - 0x02000000) % 0x00800000
    let b := k - off
    if off = 0x1248 then clearRun 0 10 (b + 0x1200) 4 ++ clearFirst 10 [b + 0x1240]
    else if off = 0x1438 then clearRun 0 8 (b + 0x1410) 4 else []
  else if k = Reg.netHoldClear then
    clearRun 0 5 (Reg.netHoldCause 0) 8 ++ (clearRun 5 1 Reg.netHoldTotal 8 ++ (clearRun 6 1 Reg.netHoldMoves 8
      ++ clearFirst 7 [Reg.netHoldLongest, Reg.netHoldLongestMove]))
  else if k = Reg.netTrnClear then clearRun 0 6 (Reg.netTrnCount 0) 4 ++ clearFirst 6 [Reg.netVoteFirst, Reg.netVoteFirstTensor]
  else if k = Reg.netExpClear then
    let l := s.fld Reg.netExpSel 5 0
    clearRun 0 8 (layerKey l 0) 1 ++ [(8, false, (List.range 256).map (fun e => layerKey l (256 + e)))]
  else if k = Reg.netDecClear then clearRun 0 2 (Reg.netDecCount 0) 4
  else if k = Reg.netExchClear then clearRun 0 4 (Reg.netExchCount 0) 4
  else if k = Reg.netResClear then clearRun 0 8 (Reg.netResCount 0) 4 ++ clearFirst 8 [Reg.netResLast]
  else if k = Reg.hqErrClear then clearRun 0 6 (Reg.hqErrCount 0) 4
  else if k = Reg.hbmOwnClear then clearRun 0 12 (Reg.hbmOwnCount 0) 4
  else if k = Reg.frkMsgClear then clearRun 0 12 (Reg.frkMsgCount 0) 8 ++ clearFirst 12 [Reg.frkMsgFirst]
  else if k = Reg.frkCollClear then clearRun 0 6 (collKey (s.fld Reg.frkCollSel 7 0) 0) 1
  else if k = Reg.evtClear then clearRun 0 5 (Reg.evtCount 0) 4
  else if k = Reg.mgtPwrClear then clearRun 0 8 (Reg.mgtPwrCount 0) 4
  else if 0x310000 ≤ k ∧ k < 0x320000 ∧ k % 0x1000 = 0x60 then clearRun 0 7 (k - 0x50) 4 ++ clearFirst 7 [k - 0x20]
  else if 0x320000 ≤ k ∧ k < 0x330000 ∧ k % 0x1000 = 0x48 then clearRun 0 12 (k - 0x38) 4 ++ clearFirst 12 [k - 8]
  else if 0x210000 ≤ k ∧ k < 0x218000 ∧ k % 0x1000 = 0xA0 then clearRun 0 10 (k - 0x60) 8
  else []

/-- Clears what one bit of a clear register names. `same` are the events of the same cycle, by bit, in the order of what the bit names: a counter
ends at their number, a first record at the new one (R68). -/
def State.clearBit (s : State) (same : List (Nat × Nat)) (x : Nat × Bool × List Nat) : State :=
  let s1 := x.2.2.foldl (fun s k => s.setReg k 0) s
  (List.zip x.2.2 ((same.filter (fun e => e.1 == x.1)).map (fun e => e.2))).foldl (fun s (e : Nat × Nat) =>
    if x.2.1 then s.setReg e.1 e.2 else s.count e.1 e.2) s1

/-- The key of TL_QNT_CLEAR of some tile (R129). -/
def isQntClear (k : Nat) : Bool := decide (0x10000000 ≤ k) && (k - 0x10000000) % 0x4000 == 0x608

/-- What the bits of a clear register name; none for another register. -/
def State.clears (s : State) (k : Nat) : List (Nat × Bool × List Nat) :=
  if 0x10000000 ≤ k then tileClears (k - (k - 0x10000000) % 0x4000) ((k - 0x10000000) % 0x4000) else s.globClears k

/-- A write of the clear register at a key (R68); TL_QNT_CLEAR also resets the AMAX of the slots it names and, by CAL, the calibration ranges, and
is discarded in RUNNING (R117, R129). -/
def State.clearWrite (s : State) (k value : Nat) (same : List (Nat × Nat)) : State :=
  if !s.writeOpen k || (isQntClear k && !s.qntOpen) then s
  else
    let s1 := ((s.clears k).filter (fun x => isBit value x.1)).foldl (fun s x => s.clearBit same x) s
    if !isQntClear k then s1
    else
      let p := (k - 0x10000000) / 0x4000
      let s2 := s1.modTile p (fun t => { t with amax := Sparse.clearIf t.amax (isBit (value % 2 ^ 16)) })
      if isBit value 17 then s2.calReset p else s2

/-- COUNTER_CLEAR (R68): a write of the clear register at `addr`. -/
def execCounterClear (addr value : Nat) (same : List (Nat × Nat)) (s : State) : Host.Outcome State Fault Refusal :=
  if s.bar0Fault addr 4 then .next s
  else
    match s.keyOf addr with
    | none => .next s
    | some k => .next (s.clearWrite k value same)

/-! ### Registers whose writes are commands of their own (R9) -/

/-- The state a command leaves; a command that stops leaves it as it was. -/
def nextOr (s : State) (o : Host.Outcome State Fault Refusal) : State :=
  match o with
  | .next t => t
  | _ => s

/-- Runs a command when `on`. -/
def State.runIf (s : State) (on : Bool) (f : State → Host.Outcome State Fault Refusal) : State := if on then nextOr s (f s) else s

/-- Index `i` below 64, 8 and 4. -/
def ringOf (i : Nat) : Ring := ⟨i % 64, Nat.mod_lt _ (by decide)⟩
def portOf (i : Nat) : Port := ⟨i % 8, Nat.mod_lt _ (by decide)⟩
def dieOf (i : Nat) : Die := ⟨i % 4, Nat.mod_lt _ (by decide)⟩
def stackIx (i : Nat) : Stack := ⟨i % 16, Nat.mod_lt _ (by decide)⟩

/-- A write of a tile register that has a command of its own. -/
def State.ownTile (s : State) (p off v : Nat) : State :=
  if off = 0x504 then s.arrRepairWrite p v
  else if off < 0x1000 then s.qntHostWrite p off v
  else s.bankOwnWrite p ((off - 0x1100) / 4) v

/-- A write of another register that has a command of its own. -/
def State.ownGlob (s : State) (k v : Nat) : State :=
  if k = Reg.hqReset then (if isBit v 2 then s.runIf true execIoDieReset else s.runIf (isBit v 1) execDieReset)
  else if k = Reg.hqIntCause then s.runIf true (execIntCauseClear v [])
  else if k = Reg.netStepLimit then s.runIf true (execNetStepLimitWrite v)
  else if k = Reg.netRepairCmd then (s.runIf (isBit v 0) execNetRepairRead).runIf (isBit v 1) execNetRepairRemove
  else if k = Reg.netSnapCmd then (s.runIf (isBit v 0) execSnapNow).runIf (isBit v 1) execCastleClear
  else if k = Reg.frkAddr ∨ k = Reg.frkAxes then s.runIf true (execFrkAddrWrite (k == Reg.frkAxes) v)
  else if k = Reg.frkXportCtl then s.runIf true (execXepochWrite v)
  else if k = Reg.frkRouteCmd then (s.runIf (isBit v 0) execFrkRouteRead).runIf (isBit v 1) execFrkRouteWrite
  else if k = Reg.hbmOwnCmd then (s.runIf (isBit v 0) (fun s => execHbmOwnRead s)).runIf (isBit v 1) execHbmOwnWrite
  else if k = Reg.mgtTime then s.runIf true (execMgtTimeWrite v)
  else if k = Reg.evtSel then s.runIf true (execEvtSelWrite v [])
  else if 0x300010 ≤ k ∧ k < 0x300020 then s.runIf true (execHbmCastleSizeWrite (dieOf ((k - 0x300010) / 4)) v)
  else if 0x100000 ≤ k ∧ k < 0x102000 then s.runIf true (execRingCtlWrite (decide (0x101000 ≤ k)) (ringOf (k % 0x1000 / 64)) v)
  else if 0x110000 ≤ k ∧ k < 0x110200 then s.runIf true (execSqDoorbell (ringOf (k % 0x400 / 8)) v [])
  else if 0x110400 ≤ k ∧ k < 0x110600 then s.runIf true (execCqDoorbell (ringOf (k % 0x400 / 8)) v)
  else s

/-- A write of a register that has a command of its own acts as that command (R9, log entry 137). -/
def State.ownWrite (s : State) (k v : Nat) : State :=
  if 0x10000000 ≤ k then s.ownTile ((k - 0x10000000) / 0x4000) ((k - 0x10000000) % 0x4000) v
  else if 0x02000000 ≤ k then s.rowRepairWrite ((k - 0x02000000) / 0x00800000) (((k - 0x02000000) % 0x00800000 - 0x1000) / 4) v
  else s.ownGlob k v

/-- What a write orders beside the fields it sets: RETRAIN, a repair's GO, the mailbox's GO. -/
def State.ordered (s : State) (k v : Nat) : State :=
  if 0x210000 ≤ k ∧ k < 0x218000 ∧ k % 0x1000 = 0 then s.runIf (isBit v 8) (execPortRetrain (portOf ((k - 0x210000) / 0x1000)))
  else if 0x310000 ≤ k ∧ k < 0x320000 ∧ k % 0x1000 = 0x50 then
    s.runIf (isBit v 32) (fun s => execHbmRepairGo (stackIx ((k - 0x310000) / 0x1000)) v (s.freeValue % 2 == 1) s.useFree)
  else if k = Reg.mgtMboxCtl then s.runIf (isBit v 0) execMboxGo
  else s

/-- One access to the register at a key, of its own width. -/
def State.writeKey (s : State) (k v : Nat) : State :=
  match Reg.desc k with
  | none => s
  | some d =>
    if ownRow k then s.ownWrite k v
    else if !(s.clears k).isEmpty then s.clearWrite k v []
    else if reservedValue k v || !s.writeOpen k then s
    else ((s.setReg k (merged d (s.reg k) v)).afterWrite k (s.reg k)).ordered k v

/-- A 32-bit write: half of a 64-bit register takes none (R9). -/
def State.write32 (s : State) (addr v : Nat) : State :=
  match s.keyOf addr with
  | none => s
  | some k => if isWide k || (decide (4 ≤ k) && isWide (k - 4)) then s else s.writeKey k (v % 2 ^ 32)

/-- A 64-bit write: to a 64-bit register whole, else as two 32-bit writes, the lower address first (R9). -/
def State.write64 (s : State) (addr v : Nat) : State :=
  match s.keyOf addr with
  | none => s
  | some k => if isWide k then s.writeKey k (v % 2 ^ 64) else (s.write32 addr (v % 2 ^ 32)).write32 (addr + 4) (v / 2 ^ 32)

/-- Bytes written into the mailbox buffer (R489, R515) or the MSI-X table (R465); none elsewhere. -/
def State.writeBuffer (s : State) (addr : Nat) (bs : List Byte) : State :=
  if 0x408000 ≤ addr then
    if s.pauseMgt || s.mgmt.mboxBusy then s
    else { s with mgmt := { s.mgmt with mboxBuf := Mem.write s.mgmt.mboxBuf (addr - 0x408000) bs } }
  else { s with msix := Mem.write s.msix (addr - 0x120000) bs }

/-- REGISTER_WRITE (R9 to R12, R15, R470, R489, R510): an aligned write of 32 bits, or of 64 when `wide`. -/
def execRegisterWrite (addr : Nat) (wide : Bool) (value : Nat) (s : State) : Host.Outcome State Fault Refusal :=
  let n := if wide then 8 else 4
  if s.bar0Fault addr n || decide (0x04000000 ≤ addr) then .next s
  else if 0x500000 ≤ addr ∧ addr < 0x510000 then .next (s.hostFault 0)
  else if bufferAddr addr then .next (s.writeBuffer addr (leBytes n value))
  else .next (if wide then s.write64 addr value else s.write32 addr value)

end Sys2Proof.Machine
end

