-- ==== Sys2Proof/Machine/Tick.lean ====
section
/-! DEFINITION. The tick (R24, R28 to R32, R36, R40): what holds it, what it carries out, the stops that fall at it, and the records of
counts that rose in the move (R71, R126, R127, R158, R180, R206, R207, R258, R272, R294, R355, R416, R436). -/

namespace Sys2Proof.Machine

/-! ### What a tile owes -/

/-- A word that acts in the tick cycle or marks the end of a body: COMMIT, DISCARD, the end marker (R230, R239). -/
def tickWord (w : Nat) : Bool := w == 0 || (wOpcode w == 0x49 || wOpcode w == 0x4A)

/-- The sequencer of tile t has started every operation of its body. -/
def State.wordsStarted (s : State) (t : Nat) : Bool :=
  ((s.body t s.plan).drop (s.tile (s.phys t)).next).all tickWord

/-- Every row of the tile's SENDs and RECVs has moved. -/
def State.rowsDone (s : State) (t : Nat) : Bool :=
  let x := s.tile (s.phys t)
  (x.sends ++ x.recvs).all (fun q => decide (q.rows ≤ q.done))

/-- SEQUENCER at tile t (R28). -/
def State.seqTile (s : State) (t : Nat) : Bool := s.wordsStarted t && s.rowsDone t

/-- SOURCE at tile t (R28, R301): every DMA_OUT of the present move has read its source. -/
def State.sourceTile (s : State) (t : Nat) : Bool :=
  (s.tile (s.phys t)).dma.all (fun x => !x.out || (x.issue != s.move || x.landed))

/-- The list of number l that serves tile t closes in the present move (R199). -/
def State.closesFor (s : State) (t l : Nat) : Bool :=
  match s.listDie t l with
  | none => false
  | some d => match s.listRec d l with
    | none => false
    | some r => r.closeMove == s.stepMove

/-- WORK at tile t (R28, R203): every item claimed from a closing list, those on their way to the tile included, has retired. -/
def State.workTile (s : State) (t : Nat) : Bool :=
  (s.tile (s.phys t)).items.all (fun b => !s.closesFor t b.list)
    && s.grants.all (fun g => g.tile != t || (g.items.isEmpty || !s.closesFor t g.list))

/-- Every tile meets a condition. -/
def allTiles (p : Nat → Bool) : Bool := (List.range 1024).all p

/-- The lowest tile, by tile number and then by die, that fails a condition: its number and its die (R206). -/
def lowestTile (p : Nat → Bool) : Option (Nat × Nat) :=
  match (List.range 1024).find? (fun i => !p (i % 4 * 256 + i / 4)) with
  | none => none
  | some i => some (i / 4, i % 4)

/-! ### The conditions of R28 -/

/-- The lists that the image closes in the present move: die and number. -/
def State.closing (s : State) : List (Nat × Nat) :=
  (List.range 4).flatMap (fun d => ((List.range 64).filter (fun l => match s.listRec d l with
    | none => false
    | some r => r.closeMove == s.stepMove)).map (fun l => (d, l)))

/-- A closing list is closed and empty. -/
def State.listsClosed (s : State) : Bool :=
  s.closing.all (fun k => let x := s.list k.1 k.2; !x.isOpen && x.items.isEmpty)

/-- Domains whose decision is due at this tick (R358). -/
def State.domainsDue (s : State) : List DomainRec := s.domains.filter (fun r => r.formMove + 1 == s.stepMove)

/-- The vote is due at this tick and has not landed (R323). -/
def State.voteMissing (s : State) : Bool :=
  !s.trainSec.isEmpty && (s.stepMove + 1 == s.voteMove + s.voteDue && s.fld Reg.netVoteStatus 0 0 == 0)

/-- The tick ends the last move of a step. -/
def State.stepEnds (s : State) : Bool := s.stepMove + 1 == s.stepMoves

/-- An accepted re-shard is due at this tick (R431). -/
def State.reshardDue (s : State) : Bool :=
  match s.reshard with
  | none => false
  | some x => x.target == s.stepNumber && s.stepEnds

/-- Transfers due at the tick have landed; a DMA_OUT's Petal commands are complete (R25, R28, R261). -/
def State.dmaLanded (s : State) : Bool :=
  allTiles (fun t => (s.tile (s.phys t)).dma.all (fun x => x.out || (x.due != s.move + 1 || x.landed)))
  && s.petals.all (fun q => q.host || q.due != s.move + 1)

/-- LANDING but for a re-shard (R431 phase 1). -/
def State.landed (s : State) : Bool :=
  s.dmaLanded && (s.collsLanded s.stepMove && (s.layersLanded s.stepMove && !s.voteMissing))

/-- A capture holds the tick that ends step-relative move 0 (R453). -/
def State.captureHolds (s : State) : Bool := s.stepMove == 0 && (s.snap.due || isBit (s.reg Reg.netSnapStatus) 0)

/-- The five conditions, in the order of NET_HOLD_CAUSE, with LANDING as given. -/
def State.conditions (s : State) (landing : Bool) : List Bool :=
  [allTiles s.seqTile, landing, allTiles s.sourceTile && !s.captureHolds, s.listsClosed && allTiles s.workTile,
    s.domainsDue.all (fun r => isBit (s.reg (Reg.netDecStatus r.domain)) 2)]

/-- Every condition holds. -/
def State.tickReady (s : State) : Bool := (s.conditions (s.landed && !s.reshardDue)).all (fun c => c)

/-- Scheduled actions of the move that have not taken place: while one is left, its last cycle has not come (log entry 30). The vote's
formation follows the last operation that bears on it (R323). -/
def State.scheduleLeft (s : State) : Bool :=
  let scheduled := !allTiles s.wordsStarted
    || (!s.listsClosed || (!s.job.err && (!allTiles s.rowsDone
      || s.domains.any (fun r => r.formMove == s.stepMove && (bits (s.reg (Reg.netDecStatus r.domain)) 2 1 == 0 && decide (s.offset ≤ r.formOff))))))
  (decide (s.offset + 1 < s.moveCycles) && scheduled)
  || (!s.job.err && (!s.trainSec.isEmpty && (s.stepMove == s.voteMove && !s.training.formed)))

/-- A Petal command due at the tick that the error keeps from completing: its source rows were computed after the error, so they do not leave
the tile, or it waits for a vote that the error keeps from being formed. -/
def State.petalStuck (s : State) (q : PetalCmd) : Bool :=
  !q.host && (s.petalHeldBack q || (q.stage == 1 && ((petalOf q.cmd).gate && (s.fld Reg.netVoteStatus 0 0 == 0 && !s.training.formed))))

/-- WORK waits at tile t for an item that nothing can start: no window of the move takes it, or the array would (R105). -/
def State.workStuck (s : State) (t : Nat) : Bool :=
  !s.workTile t && (match (s.tile (s.phys t)).window with
    | none => true
    | some x => x.engine == 2)

/-- After an error of R40, a condition that fails can never hold: it waits for work of this device that the error stops, or that had to take
place before the last cycle. Transfers and items under way, and what other devices still send, can end. -/
def State.prevented (s : State) : Bool :=
  !allTiles s.seqTile || ((!s.dmaLanded && s.petals.any s.petalStuck) || (!s.listsClosed || (!allTiles (fun t => !s.workStuck t)
  || (s.reshardDue || ((s.voteMissing && !s.training.formed) || s.domainsDue.any (fun r => bits (s.reg (Reg.netDecStatus r.domain)) 2 1 == 0))))))

/-! ### Records of counts that rose in the move (R537) -/

/-- The rises of a tile counter over die d: their sum and the lowest tile number with one. -/
def State.dieRise (s : State) (d : Nat) (key : Nat → Nat) : Nat × Nat :=
  ((List.range 256).reverse).foldl (fun (a : Nat × Nat) n =>
    let v := s.rise (key (s.phys (d * 256 + n)))
    if v = 0 then a else (a.1 + v, n)) (0, 0)

/-- One record for each die on which a tile counter rose, in the form of R71. -/
def State.dieRecords (s : State) (m code sev : Nat) (key : Nat → Nat) : State :=
  (List.range 4).foldl (fun s d =>
    let r := s.dieRise d key
    if r.1 = 0 then s else s.eventAt m code sev srcDie (d * 256 + r.2) [it8 r.1, it2 r.2]) s

/-- The same for a counter of several registers of a tile: the sum of `keys`. -/
def State.dieRecordsOf (s : State) (m code sev : Nat) (keys : Nat → List Nat) : State :=
  (List.range 4).foldl (fun s d =>
    let vs := (List.range 256).map (fun n => ((keys (s.phys (d * 256 + n))).map s.rise).foldl (· + ·) 0)
    match vs.findIdx? (fun v => decide (0 < v)) with
    | none => s
    | some n => s.eventAt m code sev srcDie (d * 256 + n) [it8 (vs.foldl (· + ·) 0), it2 n]) s

/-- R158: the records of malformed metadata carry the OP_INDEX and POSITION that the lowest tile latched. -/
def State.knightRecords (s : State) (m code : Nat) : State :=
  (List.range 4).foldl (fun s d =>
    let r := s.dieRise d (fun p => Reg.tlKnCount p (code - 0x0301))
    if r.1 = 0 then s
    else
      let l := ((s.tile (s.phys (d * 256 + r.2))).latches.find? (fun x => x.code == code)).getD ⟨0, code, 0, 0⟩
      s.eventAt m code sevERROR srcDie (d * 256 + r.2) [it8 r.1, it2 r.2, it2 l.opIndex, itN 3 l.position]) s

/-- R126: inference-class slots; R127 follows by `dieRecords`. The slot index takes two bytes (DESIGN CHOICE, log entry 119). -/
def State.slotRecords (s : State) (m : Nat) : State :=
  (List.range 4).foldl (fun s d => (List.range 16).foldl (fun s i =>
    let ps := (List.range 256).map (fun n => s.phys (d * 256 + n))
    let inf := fun p => let c := s.reg (Reg.tlQntSlotCtl p i); isBit c 0 && isBit c 9
    let sat := ps.map (fun p => if inf p then s.rise (Reg.tlQntSlotSat p i) else 0)
    let und := ps.map (fun p => if inf p then s.rise (Reg.tlQntSlotUnder p i) else 0)
    match (List.zipWith (· + ·) sat und).findIdx? (fun v => decide (0 < v)) with
    | none => s
    | some n => s.eventAt m 0x0211 sevNOTICE srcDie (d * 256 + n)
        [it2 i, it8 (sat.foldl (· + ·) 0), it8 (und.foldl (· + ·) 0), it2 n]) s) s

/-- R416: wire counts of inference-class collectives, over the device. -/
def State.wireRecords (s : State) (m : Nat) : State :=
  s.collRecs.foldl (fun s r =>
    let sat := (List.range 1024).map (fun t => s.rise (wireKey t r.coll 0))
    let und := (List.range 1024).map (fun t => s.rise (wireKey t r.coll 1))
    match (List.zipWith (· + ·) sat und).findIdx? (fun v => decide (0 < v)) with
    | none => s
    | some t => s.eventAt m 0x0211 sevNOTICE srcDevice t
        [it2 r.coll, it8 (sat.foldl (· + ·) 0), it8 (und.foldl (· + ·) 0), it2 (tNum t)]) s

/-- R258, R272: one record for the device, with the sum of the rises over the stacks and the lowest stack with one. -/
def State.stackRecord (s : State) (m code sev : Nat) (key : Nat → Nat) : State :=
  let vs := (List.range 16).map (fun k => s.rise (key k))
  match vs.findIdx? (fun v => decide (0 < v)) with
  | none => s
  | some k => s.eventAt m code sev srcHbm k [it8 (vs.foldl (· + ·) 0), it2 k]

/-- A counter of each die: one record for each die on which it rose (R207, R201). -/
def State.dieCountRecords (s : State) (m code sev i : Nat) : State :=
  (List.range 4).foldl (fun s d =>
    let v := s.rise (Reg.dieNetCount d i)
    if v = 0 then s else s.eventAt m code sev srcDie 0 [it8 v, it2 d]) s

/-- R294: for each die and code of a rejected chain, with the OP_INDEX and descriptor index of the lowest tile. -/
def State.dmaRecords (s : State) (m : Nat) : State :=
  (List.range 4).foldl (fun s d =>
    let codes := ((s.rises.filter (fun e => decide (0x40000000 ≤ e.1) && (decide (e.1 < 0x48000000)
      && (pDie ((e.1 - 0x40000000) / 65536) == d && decide (0 < e.2))))).map (fun e => e.1 % 65536)).eraseDups
    codes.foldl (fun s code =>
      let r := s.dieRise d (fun p => dmaRejKey p code)
      let at_ := s.rise (dmaRejAt (s.phys (d * 256 + r.2)) code) - 1
      if r.1 = 0 then s
      else s.eventAt m code sevERROR srcDie (d * 256 + r.2) [it8 r.1, it2 r.2, it2 (at_ / 256), it2 (at_ % 256)]) s) s

/-- R355: one record for each layer, declared or named by a message, with the sum of the rises and the lowest expert with a drop. -/
def State.layerRecords (s : State) (m code sev : Nat) (is : List Nat) : State :=
  (List.range 256).foldl (fun s l =>
    let v := (is.map (fun i => s.rise (layerKey l i))).foldl (· + ·) 0
    if v = 0 then s
    else
      let e := ((List.range 256).find? (fun e => decide (0 < s.rise (layerKey l (256 + e))))).getD 0xFFFF
      s.eventAt m code sev srcDevice 0 [itN 1 l, it8 v, it2 e]) s

/-- R436: a count of the collectives: the sum of the rises and the lowest collective with one. -/
def State.collRecords (s : State) (m code i : Nat) : State :=
  let vs := (List.range 256).map (fun c => s.rise (collKey c i))
  match vs.findIdx? (fun v => decide (0 < v)) with
  | none => s
  | some c => s.eventAt m code sevERROR srcDevice 0 [it8 (vs.foldl (· + ·) 0), it2 c]

/-- The records of class 0x02. -/
def State.records02 (s : State) (m : Nat) : State :=
  ((((((s.dieRecords m 0x0203 sevNOTICE Reg.tlCvtNanCount).dieRecords m 0x0204 sevNOTICE Reg.tlCvtSatCount).dieRecords m 0x0205 sevNOTICE
    Reg.tlCvtOvfCount).dieRecords m 0x0206 sevNOTICE Reg.tlCvtIntnanCount).dieRecords m 0x020A sevNOTICE Reg.tlAccOvfCount).slotRecords
      m).dieRecords m 0x0213 sevNOTICE Reg.tlQntConstCount

/-- The records of classes 0x03, 0x04, 0x05 and 0x09. -/
def State.records0345 (s : State) (m : Nat) : State :=
  let s1 := [0x0301, 0x0302, 0x0303, 0x0304, 0x0305].foldl (fun s c => s.knightRecords m c) s
  let s2 := s1.dieRecordsOf m 0x0915 sevWARNING (fun p => (List.range 4).map (Reg.tlBankCount p))
  let s3 := (s2.dieCountRecords m 0x0918 sevWARNING 0).dieCountRecords m 0x0504 sevERROR 4
  let s4 := s3.stackRecord m 0x091A sevWARNING (fun k => Reg.hbmCount k 0)
  let s5 := (s4.stackRecord m 0x0405 sevERROR (fun k => Reg.petCount k 2)).stackRecord m 0x0406 sevERROR (fun k => Reg.petCount k 3)
  (s5.stackRecord m 0x0408 sevNOTICE (fun k => Reg.petCount k 4)).dmaRecords m

/-- The records of classes 0x06 and 0x08, and those of the wire counts. -/
def State.records068 (s : State) (m : Nat) : State :=
  let s1 := (s.layerRecords m 0x0604 sevNOTICE [1]).layerRecords m 0x0605 sevNOTICE [2]
  let s2 := ((s1.layerRecords m 0x0606 sevWARNING [3, 4]).layerRecords m 0x0607 sevERROR [5, 6]).layerRecords m 0x060B sevERROR [7]
  let s3 := (s2.dieRecords m 0x0603 sevERROR (fun p => Reg.tlDynCount p 1)).wireRecords m
  let s4 := s3.dieRecords m 0x0806 sevERROR (fun p => Reg.tlRedCount p 4)
  let s5 := (s4.collRecords m 0x0807 4).collRecords m 0x0808 5
  let v := s5.rise (Reg.netExchCount 3)
  if v = 0 then s5 else s5.eventAt m 0x080C sevERROR srcDevice 0 [it8 v]

/-- The record of a long hold (R206): a cause without a failing tile carries 0xFFFF. -/
def State.holdRecord (s : State) (m : Nat) : State :=
  let h := s.job.held
  let tile := fun (i : Nat) => match (s.job.failTiles.getD i none) with
    | none => [it2 0xFFFF, it2 0xFFFF]
    | some x => [it2 x.1, it2 x.2]
  if s.reg Reg.netHoldLimit < h ∧ s.reg Reg.netHoldLimit ≠ 0xFFFFFFFF then
    s.eventAt m 0x0501 sevNOTICE srcDevice 0
      (it8 h :: ((List.range 5).map (fun i => it8 (s.job.heldBy.getD i 0)) ++ (itN 1 s.job.failed :: (tile 0 ++ (tile 1 ++ tile 2)))))
  else s

/-- Every record of the tick that ends move m. -/
def State.tickRecords (s : State) (m : Nat) : State :=
  ((((s.gradRecord.records02 m).records0345 m).records068 m).holdRecord m).dropRises

/-! ### A held cycle (R29, R31) -/

/-- One held cycle: counted in all and against each cause that fails (R31); the capture's share under SOURCE (R453). -/
def State.holdCycle (s : State) (cs : List Bool) : State :=
  let s1 := (List.range 5).foldl (fun s i => if cs.getD i true then s else s.count (Reg.netHoldCause i) 1) (s.count Reg.netHoldTotal 1)
  let s2 := if s1.captureHolds then s1.setReg Reg.netSnapHold (satAdd 64 (s1.reg Reg.netSnapHold) 1) else s1
  let s3 := s2.setReg Reg.netMoveOffset (2 ^ 31 + (s.moveCycles - 1))
  { s3 with job := { s3.job with
      held := s.job.held + 1
      heldBy := (List.range 5).map (fun i => s.job.heldBy.getD i 0 + b2n (!cs.getD i true))
      failed := ((List.range 5).map (fun i => b2n (!cs.getD i true) * 2 ^ i)).foldl (· + ·) 0
      failTiles := [lowestTile s.seqTile, lowestTile s.sourceTile, lowestTile s.workTile] } }

/-- At the end of the hold its length is compared with the longest (R209). -/
def State.holdEnd (s : State) (m : Nat) : State :=
  let h := s.job.held
  if h = 0 then s
  else
    let s1 := s.count Reg.netHoldMoves 1
    if s1.reg Reg.netHoldLongest < h then (s1.setReg Reg.netHoldLongest h).setReg Reg.netHoldLongestMove m else s1

/-! ### What a tick carries out -/

/-- Every premove of the move is resolved by its domain's final decision (R175, R358). -/
def State.resolveAll (s : State) : State := (List.range 1024).foldl (fun s t => (s.resolve t true).resolve t false) s

/-- SCALE_TICK of the SEQUENCE section names this tick (R124, R218). -/
def State.scaleTickNow (s : State) : Bool := leAt (s.devSection secSEQUENCE) 8 4 == s.stepMove

/-- The scale tick, unless SCALE_TICK or a resolution has carried it out. -/
def State.tickScale (s : State) : State := if s.scaleTickNow && !s.job.scaleDone then s.scaleAll else s

/-- The loss-scale rule at the end of a step with a TRAINING section, unless LOSS_SCALE_UPDATE has carried it out (R326). -/
def State.tickLoss (s : State) : State :=
  if s.stepEnds && (!s.trainSec.isEmpty && !s.job.lossDone) then s.lossRule else s

/-- A tile at the tick: TL_KN_FIRST takes the record detected first (R157); the rotating priorities return (R171); closed transfers and what
belongs to the one move are gone; items that wait for publication can leave in the next; its body starts at its first word. -/
def State.tickTile (s : State) (p : Nat) : State :=
  let s1 := match firstLatch (s.tile p).latches with
    | none => s
    | some l => s.first (Reg.tlKnFirst p) 31 (l.code * 2 ^ 48 + l.opIndex % 2 ^ 16 * 2 ^ 32 + 2 ^ 31 + l.position)
  let m := s.move + 1
  s1.modTile p (fun t => { t with
    latches := []
    ptr := []
    lateArray := 0
    lateKnight := 0
    lateDma := 0
    ops := []
    gives := []
    next := 0
    dma := t.dma.filter (fun x => if x.out then !x.acked || decide (m ≤ x.issue + 1) else !x.landed || decide (m ≤ x.due))
    sends := []
    recvs := []
    publish := t.publish.map (fun i => { i with ready := 0 })
    shown := 0
    sent := []
    passes := 0
    specPasses := 0 })

/-- Work counts for the meter (R512): array passes of the move, step boundaries, steps whose final vote was true. -/
def State.tickMeter (s : State) : State :=
  { s with meter := { s.meter with
      passes := s.meter.passes + (s.tiles.map (fun e => e.2.passes)).foldl (· + ·) 0
      steps := s.meter.steps + b2n s.stepEnds
      updates := s.meter.updates + b2n (s.stepEnds && (!s.trainSec.isEmpty && isBit (s.reg Reg.netVoteStatus) 1)) } }

/-- What the end of a step clears: vote, norms (R322, R328), landings of collectives and layers. -/
def State.tickStep (s : State) (m : Nat) : State :=
  let s1 := s.collsTick m
  if m + 1 = s.stepMoves then
    { ((s1.layersStep.frameStep).setFld Reg.netVoteStatus 0 0 0).resetRegs (fun k => decide (0x02000000 ≤ k) && (decide (k < 0x10000000)
        && (decide (0x1800 ≤ (k - 0x02000000) % 0x00800000) && decide ((k - 0x02000000) % 0x00800000 < 0x1C00)))) with
      training := .reset
      normAcc := [] }
  else s1

/-- A snapshot is due at the tick that ends the last move of step `step` (R450, R452): the image declares what is secured. -/
def State.snapDue (s : State) (step : Nat) : Bool :=
  let i := s.fld Reg.netSnapCtl 15 0
  !s.secureSec.isEmpty && (s.snap.now || (isBit (s.reg Reg.netSnapStatus) 3 || (i != 0 && (step + 1) % i == 0)))

/-- The next move begins: move number, offset, decisions resolved, survivor sums, owner-table writes, snapshots. -/
def State.nextMove (s : State) : State :=
  let m := s.stepMove
  let step := s.stepNumber
  let ends := s.stepEnds
  let due := s.domainsDue
  let s1 := due.foldl (fun s r => s.setFld (Reg.netDecStatus r.domain) 2 2 0) (s.tiles.foldl (fun s e => s.tickTile e.1) s)
  let s2 := { s1 with
    domSums := []
    wires := []
    firstAt := []
    slotsUsed := []
    served := []
    staging := s1.staging ++ s1.stagedNew
    stagedNew := []
    job := { s1.job with held := 0, heldBy := [], failed := 0, failTiles := [], scaleDone := false, lossDone := false } }
  let s3 := (s2.tickStep m).setReg Reg.netMoveNumber ((s.move + 1) % 2 ^ 64)
  let s4 := (s3.setReg Reg.netMoveOffset 0).settleFrames
  if ends && (!s.job.err && s4.snapDue step) then { s4 with snap := { s4.snap with due := true, step := step } } else s4

/-! ### Stops (R34, R36, R40, R246, R247, R467, R528) -/

/-- The step limit ends the job at this tick (R246). -/
def State.limitNow (s : State) : Bool := s.move + 1 == s.reg Reg.netStepLimit * s.stepMoves

/-- The cause of the stop at this tick, 0 for none, in the precedence of R247. -/
def State.stopCause (s : State) : Nat :=
  if s.job.err then 2
  else if s.job.stopPower then 4
  else if s.job.stopD3 then 5
  else if s.job.stopDriver then 1
  else if s.limitNow then 3
  else 0

/-- No bank is SPECULATIVE (R36). -/
def State.noSpec (s : State) : Bool := allTiles (fun t => (List.range 4).all (fun b => s.bankState (s.phys t) b != ownSPEC))

/-- Enters STOPPED: a STOP command completes, a transition to D3hot takes place. -/
def State.stopJob (s : State) (cause : Nat) : State :=
  let s1 := (s.setFld Reg.netJobState 10 8 cause).setJobState jobSTOPPED
  let s2 := { s1 with
    d3 := s1.d3 || s1.job.stopD3
    job := { s1.job with stopDriver := false, stopPower := false, stopD3 := false } }
  if (s2.jobCmd 4).isSome then s2.endJob 0 0 0 else s2

/-- Host PETAL commands that wait at Petal units are discarded and complete with 0x0A08 (log entry 134); those at the dispatcher and those that
have run stay (R280). -/
def State.dropQueued (s : State) : State :=
  (s.petals.filter (fun q => q.host && q.stage == 1)).foldl (fun s q => s.finish q.ring q.seq 0x0A08 0 0)
    { s with petals := s.petals.filter (fun q => q.host && q.stage != 1) }

/-- What a stop under R40 adds: SPECULATIVE banks are discarded (R177), lists, item queues and return buffers emptied (R208), open
transfers and queued Petal commands dropped (R280, R303), a re-shard abandoned (R431), queues, answers and exchanges of the engines gone
(R366, R432). -/
def State.errStop (s : State) : State :=
  let s1 := ((s.discardAll.count (Reg.netResCount 0) 1).mapTiles TileState.afterError).dropQueued.dropDecisions
  let s2 := { s1 with
    shadow := []
    shadowFirst := []
    firstAt := []
    slotsUsed := []
    served := []
    lists := []
    grants := []
    wires := []
    exch := none
    layers := []
    domSums := []
    late := []
    reshard := none
    job := { s1.job with err := false, mustRestore := true, held := 0, heldBy := [], failed := 0, failTiles := [] } }
  let s3 := if (s1.reshard).isSome then s2.setFld Reg.netLayout 19 16 0 else s2
  (if (s3.jobCmd 9).isSome then s3.endJob 0x0809 0 0 else s3).stopJob 2

/-- A move abandoned under R40: no tick ends it. -/
def State.abandonMove (s : State) : State := ({ (s.setFld Reg.netMoveOffset 31 31 0).gradRecord with wires := [] }.dropRises).errStop

/-- The tick itself. At a stopping tick of R40 every SPECULATIVE bank is discarded, whatever was decided (R177). The scale tick clears the counts
before COMMIT releases shadow counts into them: what is counted in the cycle of a clear stays (R68, R127). -/
def State.tickNow (s : State) : State :=
  let s0 := s.tickScale
  let s1 := (if s.job.err then s0.discardAll else s0.resolveAll).tickLoss
  let s2 := (s1.tickMeter.holdEnd s.move).tickRecords s.move
  let cause := s2.stopCause
  let s3 := s2.nextMove
  if cause = 2 then s3.errStop
  else if cause ≠ 0 && s3.noSpec then s3.stopJob cause
  else s3

/-- Lateness of the move's operations that no command has reported is reported (R96, R139, R301). -/
def State.reportLates (s : State) : State :=
  s.tiles.foldl (fun s e =>
    let a := (List.range e.2.lateArray).foldl (fun s _ => s.reportArrayLate e.1) s
    let k := (List.range e.2.lateKnight).foldl (fun s _ => s.reportKnightLate e.1) a
    (List.range e.2.lateDma).foldl (fun s _ => s.reportDmaLate e.1) k) s

/-- The state in which R28 is evaluated: no row is in flight (R190), and every late operation has been reported. -/
def State.atEnd (s : State) : State := s.reportLates.settleRows

/-- The conditions evaluated at the end of a cycle at or after the last scheduled one (R29, R40). -/
def State.evaluate (s : State) : State :=
  if s.tickReady then s.tickNow
  else if s.job.err && s.prevented then s.abandonMove
  else
    let cs := s.conditions (s.landed && !s.reshardDue)
    let s1 := s.holdCycle cs
    match s1.reshard with
    | none => s1
    | some x => if s1.reshardDue && x.phase == 0 then s1.reshardPhase 1 else s1

/-- The end of such a cycle. -/
def State.cycleEnd (s : State) : State := s.atEnd.evaluate

/-- A move's last cycle has come. -/
def State.lastCycle (s : State) : Bool := s.running && !s.scheduleLeft

/-- TICK (R24, R29). -/
def execTick (s : State) : Host.Outcome State Fault Refusal := .next (if s.lastCycle then s.cycleEnd else s)

/-- The scale tick of R124, once, where SEQUENCE names this tick. -/
def State.scaleFirst (s : State) : State :=
  if s.scaleTickNow && !s.job.scaleDone then { s.scaleAll with job := { s.job with scaleDone := true } } else s

/-- The state of the tick cycle, when it has come: R28 holds at the end of the present cycle. -/
def State.tickCycle (s : State) : Option State := if s.lastCycle && s.atEnd.tickReady then some s.atEnd else none

/-- SCALE_TICK (R124): the adaptation, at the tick that SEQUENCE names. -/
def execScaleTick (s : State) : Host.Outcome State Fault Refusal :=
  match s.tickCycle with
  | none => .next s
  | some v => .next v.scaleFirst

/-- LOSS_SCALE_UPDATE (R325, R326): the rule, at the tick that ends a step. -/
def execLossScaleUpdate (s : State) : Host.Outcome State Fault Refusal :=
  match s.tickCycle with
  | none => .next s
  | some v =>
    if v.stepEnds && (!v.trainSec.isEmpty && !v.job.lossDone) then .next { v.lossRule with job := { v.lossRule.job with lossDone := true } }
    else .next v

/-- COMMIT and DISCARD act in the tick cycle (R175), after a scale tick's clears (R68, R127); not at a stopping tick of R40 (R177). -/
def State.resolveNow (s : State) (t : Nat) (confirm : Bool) : State :=
  match s.tickCycle with
  | none => s
  | some v => if v.job.err || (v.resolution t).isNone then v else v.scaleFirst.resolve t confirm

/-- COMMIT (R175, R176). -/
def execCommit (t : Tile) (s : State) : Host.Outcome State Fault Refusal := .next (s.resolveNow t.val true)

/-- DISCARD (R175, R176). -/
def execDiscard (t : Tile) (s : State) : Host.Outcome State Fault Refusal := .next (s.resolveNow t.val false)

/-- STEP_LIMIT_STOP (R246): the tick at which the step limit stops the job. -/
def execStepLimitStop (s : State) : Host.Outcome State Fault Refusal :=
  match s.tickCycle with
  | none => .next s
  | some v => .next (if v.limitNow then v.tickNow else v)

/-- RESHARD_FENCE (R431): every other condition of the tick holds, so barrier round 0 runs. -/
def execReshardFence (s : State) : Host.Outcome State Fault Refusal :=
  let v := s.atEnd
  .next (if s.lastCycle && (v.reshardDue && (v.conditions v.landed).all (fun c => c)) then
    match v.reshard with
    | none => v
    | some x => if x.phase ≤ 1 then (v.reshardPhase 2).reshardRun else v
  else s)

end Sys2Proof.Machine
end

