-- ==== Sys2Proof/Machine/Dispatch.lean ====
section
/-! DEFINITION. One arm for each command: its meaning on everything but the queue of commands. -/

namespace Sys2Proof.Machine

def exec (i : Instr) (s : State) : Host.Outcome State Fault Refusal :=
  match i with
  | .tick => Sys2Proof.Machine.execTick s
  | .scaleTick => Sys2Proof.Machine.execScaleTick s
  | .lossScaleUpdate => Sys2Proof.Machine.execLossScaleUpdate s
  | .stepLimitStop => Sys2Proof.Machine.execStepLimitStop s
  | .mma t env => Sys2Proof.Machine.execMma t env s
  | .distAbs t env => Sys2Proof.Machine.execDistAbs t env s
  | .distSq t env => Sys2Proof.Machine.execDistSq t env s
  | .minplus t env => Sys2Proof.Machine.execMinplus t env s
  | .arrayLate t => Sys2Proof.Machine.execArrayLate t s
  | .drain t env => Sys2Proof.Machine.execDrain t env s
  | .knCopy t env => Sys2Proof.Machine.execKnCopy t env s
  | .knAccumulate t env => Sys2Proof.Machine.execKnAccumulate t env s
  | .knExpand t env => Sys2Proof.Machine.execKnExpand t env s
  | .knPlan t env => Sys2Proof.Machine.execKnPlan t env s
  | .knSegment t env => Sys2Proof.Machine.execKnSegment t env s
  | .knPrune t env => Sys2Proof.Machine.execKnPrune t env s
  | .knCompress t env => Sys2Proof.Machine.execKnCompress t env s
  | .knMergeAcc t env => Sys2Proof.Machine.execKnMergeAcc t env s
  | .knMergeSeg t env => Sys2Proof.Machine.execKnMergeSeg t env s
  | .knightLate t => Sys2Proof.Machine.execKnightLate t s
  | .vecAdd t env => Sys2Proof.Machine.execVecAdd t env s
  | .vecSub t env => Sys2Proof.Machine.execVecSub t env s
  | .vecMul t env => Sys2Proof.Machine.execVecMul t env s
  | .vecFma t env => Sys2Proof.Machine.execVecFma t env s
  | .vecAxpy t env => Sys2Proof.Machine.execVecAxpy t env s
  | .vecMax t env => Sys2Proof.Machine.execVecMax t env s
  | .vecMin t env => Sys2Proof.Machine.execVecMin t env s
  | .vecCvt t env => Sys2Proof.Machine.execVecCvt t env s
  | .vecExp t env => Sys2Proof.Machine.execVecExp t env s
  | .vecRecip t env => Sys2Proof.Machine.execVecRecip t env s
  | .vecRsqrt t env => Sys2Proof.Machine.execVecRsqrt t env s
  | .vecQuant t env => Sys2Proof.Machine.execVecQuant t env s
  | .vecDequant t env => Sys2Proof.Machine.execVecDequant t env s
  | .vecQcal t env => Sys2Proof.Machine.execVecQcal t env s
  | .vecTopk t env => Sys2Proof.Machine.execVecTopk t env s
  | .vecTopkExit t env => Sys2Proof.Machine.execVecTopkExit t env s
  | .vecNorm t env => Sys2Proof.Machine.execVecNorm t env s
  | .vecOptim t env => Sys2Proof.Machine.execVecOptim t env s
  | .vecReduceForward t env => Sys2Proof.Machine.execVecReduceForward t env s
  | .vecReduceFinal t env => Sys2Proof.Machine.execVecReduceFinal t env s
  | .vecReducePublish t env => Sys2Proof.Machine.execVecReducePublish t env s
  | .vecReduceWiden t env => Sys2Proof.Machine.execVecReduceWiden t env s
  | .dmaIn t env => Sys2Proof.Machine.execDmaIn t env s
  | .dmaOut t env => Sys2Proof.Machine.execDmaOut t env s
  | .dmaLate t => Sys2Proof.Machine.execDmaLate t s
  | .dmaOutComplete t k env mem => Sys2Proof.Machine.execDmaOutComplete t k env mem s
  | .transferLanded t k env mem => Sys2Proof.Machine.execTransferLanded t k env mem s
  | .send t => Sys2Proof.Machine.execSend t s
  | .recv t => Sys2Proof.Machine.execRecv t s
  | .claim t => Sys2Proof.Machine.execClaim t s
  | .bankGive t => Sys2Proof.Machine.execBankGive t s
  | .bankWakeDone p b => Sys2Proof.Machine.execBankWakeDone p b s
  | .commit t => Sys2Proof.Machine.execCommit t s
  | .discard t => Sys2Proof.Machine.execDiscard t s
  | .slotStatic t e j env => Sys2Proof.Machine.execSlotStatic t e j env s
  | .slotAdd t e j env => Sys2Proof.Machine.execSlotAdd t e j env s
  | .slotReturn t e j hits => Sys2Proof.Machine.execSlotReturn t e j hits s
  | .listOpen d l => Sys2Proof.Machine.execListOpen d l s
  | .listClose d l => Sys2Proof.Machine.execListClose d l s
  | .keeperClaim t e j hits => Sys2Proof.Machine.execKeeperClaim t e j hits s
  | .keeperPublish src hits => Sys2Proof.Machine.execKeeperPublish src hits s
  | .workItemReceive k hits => Sys2Proof.Machine.execWorkItemReceive k hits s
  | .knightItem t env => Sys2Proof.Machine.execKnightItem t env s
  | .denseItem t env => Sys2Proof.Machine.execDenseItem t env s
  | .vectorItem t env => Sys2Proof.Machine.execVectorItem t env s
  | .framePush d f => Sys2Proof.Machine.execFramePush d f s
  | .frameOffload d f => Sys2Proof.Machine.execFrameOffload d f s
  | .offloadComplete d f mem => Sys2Proof.Machine.execOffloadComplete d f mem s
  | .framePrefetch d f => Sys2Proof.Machine.execFramePrefetch d f s
  | .prefetchComplete d f mem => Sys2Proof.Machine.execPrefetchComplete d f s mem
  | .framePop d f => Sys2Proof.Machine.execFramePop d f s
  | .voteFormation => Sys2Proof.Machine.execVoteFormation s
  | .voteFinal => Sys2Proof.Machine.execVoteFinal s
  | .decisionFormation d => Sys2Proof.Machine.execDecisionFormation d s
  | .decisionFinal => Sys2Proof.Machine.execDecisionFinal s
  | .expertDispatch l mem => Sys2Proof.Machine.execExpertDispatch l mem s
  | .expertReturn l mem => Sys2Proof.Machine.execExpertReturn l mem s
  | .expertCombine l mem => Sys2Proof.Machine.execExpertCombine l mem s
  | .reduceStagingCopy c mem => Sys2Proof.Machine.execReduceStagingCopy c mem s
  | .collectiveStage c mem => Sys2Proof.Machine.execCollectiveStage c mem s
  | .reshardFence => Sys2Proof.Machine.execReshardFence s
  | .snapshotCapture mem banks => Sys2Proof.Machine.execSnapshotCapture mem banks s
  | .snapshotCaptureDone => Sys2Proof.Machine.execSnapshotCaptureDone s
  | .snapshotPartnerSecured => Sys2Proof.Machine.execSnapshotPartnerSecured s
  | .snapshotFlashSecured ok => Sys2Proof.Machine.execSnapshotFlashSecured ok s
  | .selfTest j => Sys2Proof.Machine.execSelfTest j s
  | .selfTestVerdict j lasting slot => Sys2Proof.Machine.execSelfTestVerdict j lasting slot s
  | .eccRetest j again => Sys2Proof.Machine.execEccRetest j again s
  | .repairRecordWrite => Sys2Proof.Machine.execRepairRecordWrite s
  | .hbmRefresh k waited => Sys2Proof.Machine.execHbmRefresh k waited s
  | .hbmPatrolScrub hit => Sys2Proof.Machine.execHbmPatrolScrub hit s
  | .hbmSelfRefresh k => Sys2Proof.Machine.execHbmSelfRefresh k s
  | .hbmRepairGo k value resource => Sys2Proof.Machine.execHbmRepairGo k value resource s
  | .hbmRepairDone k => Sys2Proof.Machine.execHbmRepairDone k s
  | .petalDispatch env => Sys2Proof.Machine.execPetalDispatch s env
  | .gatherPool k order mem => Sys2Proof.Machine.execGatherPool k order mem s
  | .scatterAdd k order mem => Sys2Proof.Machine.execScatterAdd k order mem s
  | .sparseOptim k order mem => Sys2Proof.Machine.execSparseOptim k order mem s
  | .petalCompress k mem => Sys2Proof.Machine.execPetalCompress k mem s
  | .decompress k mem => Sys2Proof.Machine.execDecompress k mem s
  | .petalFill k mem => Sys2Proof.Machine.execPetalFill k s mem
  | .petalCopy k mem => Sys2Proof.Machine.execPetalCopy k mem s
  | .petalComplete k => Sys2Proof.Machine.execPetalComplete k s
  | .ownerStagingDrain => Sys2Proof.Machine.execOwnerStagingDrain s
  | .hbmOwnRead mem => Sys2Proof.Machine.execHbmOwnRead s mem
  | .hbmOwnWrite => Sys2Proof.Machine.execHbmOwnWrite s
  | .emptyFillDone => Sys2Proof.Machine.execEmptyFillDone s
  | .portSignalDetect p => Sys2Proof.Machine.execPortSignalDetect p s
  | .portTrained p lanes => Sys2Proof.Machine.execPortTrained p lanes s
  | .portTrainingTimeout p => Sys2Proof.Machine.execPortTrainingTimeout p s
  | .portTrainingRetry p => Sys2Proof.Machine.execPortTrainingRetry p s
  | .linkProbe p n => Sys2Proof.Machine.execLinkProbe p n s
  | .linkEcho p rtt => Sys2Proof.Machine.execLinkEcho p rtt s
  | .linkIdent p fields => Sys2Proof.Machine.execLinkIdent p fields s
  | .linkRetrain p => Sys2Proof.Machine.execLinkRetrain p s
  | .linkCredit p counts => Sys2Proof.Machine.execLinkCredit p counts s
  | .linkNack p seq => Sys2Proof.Machine.execLinkNack p seq s
  | .nackRepeat p => Sys2Proof.Machine.execNackRepeat p s
  | .markerReceive p counts => Sys2Proof.Machine.execMarkerReceive p counts s
  | .linkMarkerLost p => Sys2Proof.Machine.execLinkMarkerLost p s
  | .flitReceive p damage bytes => Sys2Proof.Machine.execFlitReceive p damage bytes s
  | .msgForward k => Sys2Proof.Machine.execMsgForward k s
  | .msgWrite k => Sys2Proof.Machine.execMsgWrite k s
  | .msgReadReq k mem => Sys2Proof.Machine.execMsgReadReq k mem s
  | .msgReadResp k => Sys2Proof.Machine.execMsgReadResp k s
  | .msgReduce k => Sys2Proof.Machine.execMsgReduce k s
  | .msgDispatch k => Sys2Proof.Machine.execMsgDispatch k s
  | .msgAnswer k => Sys2Proof.Machine.execMsgAnswer k s
  | .msgVote k => Sys2Proof.Machine.execMsgVote k s
  | .msgBarrier k => Sys2Proof.Machine.execMsgBarrier k s
  | .msgSnapshot k => Sys2Proof.Machine.execMsgSnapshot k s
  | .msgAck k => Sys2Proof.Machine.execMsgAck k s
  | .ackSend c => Sys2Proof.Machine.execAckSend c s
  | .xportResend c due => Sys2Proof.Machine.execXportResend c s due
  | .frakelCountReport port => Sys2Proof.Machine.execFrakelCountReport port s
  | .nop r => Sys2Proof.Machine.execNop r s
  | .load r => Sys2Proof.Machine.execLoad r s
  | .loadCheckOnly r => Sys2Proof.Machine.execLoadCheckOnly r s
  | .unload r => Sys2Proof.Machine.execUnload r s
  | .start r => Sys2Proof.Machine.execStart r s
  | .stop r => Sys2Proof.Machine.execStop r s
  | .register r => Sys2Proof.Machine.execRegister r s
  | .unregister r => Sys2Proof.Machine.execUnregister r s
  | .petal r => Sys2Proof.Machine.execPetal r s
  | .memcopy r => Sys2Proof.Machine.execMemcopy r s
  | .reshard r => Sys2Proof.Machine.execReshard r s
  | .flashRead r => Sys2Proof.Machine.execFlashRead r s
  | .returnSlot r => Sys2Proof.Machine.execReturn r s
  | .restore r => Sys2Proof.Machine.execRestore r s
  | .completionPost c => Sys2Proof.Machine.execCompletionPost c s
  | .sqDoorbell r value stores => Sys2Proof.Machine.execSqDoorbell r value stores s
  | .cqDoorbell c value => Sys2Proof.Machine.execCqDoorbell c value s
  | .ringCtlWrite cq r value => Sys2Proof.Machine.execRingCtlWrite cq r value s
  | .intCauseClear value set => Sys2Proof.Machine.execIntCauseClear value set s
  | .ioDieReset => Sys2Proof.Machine.execIoDieReset s
  | .dieReset => Sys2Proof.Machine.execDieReset s
  | .fundamentalReset perst gen width => Sys2Proof.Machine.execFundamentalReset perst gen width s
  | .flr => Sys2Proof.Machine.execFlr s
  | .d3hotEntry => Sys2Proof.Machine.execD3hotEntry s
  | .d0Return => Sys2Proof.Machine.execD0Return s
  | .hostPoisonedWrite => Sys2Proof.Machine.execHostPoisonedWrite s
  | .hostReadFault timeout => Sys2Proof.Machine.execHostReadFault timeout s
  | .bar0FaultAccess addr bytes => Sys2Proof.Machine.execBar0FaultAccess addr bytes s
  | .bar2Read addr bytes mem => Sys2Proof.Machine.execBar2Read addr bytes mem s
  | .bar2Write addr data mem => Sys2Proof.Machine.execBar2Write addr data s mem
  | .hostCountReport => Sys2Proof.Machine.execHostCountReport s
  | .powerOn x => Sys2Proof.Machine.execPowerOn x s
  | .perstDeassert gen width => Sys2Proof.Machine.execPerstDeassert gen width s
  | .hbmInitDone failed => Sys2Proof.Machine.execHbmInitDone failed s
  | .getIdentity q => Sys2Proof.Machine.execGetIdentity q s
  | .getCert q => Sys2Proof.Machine.execGetCert q s
  | .attest q => Sys2Proof.Machine.execAttest q s
  | .fwBegin q => Sys2Proof.Machine.execFwBegin q s
  | .fwData q => Sys2Proof.Machine.execFwData q s
  | .fwEnd q => Sys2Proof.Machine.execFwEnd q s
  | .fwActivate q => Sys2Proof.Machine.execFwActivate q s
  | .fwConfirm q => Sys2Proof.Machine.execFwConfirm q s
  | .fwReject q => Sys2Proof.Machine.execFwReject q s
  | .fwSessionTimeout => Sys2Proof.Machine.execFwSessionTimeout s
  | .fwTrialTimer k => Sys2Proof.Machine.execFwTrialTimer k s
  | .fwWatchdog k => Sys2Proof.Machine.execFwWatchdog k s
  | .servicePauseEnd selfTest => Sys2Proof.Machine.execServicePauseEnd selfTest s
  | .evtPost q => Sys2Proof.Machine.execEvtPost q s
  | .cfgGet q => Sys2Proof.Machine.execCfgGet q s
  | .cfgSet q => Sys2Proof.Machine.execCfgSet q s
  | .cfgDelete q => Sys2Proof.Machine.execCfgDelete q s
  | .settingsCompact => Sys2Proof.Machine.execSettingsCompact s
  | .mtrRead q => Sys2Proof.Machine.execMtrRead q s
  | .timeGet q => Sys2Proof.Machine.execTimeGet q s
  | .timeSet q => Sys2Proof.Machine.execTimeSet q s
  | .setEndpointId inst op eid => Sys2Proof.Machine.execSetEndpointId inst op eid s
  | .getEndpointId inst => Sys2Proof.Machine.execGetEndpointId inst s
  | .getMctpVersionSupport inst => Sys2Proof.Machine.execGetMctpVersionSupport inst s
  | .getMessageTypeSupport inst => Sys2Proof.Machine.execGetMessageTypeSupport inst s
  | .mboxGo => Sys2Proof.Machine.execMboxGo s
  | .mgtTimeWrite value => Sys2Proof.Machine.execMgtTimeWrite value s
  | .evtSelWrite value flips => Sys2Proof.Machine.execEvtSelWrite value flips s
  | .eventFlashDrain => Sys2Proof.Machine.execEventFlashDrain s
  | .evtDropReport => Sys2Proof.Machine.execEvtDropReport s
  | .meterSample mv ma => Sys2Proof.Machine.execMeterSample mv ma s
  | .meterSecond => Sys2Proof.Machine.execMeterSecond s
  | .meterWorkMessage ok => Sys2Proof.Machine.execMeterWorkMessage ok s
  | .meterLinkTimeout => Sys2Proof.Machine.execMeterLinkTimeout s
  | .meterTamper => Sys2Proof.Machine.execMeterTamper s
  | .meterSelfcheckFail => Sys2Proof.Machine.execMeterSelfcheckFail s
  | .inputVoltageChange mv => Sys2Proof.Machine.execInputVoltageChange mv s
  | .inputMarginTimeout => Sys2Proof.Machine.execInputMarginTimeout s
  | .inputRestored iodTest => Sys2Proof.Machine.execInputRestored iodTest s
  | .powerPeak => Sys2Proof.Machine.execPowerPeak s
  | .powerFast w => Sys2Proof.Machine.execPowerFast w s
  | .powerSlow w => Sys2Proof.Machine.execPowerSlow w s
  | .powerRaise => Sys2Proof.Machine.execPowerRaise s
  | .clockReducedNotice => Sys2Proof.Machine.execClockReducedNotice s
  | .sensorPoll x => Sys2Proof.Machine.execSensorPoll x s
  | .thermalTrip => Sys2Proof.Machine.execThermalTrip s
  | .tripRecovery iodTest => Sys2Proof.Machine.execTripRecovery iodTest s
  | .refclkCheck mclk fclk => Sys2Proof.Machine.execRefclkCheck mclk fclk s
  | .tlArrRepairWrite w value => Sys2Proof.Machine.execTlArrRepairWrite w value s
  | .dieRowRepairWrite d y value => Sys2Proof.Machine.execDieRowRepairWrite d y value s
  | .tlBankOwnWrite w b value => Sys2Proof.Machine.execTlBankOwnWrite w b value s
  | .tlQntWrite w off value => Sys2Proof.Machine.execTlQntWrite w off value s
  | .qntCalReset w => Sys2Proof.Machine.execQntCalReset w s
  | .netStepLimitWrite value => Sys2Proof.Machine.execNetStepLimitWrite value s
  | .hbmCastleSizeWrite d value => Sys2Proof.Machine.execHbmCastleSizeWrite d value s
  | .frkAddrWrite axes value => Sys2Proof.Machine.execFrkAddrWrite axes value s
  | .xepochWrite value => Sys2Proof.Machine.execXepochWrite value s
  | .frkRouteRead => Sys2Proof.Machine.execFrkRouteRead s
  | .frkRouteWrite => Sys2Proof.Machine.execFrkRouteWrite s
  | .portRetrain p => Sys2Proof.Machine.execPortRetrain p s
  | .netRepairRead => Sys2Proof.Machine.execNetRepairRead s
  | .netRepairRemove => Sys2Proof.Machine.execNetRepairRemove s
  | .snapNow => Sys2Proof.Machine.execSnapNow s
  | .castleClear => Sys2Proof.Machine.execCastleClear s
  | .counterClear addr value same => Sys2Proof.Machine.execCounterClear addr value same s
  | .registerWrite addr wide value => Sys2Proof.Machine.execRegisterWrite addr wide value s
  | .flitBoundary p => Sys2Proof.Machine.execFlitBoundary p s
  | .memcopyComplete k mem => Sys2Proof.Machine.execMemcopyComplete k mem s
  | .flashReadComplete k => Sys2Proof.Machine.execFlashReadComplete k s

end Sys2Proof.Machine
end

