-- ==== Sys2Proof/Safety.lean ====
section
/-! DEFINITION. What counts as a safe run, in the terms the claims use: steps answer next states, memories and the register table stay
canonical, and what a command leaves as it was. -/

namespace Sys2Proof.Machine

/-! ### Next states -/

/-- An outcome is a next state: neither a fault nor a refusal. -/
def goesOn (o : Host.Outcome State Fault Refusal) : Prop := ∃ t, o = .next t

/-- The command answers a next state, and that state satisfies `P`. -/
def answers (c : Instr) (s : State) (P : State → Prop) : Prop := ∃ u, exec c s = .next u ∧ P u

/-! ### Canonical tables -/

/-- Every byte memory of the block has its one form: addresses strictly rising, no entry of the value an unlisted byte reads as. -/
def State.memWf (s : State) : Bool :=
  Memory.wf s.sram && (Memory.wf s.hbm && (Memory.wf s.hostMem && (Memory.wf s.flash && (Memory.wf s.msix && Memory.wf s.mgmt.mboxBuf))))

/-- The register table has its one form. -/
def State.regsWf (s : State) : Bool := Sparse.wf Reg.reset s.regs

/-- A state in which every table of registers and bytes is canonical. -/
def State.Canonical (s : State) : Prop := s.memWf = true ∧ s.regsWf = true

/-! ### What a command leaves as it was -/

/-- Every register outside `p` reads as before. -/
def regsKept (p : Nat → Prop) (s u : State) : Prop := ∀ k, ¬ p k → u.reg k = s.reg k

/-- Every byte of a memory outside `p` reads as before. -/
def bytesKept (p : Nat → Prop) (m n : Mem) : Prop := ∀ a, ¬ p a → Mem.byte n a = Mem.byte m a

/-- No byte of a memory changes. -/
def bytesSame (m n : Mem) : Prop := bytesKept (fun _ => False) m n

/-- The banks of the tiles and their valid bits are as before. -/
def banksKept (s u : State) : Prop := bytesSame s.sram u.sram ∧ u.lineValid = s.lineValid

/-- Host memory, flash and the MSI-X table are as before. -/
def hostSideKept (s u : State) : Prop := bytesSame s.hostMem u.hostMem ∧ bytesSame s.flash u.flash ∧ bytesSame s.msix u.msix

/-- Every byte of every memory is as before. -/
def memoriesKept (s u : State) : Prop :=
  banksKept s u ∧ bytesSame s.hbm u.hbm ∧ hostSideKept s u ∧ bytesSame s.mgmt.mboxBuf u.mgmt.mboxBuf

/-- The tiles' engines and queues, and the job's image, are as before. -/
def tilesKept (s u : State) : Prop := u.tiles = s.tiles ∧ u.lists = s.lists ∧ u.grants = s.grants ∧ u.wires = s.wires ∧ u.frames = s.frames

/-- The transport, the links and the exchanges with other devices are as before. -/
def networkKept (s u : State) : Prop :=
  u.ports = s.ports ∧ u.arrived = s.arrived ∧ u.routes = s.routes ∧ u.conns = s.conns ∧ u.exch = s.exch ∧ u.votes = s.votes
    ∧ u.barriers = s.barriers ∧ u.colls = s.colls ∧ u.layers = s.layers

/-- The management controller, the metering chip and the power manager are as before. -/
def moduleKept (s u : State) : Prop := u.mgmt = s.mgmt ∧ u.meter = s.meter ∧ u.power = s.power

/-- A register of the window of physical tile `p`. -/
def ofTile (p k : Nat) : Prop := inTile p k = true

/-- A byte of a bank of physical tile `p`. -/
def inBanks (p a : Nat) : Prop := p * 2 ^ 21 ≤ a ∧ a < (p + 1) * 2 ^ 21

/-- Bytes [a, a + n). -/
def inRange (a n x : Nat) : Prop := a ≤ x ∧ x < a + n

end Sys2Proof.Machine
end

