-- ==== Sys2Proof/Certificates/Slice0/Obligations.lean ====
section
/-! DEFINITION. The statements about the ZT4 that the provers are asked to prove, family by family of the command table. A statement
whose conclusion is `answers c s P` says that the command completes and what the state it answers holds. -/

open Sys2Proof Sys2Proof.Machine

/-! ### The queue, reset, and the rules of the whole machine -/

/-- A step carries out the command at the front of the queue, on the state with the queue's rest. On an empty queue the block idles: while the
management controller runs the module clock advances by 1 µs, HBM stacks whose training was under way are found filling, and nothing else
changes (the model's choice: log entries 1 and 136). -/
def Obligations.StepRunsTheFrontCommand : Prop :=
  (∀ (s : State) (c : Instr) (rest : List Instr), s.pending = c :: rest → step s = exec c { s with pending := rest })
  ∧ ∀ s : State, s.pending = [] → ∃ u, step s = .next u ∧
    u = { s with regs := u.regs }
    ∧ regsKept (fun k => k = Reg.mgtTime ∨ k = Reg.hqDevStatus ∨ k = Reg.hbmScrubStatus ∨ ∃ i < 16, k = Reg.hbmStatus i) s u
    ∧ u.reg Reg.mgtTime = (if s.mgmt.running then (s.reg Reg.mgtTime + 1) % 2 ^ 64 else s.reg Reg.mgtTime)
    ∧ (s.fld Reg.hqDevStatus 7 4 ≠ 2 → regsKept (fun k => k = Reg.mgtTime) s u)
    ∧ (s.fld Reg.hqDevStatus 7 4 = 2 → u.fld Reg.hqDevStatus 7 4 = 3 ∧ u.filling = true ∧ ∀ i < 16, u.fld (Reg.hbmStatus i) 2 0 = 2)

/-- Registers whose Reset column gives a value other than 0, with that value (R106, R209, R247, R281, R335, R405, R485). -/
def statedResets : List (Nat × Nat) :=
  [(Reg.tlArrCtl 0, 0x1001), (Reg.tlArrCtl 1087, 0x1001), (Reg.tlQntChScale 5 63, 0x3F800000), (Reg.tlQntChRscale 5 63, 0x3F800000),
   (Reg.tlQntChMin 5 0, 0x7F800000), (Reg.tlQntChMax 5 0, 0xFF800000), (Reg.netHoldLimit, 0x1000), (Reg.netScaleTick, 0xFFFFFFFF),
   (Reg.netLossCtl, 0x7D00010), (Reg.frkAxes, 0x01010101), (Reg.hqIntCtl, 0x40000), (Reg.hqSqCtl 63, 0x400), (Reg.hqCqCtl 63, 0x400)]

/-- After reset: the job state is EMPTY, no move has been counted, every bank is RETAINED, no interrupt cause stands, no cause of a stop
is shown, the registers of `statedResets` hold the values their tables give, every ring is disabled, and no command waits. -/
def Obligations.ResetLeavesTheStatedValues : Prop :=
  (∀ q ∈ statedResets, State.reset.reg q.1 = q.2) ∧ State.reset.jobState = jobEMPTY ∧ State.reset.move = 0
    ∧ (∀ p < 1088, ∀ b < 4, State.reset.bankState p b = ownRETAINED) ∧ State.reset.reg Reg.hqIntCause = 0
    ∧ State.reset.fld Reg.netJobState 10 8 = 0
    ∧ (∀ r < 64, State.reset.sqEnabled r = false ∧ State.reset.cqEnabled r = false) ∧ State.reset.pending = []

/-- The state after reset is canonical: every table of registers and bytes has its one form. -/
def Obligations.ResetIsCanonical : Prop := State.reset.Canonical

/-- Every step from every state answers a next state: no command of the table faults or is refused. And from a canonical state it is canonical: no
command breaks the one form of a memory or of the register table. -/
def Obligations.EveryStepGoesOnAndKeepsTablesCanonical : Prop :=
  ∀ s : State, goesOn (step s) ∧ ∀ u, s.Canonical → step s = .next u → u.Canonical

/-- Commands that may change the move number: those that end a move, a RESTORE, a load, and what resets the dies, the service pauses of the I/O
die's firmware among it (R24, R247, R460, R482, R495). -/
def changesMove : Instr → Bool
  | .tick => true
  | .stepLimitStop => true
  | .restore _ => true
  | .load _ => true
  | .unload _ => true
  | .dieReset => true
  | .flr => true
  | .fundamentalReset _ _ _ => true
  | .ioDieReset => true
  | .perstDeassert _ _ => true
  | .hbmInitDone _ => true
  | .powerOn _ => true
  | .inputVoltageChange _ => true
  | .inputRestored _ => true
  | .thermalTrip => true
  | .tripRecovery _ => true
  | .refclkCheck _ _ => true
  | .registerWrite _ _ _ => true
  | .fwActivate _ => true
  | .fwReject _ => true
  | .fwWatchdog _ => true
  | .servicePauseEnd _ => true
  | _ => false

/-- No command changes the queue of commands that wait behind it, nor the order number of the module (R1, R2); and the move number changes at
ticks only, and where a RESTORE, a load or a reset that reaches the dies sets it. -/
def Obligations.CommandsKeepQueueOrderAndMove : Prop :=
  ∀ (c : Instr) (s u : State), exec c s = .next u →
    u.pending = s.pending ∧ u.small = s.small ∧ (changesMove c = false → u.move = s.move)

/-- A counter that counts n events holds the sum, at most its all-ones value; every other register, every memory and every unit's state
is as before. -/
def Obligations.CountersSaturate : Prop :=
  ∀ (s : State) (k n : Nat), 0 < n →
    (s.count k n).reg k = min (s.reg k + n) (2 ^ counterWidth k - 1)
    ∧ regsKept (fun j => j = k) s (s.count k n)
    ∧ s.count k n = { s with regs := (s.count k n).regs, rises := (s.count k n).rises }

/-! ### Words of a tile's body (R22, R230) -/

/-- The tile and the words that a command of the sequencers starts with. -/
def wordTest (s : State) : Instr → Option (Tile × (Nat → Bool))
  | .mma t _ => some (t, fun w => wOpcode w == 1)
  | .distAbs t _ => some (t, fun w => wOpcode w == 2)
  | .distSq t _ => some (t, fun w => wOpcode w == 3)
  | .minplus t _ => some (t, fun w => wOpcode w == 4)
  | .drain t _ => some (t, fun w => wOpcode w == 5)
  | .knCopy t _ => some (t, fun w => wOpcode w == 0x10 && bits w 51 48 == 0)
  | .knAccumulate t _ => some (t, fun w => wOpcode w == 0x10 && bits w 51 48 == 1)
  | .knExpand t _ => some (t, fun w => wOpcode w == 0x10 && bits w 51 48 == 2)
  | .knPlan t _ => some (t, fun w => wOpcode w == 0x12 && bits w 51 48 == 0)
  | .knSegment t _ => some (t, fun w => wOpcode w == 0x12 && bits w 51 48 == 1)
  | .knPrune t _ => some (t, fun w => wOpcode w == 0x12 && bits w 51 48 == 2)
  | .knCompress t _ => some (t, fun w => wOpcode w == 0x12 && bits w 51 48 == 3)
  | .knMergeAcc t _ => some (t, fun w => wOpcode w == 0x11 && bits w 51 48 == 0)
  | .knMergeSeg t _ => some (t, fun w => wOpcode w == 0x11 && bits w 51 48 == 1)
  | .vecAdd t _ => some (t, fun w => wOpcode w == 0x20)
  | .vecSub t _ => some (t, fun w => wOpcode w == 0x21)
  | .vecMul t _ => some (t, fun w => wOpcode w == 0x22)
  | .vecFma t _ => some (t, fun w => wOpcode w == 0x23)
  | .vecAxpy t _ => some (t, fun w => wOpcode w == 0x24)
  | .vecMax t _ => some (t, fun w => wOpcode w == 0x25)
  | .vecMin t _ => some (t, fun w => wOpcode w == 0x26)
  | .vecCvt t _ => some (t, fun w => wOpcode w == 0x27)
  | .vecExp t _ => some (t, fun w => wOpcode w == 0x29)
  | .vecRecip t _ => some (t, fun w => wOpcode w == 0x2A)
  | .vecRsqrt t _ => some (t, fun w => wOpcode w == 0x2B)
  | .vecQuant t _ => some (t, fun w => wOpcode w == 0x30)
  | .vecDequant t _ => some (t, fun w => wOpcode w == 0x31)
  | .vecQcal t _ => some (t, fun w => wOpcode w == 0x32)
  | .vecTopk t _ => some (t, fun w => wOpcode w == 0x38 && (s.topkRec t.val (bits w 125 118)).mode != 2)
  | .vecTopkExit t _ => some (t, fun w => wOpcode w == 0x38 && (s.topkRec t.val (bits w 125 118)).mode == 2)
  | .vecNorm t _ => some (t, fun w => wOpcode w == 0x39)
  | .vecOptim t _ => some (t, fun w => wOpcode w == 0x3A)
  | .dmaIn t _ => some (t, fun w => wOpcode w == 0x40)
  | .dmaOut t _ => some (t, fun w => wOpcode w == 0x41)
  | .send t => some (t, fun w => wOpcode w == 0x42)
  | .recv t => some (t, fun w => wOpcode w == 0x43)
  | .claim t => some (t, fun w => wOpcode w == 0x44)
  | .bankGive t => some (t, fun w => wOpcode w == 0x48)
  | _ => none

/-- A sequencer starts the next word of its body in order: exactly when the job runs and is not held, the word is not the end marker and
is of the command's kind, and its offset has not passed. It then stands past that word, the offset within the move is the word's, and no
other register, no bank and no other memory has changed. A command whose tile starts no such word now changes nothing: the event has not
arisen. One whose tile starts it completes, whatever the banks and ports bring: the sequencer stands past the word, the job runs on in the
same move, and no memory but the tile's own banks has changed. -/
def Obligations.SequencersStartWordsInOrder : Prop :=
  (∀ (s : State) (t : Nat) (ok : Nat → Bool),
    ((s.start t ok).isSome = true ↔ s.running = true ∧ s.held = false ∧
      ∃ w, s.nextWord t = some w ∧ ok w = true ∧ s.offset ≤ wOffset w)
    ∧ ∀ w i u, s.start t ok = some (w, i, u) →
      s.nextWord t = some w ∧ i = (s.tile (s.phys t)).next ∧ (u.tile (s.phys t)).next = i + 1 ∧ u.offset = wOffset w ∧ u.held = false
      ∧ regsKept (fun k => k = Reg.netMoveOffset) s u ∧ memoriesKept s u ∧ (∀ x, x ≠ s.phys t → u.tile x = s.tile x))
  ∧ (∀ (s : State) (c : Instr) (t : Tile) (ok : Nat → Bool), wordTest s c = some (t, ok) → s.start t.val ok = none → exec c s = .next s)
  ∧ ∀ (s s0 : State) (c : Instr) (t : Tile) (ok : Nat → Bool) (w i : Nat), wordTest s c = some (t, ok) → s.start t.val ok = some (w, i, s0) →
    let p := s.phys t.val
    answers c s (fun u => (u.tile p).next = i + 1 ∧ u.offset = wOffset w ∧ u.held = false ∧ u.jobState = jobRUNNING ∧ u.move = s.move
      ∧ bytesKept (inBanks p) s.sram u.sram ∧ bytesSame s.hbm u.hbm ∧ hostSideKept s u ∧ (∀ x, x ≠ p → u.tile x = s.tile x))

/-! ### The dense array, the Knight engine and the vector engine -/

/-- The environment brings an operation no bit flip, no contention, no array fault and no residue. -/
def quiet (env : OpEnv) : Prop := env.flips = [] ∧ env.clashes = [] ∧ env.hits = [] ∧ env.residue = false

/-- `u` is `s` but for how the tiles' state is listed: every tile is as in `s`. -/
def sameTiles (s u : State) : Prop := u = { s with tiles := u.tiles } ∧ ∀ x, u.tile x = s.tile x

/-- The array commands and their opcodes. -/
def arrayCommands : List (Nat × (Tile → OpEnv → Instr)) := [(1, .mma), (2, .distAbs), (3, .distSq), (4, .minplus)]

/-- What the chunks of an array operation that no mask skips leave in the accumulators of its rows (R83, R86, R87, R98): the mask is read four
cycles before the word's offset. -/
def arrayRows (s : State) (t : Nat) (w : Nat) : ArrAcc :=
  let f := arrWord w
  let p := s.phys t
  let v := s.viewAt p .feeder (wPre w) (wOffset w)
  let prm := s.param t f.param
  let mode := arrMode (wOpcode w) f
  let present := maskBits ((s.viewAt p .feeder (wPre w) (wOffset w - 4)).maskOf p f prm) f.kc
  (List.range f.kc).foldl (fun x j =>
    if present.getD j false then v.chunk t p f mode (leAt prm 2 2 % 2 ^ 15) (leAt prm 4 2 % 2 ^ 15) j x else x) (startAcc (s.tile p) f mode)

/-- MMA, DIST_ABS, DIST_SQ and MINPLUS complete when their word starts: accumulator (m, n) of the word's set, m < M and n < N, holds what
its chunks add to it, the set's record has the operation's mode, and no bank, no HBM byte and no other tile changes. A word with a count
of zero requests no operation, and after an uncorrectable error of the move none is begun: only the sequencer moves on. -/
def Obligations.ArrayOperationsAccumulate : Prop :=
  ∀ q ∈ arrayCommands, ∀ (s s0 : State) (t : Tile) (env : OpEnv) (w i : Nat),
    s.start t.val (fun w => wOpcode w == q.1) = some (w, i, s0) →
    ((arrWord w).m = 0 ∨ (arrWord w).n = 0 ∨ (arrWord w).kc = 0 ∨ s.job.err = true → exec (q.2 t env) s = .next s0)
    ∧ (quiet env → s.job.err = false →
    0 < (arrWord w).m → (arrWord w).m ≤ 64 → 0 < (arrWord w).n → (arrWord w).n ≤ 64 → 0 < (arrWord w).kc →
    (arrMode (wOpcode w) (arrWord w) = .comp → (arrWord w).set = 0) →
    answers (q.2 t env) s (fun u =>
      (∀ m < (arrWord w).m, ∀ n < (arrWord w).n,
        (u.tile (s0.phys t.val)).accAt (arrWord w).set m n = ((arrayRows s0 t.val w).rows.getD m []).getD n 0 % 2 ^ 32)
      ∧ ((u.tile (s0.phys t.val)).accSet (arrWord w).set).mode = (arrMode (wOpcode w) (arrWord w)).code
      ∧ memoriesKept s u ∧ (∀ x, x ≠ s0.phys t.val → u.tile x = s.tile x)))

/-- The commands that report a late operation: how they are sent, the count of late operations they act on, the code they report (R96, R139,
R301). -/
def lateCommands : List ((Tile → Instr) × (TileState → Nat) × Nat) :=
  [(.arrayLate, (fun x => x.lateArray), 0x0911), (.knightLate, (fun x => x.lateKnight), 0x0912), (.dmaLate, (fun x => x.lateDma), 0x091B)]

/-- ARRAY_LATE, KNIGHT_LATE and DMA_LATE report an operation that lost more cycles than its guard as an uncorrectable error: one operation
fewer is to be reported, a self-test of the tile waits, and a running job has met an error of R40. Without such an operation nothing
changes. -/
def Obligations.LateOperationsAreUncorrectableErrors : Prop :=
  ∀ q ∈ lateCommands, ∀ (s : State) (t : Tile),
    (0 < q.2.1 (s.tile (s.phys t.val)) → answers (q.1 t) s (fun u =>
      q.2.1 (u.tile (s.phys t.val)) + 1 = q.2.1 (s.tile (s.phys t.val))
      ∧ (∃ b, u.job.tests = s.job.tests ++ [⟨q.2.2, pDie (s.phys t.val), pY (s.phys t.val), pX (s.phys t.val), 0, false, b⟩])
      ∧ (s.running = true → u.job.err = true)
      ∧ memoriesKept s u ∧ (∀ x, x ≠ s.phys t.val → u.tile x = s.tile x) ∧ u.move = s.move))
    ∧ (q.2.1 (s.tile (s.phys t.val)) = 0 → exec (q.1 t) s = .next s)

/-- DRAIN completes when its word starts: each of its M rows is written, in its format, at its place in the destination, with the elements
that steps 1 to 5 of R60 give, columns below the held N and valid ones alone; every other byte of every bank is as before. Row k is written
nine cycles after the offset, and one or two cycles for each row before it, so that is when its bank has to admit the write. A word with M 0
requests no operation, and after an uncorrectable error of the move none is begun. -/
def Obligations.DrainWritesItsRows : Prop :=
  ∀ (s s0 : State) (t : Tile) (env : OpEnv) (w i : Nat),
    s.start t.val (fun w => wOpcode w == 5) = some (w, i, s0) →
    let f := drainWord w
    let p := s0.phys t.val
    let t0 := wOffset w
    let back := s0.backOf t.val i
    let v := s0.viewAt p .drainParam (wPre w) t0
    let a := (s0.tile p).accSet f.set
    let seed := match back with
      | some r => leAt r 1 1 == 0
      | none => false
    let d := s0.drainSet (s0.viewAt p .drainParam (wPre w) (t0 - 8)) t.val p a.heldN f (s0.param t.val f.param) seed
    let row := fun k => elemBytes f.fmt (((v.drainElems p f d a back (s0.tile p) k).take
      (v.drainCols t.val (f.dstLine + k * pitchLines f.fmt) a.heldN)).map (fun e => e.out))
    (f.m = 0 ∨ s.job.err = true → exec (.drain t env) s = .next s0)
    ∧ (quiet env → s.job.err = false → 0 < f.m → a.heldN ≤ 64 → 64 * f.dstLine + f.m * pitch f.fmt ≤ 2 ^ 21 →
    (∀ k < f.m, s0.writeOkAt p (bankOf (64 * (f.dstLine + k * pitchLines f.fmt))) .drain (wPre w) (t0 + f.beat * k + 9) = true) →
    answers (.drain t env) s (fun u =>
      (∀ k < f.m, u.bankRead p (64 * (f.dstLine + k * pitchLines f.fmt)) (row k).length = row k)
      ∧ bytesKept (inRange (sramKey p (64 * f.dstLine)) (f.m * pitch f.fmt)) s.sram u.sram
      ∧ bytesSame s.hbm u.hbm ∧ hostSideKept s u ∧ u.move = s.move))

/-- The commands of the Knight engine: opcode, mode, command, and the action on the state and on the engine's view of it, for tile, OP_INDEX,
first cycle and word. -/
def knightCommands : List (Nat × Nat × (Tile → OpEnv → Instr) × (State → State → Nat → Nat → Nat → KnWord → State)) :=
  [(0x10, 0, .knCopy, fun s v p i t0 f => s.knCopy v p i t0 f),
   (0x10, 1, .knAccumulate, fun s v p i t0 f => s.knAccumulate v p i t0 f),
   (0x10, 2, .knExpand, fun s v p i t0 f => if f.sfmt = 2 then s.expandBlocked v p i t0 f else s.expandTwo v p i t0 f),
   (0x12, 0, .knPlan, fun s v p i t0 f => s.knPlan v p i t0 f),
   (0x12, 1, .knSegment, fun s v p i t0 f => s.knSegment v p i t0 f),
   (0x12, 2, .knPrune, fun s v p _ _ f => s.twoOfFour v p f (fun s _ _ => s.countS f.pre (Reg.tlKnCount p 5) 1)),
   (0x12, 3, .knCompress, fun s v p i t0 f => s.twoOfFour v p f (fun s r g => s.malformed p f.pre 0x0301 i (t0 + r * f.beats) g)),
   (0x11, 0, .knMergeAcc, fun s _ p _ _ f => s.knMergeAcc p f),
   (0x11, 1, .knMergeSeg, fun s v p i t0 f => s.knMergeSeg v p i t0 f)]

/-- A Knight operation under way on tile `p`, as its engine's list of operations holds it (R139). -/
def knRun (s : State) (p opcode mode i w : Nat) (f : KnWord) : OpRun :=
  ⟨2, f.pre, false, i, knModeCode opcode mode, wOffset w, wOffset w, wOffset w + (s.view p .knight f.pre).knCycles p opcode f - 1, f.guard, 0, 1,
    [], []⟩

/-- Every Knight command completes when its word starts. A word with a count of zero requests no operation; a DYNAMIC ACCUMULATE is kept for
the claimed items that run under it. Any other acts as its mode says, on the state in which its operation is under way; banks of other
tiles, HBM and host memory are as before. -/
def Obligations.KnightOperationsActAsTheirModeSays : Prop :=
  ∀ q ∈ knightCommands, ∀ (s s0 : State) (t : Tile) (env : OpEnv) (w i : Nat),
    s.start t.val (fun w => wOpcode w == q.1 && bits w 51 48 == q.2.1) = some (w, i, s0) →
    let p := s0.phys t.val
    let f := knWord w (s0.param t.val (bits w 78 71))
    let v := s0.view p .knight f.pre
    (f.isDyn q.1 = true → answers (q.2.2.1 t env) s (fun u => u = s0.modTile p (fun x => { x with dynOp := i })))
    ∧ (f.isDyn q.1 = false → f.idle q.1 = true → exec (q.2.2.1 t env) s = .next s0)
    ∧ (f.isDyn q.1 = false → f.idle q.1 = false → quiet env →
      s0.blockedReads p .knight f.pre (v.knRuns p q.1 f) ++ s0.blockedWrites p .knight f.pre (v.knWrites p q.1 f) = [] →
      ∃ r u, sameTiles (s0.beginOp p (knRun s0 p q.1 q.2.1 i w f)) r ∧ exec (q.2.2.1 t env) s = .next u
        ∧ u = q.2.2.2 r (r.view p .knight f.pre) p i (wOffset w) f
        ∧ bytesKept (inBanks p) s.sram u.sram ∧ bytesSame s.hbm u.hbm ∧ hostSideKept s u ∧ u.move = s.move
        ∧ (∀ x, x ≠ p → u.tile x = s.tile x))

/-- KN_PLAN writes the path map and counts its blocks: bit j is 1 for exactly the well-formed blocks with more than T non-zeros. SEGMENT cuts
a row of L non-zeros into items that follow one another, cover the row exactly, and hold at most 4,096 non-zeros each. A COPY by an index
list writes at destination row r the source row that entry r names, a row of zeros where it names none. MERGE_ACC adds the merge buffer to
the accumulators of its set, M rows of the held N columns. -/
def Obligations.KnightPlansPathsAndCutsRows : Prop :=
  (∀ (s s0 : State) (t : Tile) (env : OpEnv) (w i : Nat),
    quiet env → s.start t.val (fun w => wOpcode w == 0x12 && bits w 51 48 == 0) = some (w, i, s0) →
    let p := s0.phys t.val
    let f := knWord w (s0.param t.val (bits w 78 71))
    let v := s0.view p .knight f.pre
    0 < f.kc → f.kc ≤ 64 → 64 * f.aux + 8 ≤ 2 ^ 21 → s0.writeOkAt p (bankOf (64 * f.aux)) .knight f.pre s0.offset = true →
    answers (.knPlan t env) s (fun u =>
      (∀ j < 64, isBit (leNat (u.bankRead p (64 * f.aux) 8)) j =
        (decide (j < f.kc) && (!(v.blkHdr p f.rowptr j).bad f.rowptr f.vfmt && decide (f.t < (v.blkHdr p f.rowptr j).nnz))))
      ∧ bytesKept (inRange (sramKey p (64 * f.aux)) 8) s.sram u.sram))
  ∧ (∀ (r item st len : Nat),
    ((knItems r item [(st, len)]).length = segCount len)
    ∧ (((knItems r item [(st, len)]).map (fun b => leAt b 8 2)).foldl (· + ·) 0 = len)
    ∧ (∀ k < segCount len, st + len < 2 ^ 32 → leAt ((knItems r item [(st, len)]).getD k []) 4 4 = st + 4096 * k
        ∧ leAt ((knItems r item [(st, len)]).getD k []) 8 2 ≤ 4096))
  ∧ (∀ (s s0 : State) (t : Tile) (env : OpEnv) (w i : Nat),
    quiet env → s.start t.val (fun w => wOpcode w == 0x10 && bits w 51 48 == 0) = some (w, i, s0) →
    let p := s0.phys t.val
    let f := knWord w (s0.param t.val (bits w 78 71))
    let v := s0.view p .knight f.pre
    let at_ := fun r => 64 * (f.dst + r * pitchLines f.vfmt)
    f.sRows ≠ 0 → f.l ≠ 0 → f.vfmt ≤ 6 → at_ f.l ≤ 2 ^ 21 →
    (∀ r < f.l, s0.writeOkAt p (bankOf (at_ r)) .knight f.pre s0.offset = true) →
    answers (.knCopy t env) s (fun u =>
      (∀ r < f.l, u.bankRead p (at_ r) (rowData f.vfmt) =
        (let k := v.arrElem p f.index (if f.ifmt = 0 then 1 else 0) r
        if k < f.sRows then v.bankRead p (64 * (f.src + k * pitchLines f.vfmt)) (rowData f.vfmt) else List.replicate (rowData f.vfmt) 0))
      ∧ bytesKept (inRange (sramKey p (at_ 0)) (at_ f.l - at_ 0)) s.sram u.sram))
  ∧ ∀ (s s0 : State) (t : Tile) (env : OpEnv) (w i : Nat),
    quiet env → s.start t.val (fun w => wOpcode w == 0x11 && bits w 51 48 == 0) = some (w, i, s0) →
    let p := s0.phys t.val
    let f := knWord w (s0.param t.val (bits w 78 71))
    let x := s.tile p
    f.m ≤ 64 → (x.accSet f.buf).heldN ≤ 64 →
    answers (.knMergeAcc t env) s (fun u =>
      (∀ m < f.m, ∀ n < (x.accSet f.buf).heldN,
        (u.tile p).accAt f.buf m n = f32Add (x.accAt f.buf m n) (x.bufAt f.buf m n) % 2 ^ 32)
      ∧ (0 < f.m → ((u.tile p).accSet f.buf).mode = 1) ∧ memoriesKept s u ∧ (∀ y, y ≠ p → u.tile y = s.tile y))

/-- The element commands of the vector engine and their opcodes (R237, R116). -/
def elementCommands : List (Nat × (Tile → OpEnv → Instr)) :=
  [(0x20, .vecAdd), (0x21, .vecSub), (0x22, .vecMul), (0x23, .vecFma), (0x24, .vecAxpy), (0x25, .vecMax), (0x26, .vecMin), (0x27, .vecCvt),
   (0x29, .vecExp), (0x2A, .vecRecip), (0x2B, .vecRsqrt), (0x30, .vecQuant), (0x31, .vecDequant)]

/-- Each element command completes when its word starts: row r of the destination holds, in the output format, the operation's value of
each column of row r of its sources as they stood when it started; every other byte of every bank is as before, and of the registers at
most counters and the first record of the tile have changed. A word with ROWS 0 requests no operation. -/
def Obligations.VectorElementRowsAreWritten : Prop :=
  ∀ q ∈ elementCommands, ∀ (s s0 : State) (t : Tile) (env : OpEnv) (w i : Nat),
    s.start t.val (fun w => wOpcode w == q.1) = some (w, i, s0) →
    let p := s0.phys t.val
    let f := vecWord w
    let v := s0.view p .vector f.pre
    let row := fun r => elemBytes (v.vecOutFmt p q.1 f) ((v.vecRow t.val p q.1 f r).map (fun e => e.1))
    let at_ := fun r => f.dst + r * pitch (v.vecOutFmt p q.1 f)
    (f.rows = 0 → exec (q.2 t env) s = .next s0)
    ∧ (quiet env → f.rows ≠ 0 →
    s0.blockedReads p .vector f.pre (s0.vecReads p q.1 f) ++ s0.blockedWrites p .vector f.pre (s0.vecWrites p q.1 f) = [] →
    (∀ r < f.rows, s0.writeOkAt p (bankOf (at_ r)) .vector f.pre s0.offset = true) → at_ f.rows ≤ 2 ^ 21 →
    answers (q.2 t env) s (fun u =>
      (∀ r < f.rows, u.bankRead p (at_ r) (row r).length = row r)
      ∧ bytesKept (inRange (sramKey p f.dst) (f.rows * pitch (v.vecOutFmt p q.1 f))) s.sram u.sram
      ∧ regsKept (fun k => ofTile p k ∨ k = Reg.netMoveOffset) s u
      ∧ bytesSame s.hbm u.hbm ∧ hostSideKept s u ∧ u.move = s.move ∧ (∀ x, x ≠ p → u.tile x = s.tile x)))

/-- VEC_QCAL, VEC_TOPK, VEC_NORM and VEC_OPTIM complete when their words start. VEC_QCAL leaves every channel's MIN at +∞ and MAX at −∞.
VEC_TOPK writes a choice record of 16 bytes for token k at DST + 16k, in mode EXIT a record of 8 bytes at DST + 8k, and in mode EXIT the
tokens that are not retired are added to the survivors of its decision domain. VEC_NORM adds the rounded sum of squares to its die's
accumulator of the group and shows the total in DIE_TRN_NORM. VEC_OPTIM counts one row in TL_TRN_COUNT[1] for each row it updates under a
true vote, and one in TL_TRN_COUNT[2] for each row it only converts. A word with ROWS 0 requests no operation. -/
def Obligations.VectorSpecialOperationsComplete : Prop :=
  ∀ (s s0 : State) (t : Tile) (env : OpEnv) (w i : Nat), quiet env →
    let p := s0.phys t.val
    let f := vecWord w
    let v := s0.view p .vector f.pre
    let k := s.topkRec t.val f.const
    let n := f.rows / k.h
    (∀ c ok, (c, ok) ∈ [(Instr.vecQcal t env, fun (w : Nat) => wOpcode w == 0x32),
        (.vecTopk t env, fun w => wOpcode w == 0x38 && (s.topkRec t.val (bits w 125 118)).mode != 2),
        (.vecTopkExit t env, fun w => wOpcode w == 0x38 && (s.topkRec t.val (bits w 125 118)).mode == 2),
        (.vecNorm t env, fun w => wOpcode w == 0x39), (.vecOptim t env, fun w => wOpcode w == 0x3A)] →
      s.start t.val ok = some (w, i, s0) → f.rows = 0 → exec c s = .next s0)
    ∧ (f.rows ≠ 0 →
    (s.start t.val (fun w => wOpcode w == 0x32) = some (w, i, s0) → answers (.vecQcal t env) s (fun u =>
      (∀ n < 64, u.reg (Reg.tlQntChMin p n) = f32PInf ∧ u.reg (Reg.tlQntChMax p n) = f32NInf) ∧ memoriesKept s u ∧ u.move = s.move))
    ∧ (s.start t.val (fun w => wOpcode w == 0x38 && (s.topkRec t.val (bits w 125 118)).mode != 2) = some (w, i, s0) →
        (∀ j < n, s0.writeOkAt p (bankOf (f.dst + 16 * j)) .vector f.pre s0.offset = true) → f.dst + 16 * n ≤ 2 ^ 21 →
        answers (.vecTopk t env) s (fun u => ∀ j < n,
          let c := topkChoice k (v.scores p f k j)
          u.bankRead p (f.dst + 16 * j) 16 = leBytes 4 (k.base + j) ++ (leBytes 2 c.1 ++ (leBytes 2 c.2.1
            ++ (leBytes 4 c.2.2.1 ++ leBytes 4 c.2.2.2)))))
    ∧ (s.start t.val (fun w => wOpcode w == 0x38 && (s.topkRec t.val (bits w 125 118)).mode == 2) = some (w, i, s0) →
        answers (.vecTopkExit t env) s (fun u =>
          Sparse.get (fun _ => 0) u.domSums k.domain = min (Sparse.get (fun _ => 0) s.domSums k.domain
            + ((List.range n).filter (fun j => !(topkExit k (v.scores p f k j)).2.1)).length) 0xFFFFFFFF
          ∧ ((∀ j < n, s0.writeOkAt p (bankOf (f.dst + 8 * j)) .vector false s0.offset = true) → f.dst + 8 * n ≤ 2 ^ 21 →
            ∀ j < n, let e := topkExit k (v.scores p f k j)
              u.bankRead p (f.dst + 8 * j) 8 = leBytes 2 e.1 ++ (leBytes 2 (b2n e.2.1) ++ leBytes 4 e.2.2))))
    ∧ (s.start t.val (fun w => wOpcode w == 0x39) = some (w, i, s0) →
        answers (.vecNorm t env) s (fun u =>
          u.reg (Reg.dieTrnNorm (tDie t.val) f.const) = toF32 (Machine.Num.add (s.normOf (tDie t.val) f.const).num (f32 (toF32 (exactSum
            (((List.range f.rows).flatMap (fun r => v.f32At p (f.src1 + r * pitch f.fmt) f.fmt)).map (fun x =>
              Machine.Num.mul (f32 (f32Scale x (-s.lossExp))) (f32 (f32Scale x (-s.lossExp))))))))) % 2 ^ 64
          ∧ memoriesKept s u ∧ u.move = s.move))
    ∧ (s.start t.val (fun w => wOpcode w == 0x3A) = some (w, i, s0) →
        answers (.vecOptim t env) s (fun u =>
          u.reg (Reg.tlTrnCount p (if s.voteTrue then 1 else 2)) = min (s.reg (Reg.tlTrnCount p (if s.voteTrue then 1 else 2)) + f.rows) (2 ^ 32 - 1)
          ∧ bytesSame s.hbm u.hbm ∧ hostSideKept s u ∧ u.move = s.move)))

/-- The four modes of VEC_REDUCE: mode, command, the counter of its operations (R425, R426). -/
def reduceCommands : List (Nat × (Tile → OpEnv → Instr) × Nat) :=
  [(0, .vecReduceForward, 0), (1, .vecReduceFinal, 1), (2, .vecReducePublish, 2), (3, .vecReduceWiden, 3)]

/-- Each mode of VEC_REDUCE completes when its word starts and counts one operation of its mode. FINAL also writes the exponents of the
next step by the rule of R415: with e the block's exponent of a group, n its NEED and U the block's UNDER, e for the inference class, n
where n is above e, one less (at least −126) where n is below e and U is not 0, else e. -/
def Obligations.ReduceOperationsComplete : Prop :=
  (∀ q ∈ reduceCommands, ∀ (s s0 : State) (t : Tile) (env : OpEnv) (w i : Nat),
    quiet env → s.start t.val (fun w => wOpcode w == 0x3B && (s.redRec t.val (bits w 125 118)).mode == q.1) = some (w, i, s0) →
    (vecWord w).rows ≠ 0 →
    answers (q.2.1 t env) s (fun u =>
      u.reg (Reg.tlRedCount (s0.phys t.val) q.2.2) = min (s.reg (Reg.tlRedCount (s0.phys t.val) q.2.2) + 1) (2 ^ 32 - 1)
      ∧ bytesKept (inBanks (s0.phys t.val)) s.sram u.sram ∧ bytesSame s.hbm u.hbm ∧ hostSideKept s u ∧ u.move = s.move))
  ∧ ∀ (s s0 : State) (t : Tile) (env : OpEnv) (w i : Nat),
    quiet env → s.start t.val (fun w => wOpcode w == 0x3B && (s.redRec t.val (bits w 125 118)).mode == 1) = some (w, i, s0) →
    let p := s0.phys t.val
    let f := vecWord w
    let v := s0.view p .vector f.pre
    let r := s.redRec t.val f.const
    let x := v.redSum p f r
    f.rows ≠ 0 → s0.writeOkAt p (bankOf f.dst) .vector false s0.offset = true → f.dst + 64 ≤ 2 ^ 21 →
    answers (.vecReduceFinal t env) s (fun u => ∀ g < 32,
      let e := signed 8 (x.e.getD g 0)
      let n := max (x.needIn.getD g 0) (needOf r.wire (x.sums.getD g []))
      leNat (u.bankRead p (f.dst + g) 1) = unsigned 8 (if r.inference then e else if e < n then n
        else if n < e ∧ 0 < x.under then max (e - 1) (-126) else e) % 256)

/-- NEED of a set of values (R413): the smallest integer n from −126 to 96 with amax ≤ fmax × 2^n; 96 when there is none; −127 when the
set holds no finite non-zero value. -/
def Obligations.NeedIsTheSmallestExponent : Prop :=
  ∀ (wire : Nat) (xs : List Machine.Num), wire = 3 ∨ wire = 4 →
    let fmax := Machine.Num.int (if wire = 3 then 448 else 57344)
    let fits := fun (n : Int) => ∀ x ∈ xs, x.isFin = true → Machine.Num.lt (Machine.Num.mul fmax (Machine.Num.pow2 n)) x.abs = false
    ((∀ x ∈ xs, x.isFin = true → x.isZero = true) → needOf wire xs = -127)
    ∧ ((∃ x ∈ xs, x.isFin = true ∧ x.isZero = false) →
        (-126 ≤ needOf wire xs ∧ needOf wire xs ≤ 96)
        ∧ (∀ n : Int, -126 ≤ n → n < needOf wire xs → ¬ fits n)
        ∧ (needOf wire xs < 96 → fits (needOf wire xs)))

/-! ### The tick and what falls at it (R24, R28 to R31, R36, R40, R124, R246, R326) -/

/-- No stop waits for its tick. -/
def noStopAsked (s : State) : Prop := s.job.stopPower = false ∧ s.job.stopD3 = false ∧ s.job.stopDriver = false

/-- A tick that is held by nothing ends the move: the move number goes up by one, the next move stands at offset 0, every sequencer at its
first word with no SEND or RECV open, HBM is as before. Without a stop asked for, and short of the step limit, the job goes on. At the tick
that ends move NET_STEP_LIMIT × STEP_MOVES − 1, STEP_LIMIT_STOP stops the job with cause 3, unless a bank is still SPECULATIVE, when the stop
waits for a later tick. The conditions are those of the state in which every row in flight has arrived and every late operation has been
reported. -/
def Obligations.TicksEndTheMove : Prop :=
  ∀ s : State, let v := s.atEnd
    s.lastCycle = true → v.tickReady = true → v.job.err = false →
    let ended := fun (u : State) => u.move = (s.move + 1) % 2 ^ 64 ∧ bytesSame s.hbm u.hbm ∧ bytesSame s.hostMem u.hostMem
      ∧ bytesSame s.flash u.flash
    answers .tick s (fun u =>
      ended u ∧ u.offset = 0 ∧ u.held = false ∧ u.job.held = 0
      ∧ (∀ p, (u.tile p).next = 0 ∧ (u.tile p).sends = [] ∧ (u.tile p).recvs = [])
      ∧ (noStopAsked v → v.limitNow = false → u.jobState = jobRUNNING))
    ∧ (v.limitNow = true → noStopAsked v → answers .stepLimitStop s (fun u =>
      ended u ∧ (u.noSpec = true → u.jobState = jobSTOPPED ∧ u.fld Reg.netJobState 10 8 = 3)
      ∧ (u.noSpec = false → u.jobState = jobRUNNING)))

/-- While a condition of R28 fails, TICK is a held cycle: the move goes on, the hold counts in all and against each cause that fails, and
no tile, bank or memory changes once the rows in flight have arrived. Before a move's last cycle TICK changes nothing. -/
def Obligations.HeldTicksChangeOnlyCounts : Prop :=
  ∀ s : State, let v := s.atEnd
    (s.lastCycle = false → exec .tick s = .next s)
    ∧ (s.lastCycle = true → v.tickReady = false → v.job.err = false → v.reshard = none →
    answers .tick s (fun u =>
      u.move = v.move ∧ u.held = true ∧ u.job.held = v.job.held + 1
      ∧ u.reg Reg.netHoldTotal = min (v.reg Reg.netHoldTotal + 1) (2 ^ 64 - 1)
      ∧ (∀ i < 5, u.reg (Reg.netHoldCause i) =
          if (v.conditions (v.landed && !v.reshardDue)).getD i true then v.reg (Reg.netHoldCause i)
          else min (v.reg (Reg.netHoldCause i) + 1) (2 ^ 64 - 1))
      ∧ memoriesKept v u ∧ tilesKept v u ∧ u.jobState = v.jobState))

/-- The first tick after an uncorrectable error stops the job: STOPPED with cause 2, a RESTORE or a load due before a start, no bank
SPECULATIVE, no list, no row on a link and no transfer left. A move that can no longer end is abandoned, and keeps its number. -/
def Obligations.ErrorsStopTheJobAtTheTick : Prop :=
  ∀ s : State, let v := s.atEnd
    s.lastCycle = true → v.job.err = true → (v.tickReady = true ∨ v.prevented = true) →
    answers .tick s (fun u =>
      u.jobState = jobSTOPPED ∧ u.fld Reg.netJobState 10 8 = 2 ∧ u.job.mustRestore = true ∧ u.job.err = false
      ∧ u.move = (if v.tickReady then (v.move + 1) % 2 ^ 64 else v.move)
      ∧ u.lists = [] ∧ u.wires = [] ∧ u.exch = none ∧ u.reshard = none
      ∧ (∀ p, (u.tile p).dma = [] ∧ (u.tile p).items = [] ∧ (u.tile p).window = none)
      ∧ bytesSame s.hbm u.hbm ∧ bytesSame s.hostMem u.hostMem)

/-- SCALE_TICK: at the scale tick every training slot of an index takes the exponent that the counts of the whole device give by the rule,
from the lowest tile's exponent, format and limit; its old exponent stands in PREV_EXP; its counts and maximum are cleared. (Where host
writes have given the slots of one index different classes, the tile and the slots are those of the training class: the model's choice,
log entry 118.) At any other tick, and once in a move, it changes nothing more. -/
def Obligations.ScaleTicksAdaptEverySlot : Prop :=
  ∀ s : State, let v := s.atEnd
    s.lastCycle = true → v.tickReady = true →
    (v.scaleTickNow = false ∨ v.job.scaleDone = true → exec .scaleTick s = .next v)
    ∧ (v.scaleTickNow = true → v.job.scaleDone = false →
    answers .scaleTick s (fun u =>
      u.job.scaleDone = true ∧ memoriesKept v u ∧ u.move = v.move
      ∧ ∀ i < 16, ∀ p0 rest, v.physTiles.filter (fun p => slotTraining (v.reg (Reg.tlQntSlotCtl p i))) = p0 :: rest →
        let ps := p0 :: rest
        let c := v.reg (Reg.tlQntSlotCtl p0 i)
        let e := scaleRule (signed 8 (bits c 31 24)) ((ps.map (fun p => v.reg (Reg.tlQntSlotSat p i))).foldl (· + ·) 0)
          ((ps.map (fun p => v.reg (Reg.tlQntSlotUnder p i))).foldl (· + ·) 0) (bits c 19 16)
          (f32 ((ps.map (fun p => (Sparse.get (fun _ => (0 : W32)) (v.tile p).amax i).toNat)).foldl max 0)) (slotMax (bits c 23 20))
        ∀ p ∈ ps, u.fld (Reg.tlQntSlotCtl p i) 31 24 = unsigned 8 e
          ∧ u.fld (Reg.tlQntSlotAmax p i) 31 24 = v.fld (Reg.tlQntSlotCtl p i) 31 24
          ∧ u.reg (Reg.tlQntSlotSat p i) = 0 ∧ u.reg (Reg.tlQntSlotUnder p i) = 0
          ∧ Sparse.get (fun _ => (0 : W32)) (u.tile p).amax i = 0))

/-- LOSS_SCALE_UPDATE: at the tick that ends a step, a false vote clears the count of clean steps and lowers the exponent by one, at least
−32; a true vote counts one clean step, and at CLEAN_STEPS of them clears the count and raises the exponent by one, at most 63. -/
def Obligations.TheLossScaleFollowsTheVote : Prop :=
  ∀ s : State, let v := s.atEnd
    s.lastCycle = true → v.tickReady = true →
    (v.stepEnds = false ∨ v.trainSec.isEmpty = true ∨ v.job.lossDone = true → exec .lossScaleUpdate s = .next v)
    ∧ (v.stepEnds = true → v.trainSec.isEmpty = false → v.job.lossDone = false →
    answers .lossScaleUpdate s (fun u =>
      let e := v.lossExp
      let clean := v.fld Reg.netLossClean 15 0 + 1
      let full := decide (v.fld Reg.netLossCtl 31 16 ≤ clean)
      u.job.lossDone = true ∧ memoriesKept v u ∧ tilesKept v u ∧ u.move = v.move
      ∧ (isBit (v.reg Reg.netVoteStatus) 1 = false →
          u.fld Reg.netLossClean 15 0 = 0 ∧ u.lossExp = (if -32 < e then e - 1 else e)
          ∧ u.reg (Reg.netTrnCount 1) = min (v.reg (Reg.netTrnCount 1) + 1) (2 ^ 32 - 1))
      ∧ (isBit (v.reg Reg.netVoteStatus) 1 = true →
          u.fld Reg.netLossClean 15 0 = (if full then 0 else clean)
          ∧ u.lossExp = (if full = true ∧ e < 63 then e + 1 else e)
          ∧ u.reg (Reg.netTrnCount 0) = min (v.reg (Reg.netTrnCount 0) + 1) (2 ^ 32 - 1))))

/-! ### Banks (R168, R169, R173, R176) -/

/-- A bank handed to another state stands in it; only one that leaves RETAINED wakes, and none that enters it does. No byte of it
changes. -/
def bankHanded (s u : State) (p b st : Nat) : Prop :=
  u.bankState p b = st
  ∧ (s.bankState p b ≠ st → u.bankWaking p b =
      (if s.bankState p b = ownRETAINED then true else if st = ownRETAINED then false else s.bankWaking p b))
  ∧ regsKept (fun k => k = Reg.tlBankOwn p b ∨ k = Reg.netMoveOffset) s u ∧ memoriesKept s u ∧ u.move = s.move

/-- BANK_GIVE hands a bank over when its word starts, unless the bank is SPECULATIVE; BANK_WAKE_DONE ends the waking of a bank; TL_BANK_OWN_WRITE hands a bank over by
software while no job is being loaded or runs. -/
def Obligations.BanksAreHandedOver : Prop :=
  (∀ (s s0 : State) (t : Tile) (w i : Nat), s.start t.val (fun w => wOpcode w == 0x48) = some (w, i, s0) →
    (s.bankState (s.phys t.val) (bits w 49 48) = ownSPEC → exec (.bankGive t) s = .next s0)
    ∧ (s.bankState (s.phys t.val) (bits w 49 48) ≠ ownSPEC →
      answers (.bankGive t) s (fun u => bankHanded s u (s.phys t.val) (bits w 49 48) (bits w 52 50))))
  ∧ (∀ (s : State) (p : PhysTile) (b : Bank),
    answers (.bankWakeDone p b) s (fun u =>
      u.bankWaking p.val b.val = false ∧ u.bankState p.val b.val = s.bankState p.val b.val
      ∧ regsKept (fun k => k = Reg.tlBankOwn p.val b.val) s u ∧ u = { s with regs := u.regs }))
  ∧ (∀ (s : State) (w : TileWin) (b : Bank) (value : Nat), s.diesUp = true → s.idleJob = true →
    bits value 2 0 ≠ 5 → bits value 2 0 ≠ 7 →
    answers (.tlBankOwnWrite w b value) s (fun u => bankHanded s u (s.winTile w) b.val (bits value 2 0)))

/-- COMMIT and DISCARD resolve a premove in the tick cycle, as the domain's final decision says, after the scale tick where one falls there.
Each SPECULATIVE bank of the tile goes to the target its word names. COMMIT changes no byte; after DISCARD those banks read as zeros, with
no valid line. Every other bank keeps its state and its bytes, and no tile's speculative marks remain. In any other cycle they change
nothing. -/
def Obligations.PremovesAreCommittedOrDiscarded : Prop :=
  (∀ (s : State) (t : Tile), (s.lastCycle && s.atEnd.tickReady) = false → exec (.commit t) s = .next s ∧ exec (.discard t) s = .next s)
  ∧ ∀ (s : State) (t : Tile) (c d : Nat) (r : DomainRec) (confirm : Bool),
    let v := s.atEnd.scaleFirst
    s.lastCycle = true → s.atEnd.tickReady = true → s.atEnd.job.err = false → (s.atEnd.resolution t.val).isSome = true →
    v.resolution t.val = some (c, d) → v.premoveDomain t.val = some r →
    isBit (v.reg (Reg.netDecStatus r.domain)) 2 = true → isBit (v.reg (Reg.netDecStatus r.domain)) 3 = confirm →
    let p := v.phys t.val
    let w := if confirm then c else d
    answers (if confirm then .commit t else .discard t) s (fun u =>
      (∀ b < 4, u.bankState p b = if v.bankState p b = ownSPEC then targetOf w b else v.bankState p b)
      ∧ (∀ b < 4, ∀ a < 2 ^ 19, Mem.byte u.sram (sramKey p (b * 2 ^ 19 + a)) =
          if confirm = false ∧ v.bankState p b = ownSPEC then 0 else Mem.byte v.sram (sramKey p (b * 2 ^ 19 + a)))
      ∧ (∀ b < 4, ∀ l < 2 ^ 13, confirm = false → v.bankState p b = ownSPEC → u.lineIsValid p (b * 2 ^ 13 + l) = false)
      ∧ (u.tile p).set0.spec = false ∧ (u.tile p).set1.spec = false ∧ (u.tile p).bufSpec0 = false ∧ (u.tile p).bufSpec1 = false
      ∧ bytesKept (inBanks p) v.sram u.sram ∧ bytesSame v.hbm u.hbm ∧ hostSideKept v u ∧ u.move = v.move
      ∧ (∀ x, x ≠ p → u.tile x = v.tile x))

/-! ### DMA, the scheduled network, work lists and frames (R184 to R204, R290 to R319) -/

/-- The descriptors of a DMA word, as the DMA reads them in the tile. -/
def dmaDescs (s : State) (p w : Nat) : List (List Byte) :=
  (List.range (bits w 70 63)).map (fun k => (s.view p .dma false).bankRead p (64 * bits w 62 48 + 128 * k) 128)

/-- DMA_IN and DMA_OUT read and check their descriptors when their word starts. A chain that passes opens one transfer, with its Petal
commands on the way to the dispatcher, and moves no byte yet. A chain that fails a check, or touches an activation ring outside a push or
pop, is counted and recorded, and opens a transfer that has already ended. A word of no descriptor requests no operation. -/
def Obligations.DmaWordsOpenTransfers : Prop :=
  ∀ (s s0 : State) (t : Tile) (env : OpEnv) (w i : Nat) (out : Bool),
    s.start t.val (fun w => wOpcode w == (if out then 0x41 else 0x40)) = some (w, i, s0) →
    (bits w 70 63 = 0 → exec (if out then .dmaOut t env else .dmaIn t env) s = .next s0)
    ∧ (quiet env → bits w 70 63 ≠ 0 →
    let p := s0.phys t.val
    let land := if out then (0, 0) else s0.landing t.val (bits w 90 79)
    let ds := dmaDescs s0 p w
    let due := if out then s.move + 1 else s.move + bits w 78 71
    s0.blockedReads p .dma false [⟨bits w 62 48, 2 * bits w 70 63⟩] = [] →
    (s0.chainFault p out (64 * land.1) (64 * land.1 + 64 * land.2) ds = none → s0.stackFault out ds = none →
      answers (if out then .dmaOut t env else .dmaIn t env) s (fun u =>
        (u.tile p).dma = (s.tile p).dma ++ [⟨i, s.move, due, out, land.1, land.2, ds, false, false, []⟩]
        ∧ u.petals = s.petals ++ s0.chainPetals t.val i out ds
        ∧ regsKept (fun k => k = Reg.netMoveOffset) s u ∧ memoriesKept s u ∧ (∀ x, x ≠ p → u.tile x = s.tile x)))
    ∧ (∀ k code, s0.chainFault p out (64 * land.1) (64 * land.1 + 64 * land.2) ds = some (k, code) →
      answers (if out then .dmaOut t env else .dmaIn t env) s (fun u =>
        (u.tile p).dma = (s.tile p).dma ++ [⟨i, s.move, due, out, land.1, land.2, ds, true, true, []⟩]
        ∧ u.reg (Reg.tlDmaCount p 1) = min (s.reg (Reg.tlDmaCount p 1) + 1) (2 ^ 32 - 1)
        ∧ (isBit (s.reg (Reg.tlDmaFirst p)) 31 = false → u.fld (Reg.tlDmaFirst p) 63 48 = code % 2 ^ 16)
        ∧ u.petals = s.petals ∧ bytesSame s.hbm u.hbm ∧ hostSideKept s u ∧ u.move = s.move))
    ∧ (∀ k d, s0.chainFault p out (64 * land.1) (64 * land.1 + 64 * land.2) ds = none → s0.stackFault out ds = some (k, d) →
      answers (if out then .dmaOut t env else .dmaIn t env) s (fun u =>
        (u.tile p).dma = (s.tile p).dma ++ [⟨i, s.move, due, out, land.1, land.2, ds, true, true, []⟩]
        ∧ u.reg (Reg.tlDmaCount p 1) = min (s.reg (Reg.tlDmaCount p 1) + 1) (2 ^ 32 - 1)
        ∧ (isBit (s.reg (Reg.tlDmaFirst p)) 31 = false → u.fld (Reg.tlDmaFirst p) 63 48 = 0x08E2)
        ∧ u.reg (Reg.dieStkCount d 7) = min (s.reg (Reg.dieStkCount d 7) + 1) (2 ^ 32 - 1)
        ∧ u.petals = s.petals ∧ bytesSame s.hbm u.hbm ∧ hostSideKept s u ∧ u.move = s.move)))

/-- TRANSFER_LANDED lands a DMA_IN that the job, its Petal commands, the activation stack and the transposing path let move, and reads the source
of such a DMA_OUT; DMA_OUT_COMPLETE ends a DMA_OUT, its source bytes read in the same step where they have not been. A DMA_IN writes nothing
but banks of its tile, a DMA_OUT no bank. The bytes of a descriptor of one run stand at their destination. -/
def Obligations.TransfersEnd : Prop :=
  ∀ (s : State) (t : Tile) (k : Nat) (env : OpEnv) (mem : MemEnv) (x : DmaXfer),
    quiet env → (s.tile (s.phys t.val)).dma[k]? = some x →
    let p := s.phys t.val
    let oneRun := fun (d : Desc) => mem = [] ∧ (∃ b, x.descs = [b] ∧ descOf b = d) ∧ x.moving = [d] ∧ d.kind = 0 ∧ d.levels = 1 ∧ d.fmt ≠ 6
    (x.out = false → x.landed = false → s.xferReady p k x = true → s.xferPetals t.val x = [] → (∀ d ∈ x.moving, d.dstDev = false) →
      answers (.transferLanded t k env mem) s (fun u =>
        (u.tile p).dma[k]? = some { x with landed := true } ∧ bytesKept (inBanks p) s.sram u.sram ∧ bytesSame s.hbm u.hbm
        ∧ hostSideKept s u ∧ u.move = s.move
        ∧ (∀ d, oneRun d → d.srcDev = true → isHostAddr d.src = false → oneBank d.dst d.run = true → d.dst < 2 ^ 21 →
            s.writeOkAt p (bankOf d.dst) .dma false s.offset = true → u.bankRead p d.dst d.run = Mem.read s.hbm d.src d.run)))
    ∧ (x.out = true → x.landed = false → s.xferReady p k x = true → (s.xferPetals t.val x).any (fun q => q.stage == 0) = false →
      (∀ d ∈ x.moving, d.dstDev = true) →
      answers (.transferLanded t k env mem) s (fun u =>
        (∃ y, (u.tile p).dma[k]? = some y ∧ y.landed = true ∧ y.acked = x.acked) ∧ memoriesKept s u ∧ u.move = s.move))
    ∧ (x.out = true → x.acked = false → s.xfersRun = true →
      (x.landed = true ∨ (s.xferReady p k x = true ∧ (s.xferPetals t.val x).any (fun q => q.stage == 0) = false)) →
      (∀ d ∈ x.moving, d.dstDev = true) →
      answers (.dmaOutComplete t k env mem) s (fun u =>
        (∃ y, (u.tile p).dma[k]? = some y ∧ y.landed = true ∧ y.acked = true) ∧ banksKept s u ∧ bytesSame s.flash u.flash
        ∧ u.move = s.move
        ∧ (∀ d, oneRun d → x.landed = false → d.srcDev = false → isHostAddr d.dst = false → oneBank d.src d.run = true → d.src < 2 ^ 21 →
            s.readOkAt p (bankOf d.src) .dma false s.offset = true → s.isLate p d.src d.run = false →
            Mem.read u.hbm d.dst d.run = s.bankRead p d.src d.run)))

/-- SEND and RECV open their rows, and CLAIM opens the tile's dynamic window, when their words start; nothing else of the tile but its
sequencer moves, and no byte of memory. -/
def Obligations.NetworkWordsOpenTheirRows : Prop :=
  ∀ (s s0 : State) (t : Tile) (w i : Nat),
    let p := s.phys t.val
    let kept := fun (u : State) => memoriesKept s u ∧ regsKept (fun k => k = Reg.netMoveOffset) s u ∧ (∀ x, x ≠ p → u.tile x = s.tile x)
      ∧ u.wires = s.wires ∧ u.lists = s.lists
    (s.start t.val (fun w => wOpcode w == 0x42) = some (w, i, s0) → answers (.send t) s (fun u =>
      u.tile p = { s.tile p with next := i + 1, sends := (s.tile p).sends ++ [netOpen w i] } ∧ kept u))
    ∧ (s.start t.val (fun w => wOpcode w == 0x43) = some (w, i, s0) → answers (.recv t) s (fun u =>
      u.tile p = { s.tile p with next := i + 1, recvs := (s.tile p).recvs ++ [netOpen w i] } ∧ kept u))
    ∧ (s.start t.val (fun w => wOpcode w == 0x44) = some (w, i, s0) → answers (.claim t) s (fun u =>
      (∃ x, (u.tile p).window = some x ∧ x.list = bits w 53 48 ∧ x.start = wOffset w ∧ x.len = bits w 77 54 ∧ x.param = bits w 85 78
        ∧ x.engine = bits w 87 86 ∧ x.move = s.move) ∧ kept u))

/-- The wires without the rows at an input port in a cycle. -/
def offWire (ws : List Wire) (t port c : Nat) : List Wire := ws.filter (fun w => !(w.router == t && (w.port == port && w.cycle == c)))

/-- The row at an input port in a cycle. -/
def onWire (ws : List Wire) (t port c : Nat) : Option Wire := ws.find? (fun w => w.router == t && (w.port == port && w.cycle == c))

/-- A STATIC slot forwards the row at its input unchanged: to the next router, or, at LOCAL, into the tile's RECV of its route. An ADD slot
forwards the sum of the rows at its two inputs, and counts what overflowed and what is NaN. A slot of either kind, and a RETURN slot, is used
in its cycle, whatever its row meets, and not again in the move. -/
def Obligations.SlotsForwardTheirRows : Prop :=
  (∀ (s : State) (t : Tile) (e i c : Nat) (env : NetEnv) (x : SlotEntry) (w : Wire),
    let p := s.phys t.val
    let r := s.useSlot t.val e i c
    env.hits = [] → onWire s.wires t.val x.inp c = some w → x.inp ≠ 0 →
    (s.slotDue t.val e i [0] = some (x, c) →
      (∀ v q n, x.out ≠ 0 → hop t.val x.out = some (v, q, n) →
        answers (.slotStatic t e i env) s (fun u =>
          u.wires = offWire s.wires t.val x.inp c ++ [⟨v, q, c + n, w.row⟩] ∧ u.tiles = s.tiles ∧ memoriesKept s u
          ∧ regsKept (fun k => k = Reg.netMoveOffset) s u))
      ∧ (∀ k q, x.out = 0 →
          (s.tile p).recvs.findIdx? (fun q => q.route == w.row.route && decide (q.done < q.rows)) = some k →
          (s.tile p).recvs[k]? = some q → w.row.bytes.length = 128 → 64 * (q.line + 2 * q.done) + 128 ≤ 2 ^ 21 →
          r.writeOkAt p (bankOf (64 * (q.line + 2 * q.done))) .dma false r.offset = true →
          answers (.slotStatic t e i env) s (fun u =>
            u.bankRead p (64 * (q.line + 2 * q.done)) 128 = w.row.bytes
            ∧ (u.tile p).recvs = (s.tile p).recvs.set k { q with done := q.done + 1 }
            ∧ bytesKept (inRange (sramKey p (64 * (q.line + 2 * q.done))) 128) s.sram u.sram
            ∧ u.wires = offWire s.wires t.val x.inp c ∧ bytesSame s.hbm u.hbm)))
    ∧ (∀ w2 v q n, s.slotDue t.val e i [1] = some (x, c) → x.in2 ≠ 0 → x.in2 ≠ x.inp → onWire s.wires t.val x.in2 c = some w2 →
        x.out ≠ 0 → hop t.val x.out = some (v, q, n) →
        let z := addRows x.fmt { w.row with route := x.route } w2.row
        answers (.slotAdd t e i env) s (fun u =>
          u.wires = offWire (offWire s.wires t.val x.inp c) t.val x.in2 c ++ [⟨v, q, c + n, z.1⟩]
          ∧ (0 < z.2.1 → u.reg (Reg.dieNetCount (tDie t.val) 2) = min (s.reg (Reg.dieNetCount (tDie t.val) 2) + z.2.1) (2 ^ 32 - 1))
          ∧ (0 < z.2.2 → u.reg (Reg.dieNetCount (tDie t.val) 3) = min (s.reg (Reg.dieNetCount (tDie t.val) 3) + z.2.2) (2 ^ 32 - 1))
          ∧ u.tiles = s.tiles ∧ memoriesKept s u)))
  ∧ ∀ (s : State) (t : Tile) (e i c : Nat) (env : NetEnv) (x : SlotEntry),
    let used := fun (u : State) => u.slotsUsed = s.slotsUsed ++ [(t.val, e, i)] ∧ u.move = s.move ∧ bytesSame s.hbm u.hbm
    (s.slotDue t.val e i [0] = some (x, c) → answers (.slotStatic t e i env) s used)
    ∧ (s.slotDue t.val e i [1] = some (x, c) → answers (.slotAdd t e i env) s used)
    ∧ (s.slotDue t.val e i [2] = some (x, c) → x.inp = 0 → answers (.slotReturn t e i env.hits) s used)

/-- LIST_OPEN opens its list empty at its offset; LIST_CLOSE closes it and deals the items left, seven to a row at most, to tiles of its
group: every one of them, where the group's DEAL slots are enough. A claim takes the oldest item of an open list, or is answered that it is
empty or closed. Published items follow those of an open list as far as its capacity; the rest are discarded and counted. -/
def Obligations.KeepersServeTheirLists : Prop :=
  ∀ (s : State) (l : Nat),
    let room := fun (d : Nat) (items : List (List Byte)) => (s.list d l).items ++ items.take ((match s.listRec d l with
      | none => 0
      | some r => r.capacity) - (s.list d l).items.length)
    (∀ (d : Die) (r : ListRec), s.listRec d.val l = some r → s.running = true → s.held = false →
      (s.stepMove = r.openMove → s.offset ≤ r.openOff → (s.list d.val l).isOpen = false →
        answers (.listOpen d l) s (fun u => u.list d.val l = ⟨true, false, []⟩ ∧ u.tiles = s.tiles ∧ memoriesKept s u
          ∧ regsKept (fun k => k = Reg.netMoveOffset) s u ∧ u.grants = s.grants))
      ∧ (s.stepMove = r.closeMove → s.offset ≤ r.closeOff → (s.list d.val l).isOpen = true →
        answers (.listClose d l) s (fun u => u.list d.val l = ⟨false, true, []⟩ ∧ u.tiles = s.tiles ∧ memoriesKept s u
          ∧ ∃ rows, u.grants = s.grants ++ rows
            ∧ (∀ g ∈ rows, g.status = 3 ∧ g.list = l ∧ g.items.length ≤ 7 ∧ g.tile ∈ s.groupTiles r.group)
            ∧ (s.groupTiles r.group ≠ [] →
                (∀ t ∈ s.groupTiles r.group, (s.list d.val l).items.length ≤ (s.dealCycles d.val t r.closeOff).length) →
                (rows.map (fun g => g.items.length)).foldl (· + ·) 0 = (s.list d.val l).items.length))))
    ∧ (∀ (t : Tile) (e i n due : Nat) (s1 s2 : State) (r : SentRow) (last : Slot),
      let d := tDie last.t
      s.rowSent t.val e i 3 = some (s1, r, last, n) → r.list = l → s1.keeperTurn d (last.cyc + 2) n = some s2 → s.grantDue last = some due →
      answers (.keeperClaim t e i []) s (fun u =>
        (∀ b rest, (s.list d l).isOpen = true → (s.list d l).items = b :: rest →
          u.grants = s.grants ++ [⟨due, t.val, l, 0, [b]⟩] ∧ (u.list d l).items = rest ∧ (u.list d l).isOpen = true)
        ∧ ((s.list d l).isOpen = true → (s.list d l).items = [] → u.grants = s.grants ++ [⟨due, t.val, l, 1, []⟩])
        ∧ ((s.list d l).isOpen = false → u.grants = s.grants ++ [⟨due, t.val, l, 2, []⟩] ∧ u.list d l = s.list d l)
        ∧ (u.tile (s.phys t.val)).sent = (s1.tile (s.phys t.val)).sent.filter (fun q => q != r) ∧ memoriesKept s u ∧ u.move = s.move))
    ∧ (∀ (t : Tile) (e i n : Nat) (s1 s2 : State) (r : SentRow) (last : Slot),
      let d := tDie last.t
      s.rowSent t.val e i 5 = some (s1, r, last, n) → r.list = l → s1.keeperTurn d (last.cyc + 2) n = some s2 →
      answers (.keeperPublish (.tile t e i) []) s (fun u =>
        ((s.list d l).isOpen = true → (u.list d l).items = room d r.items)
        ∧ (u.tile (s.phys t.val)).sent = (s1.tile (s.phys t.val)).sent.filter (fun q => q != r) ∧ memoriesKept s u ∧ u.move = s.move))
    ∧ (∀ (t : Tile) (e i c n : Nat) (x : SlotEntry) (row : List Byte) (s1 : State),
      let last := s.wayEnd s.plan 4096 ⟨t.val, e, i, x, c⟩
      let d := tDie last.t
      s.slotDue t.val e i [5] = some (x, c) → keeperPort last.t last.x.out = some n → openPort t.val x.inp = true →
      s.keeperTurn d (last.cyc + 2) n = some s1 → leAt row 1 1 = l →
      answers (.keeperPublish (.edge t e i row) []) s (fun u =>
        u.slotsUsed = s.slotsUsed ++ [(t.val, e, i)] ∧ u.tiles = s.tiles ∧ memoriesKept s u
        ∧ ((s.list d l).isOpen = true → (u.list d l).items = room d (rowItems row))
        ∧ ((s.list d l).isOpen = false → u.list d l = s.list d l
          ∧ u.reg (Reg.dieNetCount d 4) = (if (rowItems row).length = 0 then s.reg (Reg.dieNetCount d 4)
              else min (s.reg (Reg.dieNetCount d 4) + (rowItems row).length) (2 ^ 32 - 1)))))

/-- A GRANT or DEAL row puts its items at the end of its tile's item queue. A RETURN slot takes the oldest row of the tile's return buffer,
and the list's owner writes it; a header row goes to no memory. -/
def Obligations.RowsReachTheirTiles : Prop :=
  (∀ (s : State) (k : Nat) (g : GrantRow), s.grants[k]? = some g → s.running = true → s.held = false → s.offset ≤ g.due →
    let p := s.phys g.tile
    answers (.workItemReceive k []) s (fun u =>
      (u.tile p).items = (s.tile p).items ++ g.items.map (fun b => (⟨g.list, b⟩ : Item))
      ∧ u.grants = s.grants.eraseIdx k ∧ bytesKept (inBanks p) s.sram u.sram ∧ bytesSame s.hbm u.hbm ∧ hostSideKept s u ∧ u.move = s.move
      ∧ (∀ x, x ≠ p → u.tile x = s.tile x)))
  ∧ (∀ (s : State) (t : Tile) (e i c : Nat) (y : SlotEntry) (r : RetRow) (rest : List RetRow),
    let at_ := (s.wayEnd s.plan 4096 ⟨t.val, e, i, y, c⟩).cyc + 2
    s.slotDue t.val e i [2] = some (y, c) → y.inp = 0 → (s.tile (s.phys t.val)).returns = r :: rest →
    (r.header = true → answers (.slotReturn t e i []) s (fun u => (u.tile (s.phys t.val)).returns = rest ∧ memoriesKept s u))
    ∧ (∀ d o, r.header = false → s.listDie t.val r.list = some d → s.listOwner d r.list = some o →
      (byteRun r.addr r.bytes.length).crosses = false →
      (s.useSlot t.val e i c).writeOkAt (s.phys o) (bankOf r.addr) .dma false at_ = true → r.addr + r.bytes.length ≤ 2 ^ 21 →
      answers (.slotReturn t e i []) s (fun u =>
        u.bankRead (s.phys o) r.addr r.bytes.length = r.bytes ∧ (u.tile (s.phys t.val)).returns = rest
        ∧ bytesKept (inRange (sramKey (s.phys o) r.addr) r.bytes.length) s.sram u.sram ∧ bytesSame s.hbm u.hbm)))

/-- A DENSE item runs: its fields are in range, its drain is one that format 0x7 admits, and unless a count is zero it crosses no bank. -/
def denseRuns (s : State) (t : Tile) (x : Window) (b : Item) : Prop :=
  let w := arrWord (denseMma s.offset b.bytes)
  let present := maskBits none (leAt b.bytes 8 1)
  denseOk b.bytes = true
  ∧ ((denseDrain b.bytes).fmt = 7 → (s.drainSet s t.val (s.phys t.val) (leAt b.bytes 7 1) (denseDrain b.bytes)
      (patch (s.param t.val x.param) 6 [0, 0, 0]) false).identity (denseDrain b.bytes).act = true)
  ∧ (leAt b.bytes 6 1 = 0 ∨ leAt b.bytes 7 1 = 0 ∨ leAt b.bytes 8 1 = 0 ∨ (arrRunsA w present ++ arrRunsB w present).any LineRun.crosses = false)

/-- An item whose fields are in range runs under the window that holds it, whatever its banks and ports meet: it leaves the queue, and its rows
enter the return buffer. A Knight item leaves two rows of 128 bytes (none where it has no element), a DENSE or VECTOR item a header with its
number and the rows of its result. An item that is not valid returns a header with STATUS INVALID and is counted. -/
def Obligations.ItemsReturnTheirRows : Prop :=
  ∀ (s s0 : State) (t : Tile) (env : OpEnv) (x : Window) (b : Item) (rest : List Item),
    let p := s.phys t.val
    let done := fun (u : State) (rows : List RetRow) =>
      (u.tile p).items = rest ∧ (u.tile p).returns = (s.tile p).returns ++ rows ∧ (∀ r ∈ rows, r.list = b.list)
      ∧ bytesKept (inBanks p) s.sram u.sram ∧ bytesSame s.hbm u.hbm ∧ hostSideKept s u ∧ u.move = s.move ∧ (∀ y, y ≠ p → u.tile y = s.tile y)
    let invalid := fun (u : State) => ∃ h, done u [h] ∧ h.header = true ∧ leAt h.bytes 7 1 = 1
      ∧ u.reg (Reg.tlDynCount p 6) = min (s.reg (Reg.tlDynCount p 6) + 1) (2 ^ 32 - 1)
    let result := fun (u : State) (kind : Nat) => ∃ h rs, done u (h :: rs) ∧ h.header = true ∧ leAt h.bytes 0 2 = itemNo b.bytes
      ∧ leAt h.bytes 6 1 = kind ∧ leAt h.bytes 7 1 = 0 ∧ (∀ r ∈ rs, r.header = false)
    (s.headItem t.val 0 = some (s0, x, b, rest) →
      let f := knWord ((s0.body t.val s0.plan).getD (s0.tile p).dynOp 0) (s0.param t.val x.param)
      let len := leAt b.bytes 8 2
      let cross := ((s0.view p .knight false).segRuns p f (leAt b.bytes 4 4) len).any LineRun.crosses
      (knightOk b.bytes = true → len ≠ 0 → cross = false → answers (.knightItem t env) s (fun u =>
        ∃ r1 r2, done u [r1, r2] ∧ r1.bytes.length = 128 ∧ r2.bytes.length = 128 ∧ r1.header = false ∧ r2.header = false ∧ r2.addr = r1.addr + 128))
      ∧ (knightOk b.bytes = true → len = 0 → answers (.knightItem t env) s (fun u => done u []))
      ∧ (knightOk b.bytes = false ∨ (len ≠ 0 ∧ cross = true) → answers (.knightItem t env) s invalid))
    ∧ (s.headItem t.val 2 = some (s0, x, b, rest) →
      (denseRuns s0 t x b → answers (.denseItem t env) s (fun u => result u 2))
      ∧ (denseOk b.bytes = false → answers (.denseItem t env) s invalid))
    ∧ (s.headItem t.val 1 = some (s0, x, b, rest) →
      (s0.vectorOk t.val b.bytes = true →
        leAt b.bytes 7 1 = 0 ∨ (itemRuns (leAt b.bytes 6 1) (itemVec b.bytes)).any LineRun.crosses = false →
        answers (.vectorItem t env) s (fun u => result u 3))
      ∧ (s0.vectorOk t.val b.bytes = false → answers (.vectorItem t env) s invalid))

/-- The six commands of the activation stack move a frame between its states: a push occupies the ring, an off-load copies it to the host
and frees the ring, a prefetch copies it back, a pop reads it. -/
def Obligations.FramesMoveBetweenTheirStates : Prop :=
  ∀ (s : State) (d : Die) (f : Nat),
    let r := s.frameRec d.val f
    let x := s.frame d.val f
    let kept := fun (u : State) => u.tiles = s.tiles ∧ banksKept s u ∧ u.move = s.move ∧ (∀ e g, e * 4096 + g ≠ d.val * 4096 + f → u.frame e g = s.frame e g)
    (s.stackRuns = true → x.pushed = false → f < s.frameCount d.val → r.push = s.stepMove → r.policy ≠ 2 → x.st = 0 →
      answers (.framePush d f) s (fun u => (u.frame d.val f).st = 1 ∧ (u.frame d.val f).pushed = true
        ∧ u.reg (Reg.dieStkCount d.val 0) = min (s.reg (Reg.dieStkCount d.val 0) + 1) (2 ^ 32 - 1) ∧ kept u))
    ∧ (s.stackRuns = true → x.st = 2 → r.policy = 1 → (s.pushNeeds d.val f = true ∨ s.markNeeds d.val f = true) →
      answers (.frameOffload d f) s (fun u => (u.frame d.val f).st = 3 ∧ kept u))
    ∧ (x.st = 3 → isHostAddr (s.frameHost d.val f) = true → isHostAddr (s.ringBase d.val + r.off) = false →
      answers (.offloadComplete d f []) s (fun u => (u.frame d.val f).st = 4
        ∧ u.devRead (s.frameHost d.val f) r.bytes = s.devRead (s.ringBase d.val + r.off) r.bytes ∧ bytesSame s.hbm u.hbm ∧ kept u))
    ∧ (s.stackRuns = true → x.st = 4 → s.rangeFree d.val f = true → x.popped = true →
      answers (.framePrefetch d f) s (fun u => (u.frame d.val f).st = 5 ∧ memoriesKept s u ∧ kept u))
    ∧ (x.st = 5 → isHostAddr (s.frameHost d.val f) = true → isHostAddr (s.ringBase d.val + r.off) = false →
      answers (.prefetchComplete d f []) s (fun u => (u.frame d.val f).st = (if x.popped then 6 else 2)
        ∧ u.devRead (s.ringBase d.val + r.off) r.bytes = s.devRead (s.frameHost d.val f) r.bytes ∧ bytesSame s.hostMem u.hostMem ∧ kept u))
    ∧ (s.stackRuns = true → x.popped = false → f < s.frameCount d.val → r.pop = s.stepMove → r.policy ≠ 2 → x.st = 2 →
      answers (.framePop d f) s (fun u => (u.frame d.val f).st = 6 ∧ (u.frame d.val f).popped = true ∧ memoriesKept s u ∧ kept u))

/-! ### Votes, decisions, experts and collectives (R322 to R327, R343 to R358, R408 to R432) -/

/-- The device is alone on every axis: no exchange waits for another device. -/
def alone (s : State) : Prop := ∀ i < 4, s.axisLen i = 1

/-- VOTE_FORMATION fixes the device's contribution: false exactly when a cause has been met or a slot that skips has saturated. VOTE_FINAL
makes the vote final: true exactly when the combined contribution is true and every norm is finite; a false one shows its causes. -/
def Obligations.VotesAreFormedAndMadeFinal : Prop :=
  ∀ s : State,
    (s.running = true → s.job.err = false → s.trainSec.isEmpty = false → s.stepMove = s.voteMove → s.training.formed = false →
      s.votersDone = true →
      let causes := if s.saturatedSlot.isSome then s.training.causes ||| 2 else s.training.causes
      answers .voteFormation s (fun u =>
        u.training.formed = true ∧ u.training.causes = causes ∧ memoriesKept s u ∧ u.tiles = s.tiles ∧ u.move = s.move
        ∧ (alone s → s.job.mustRestore = false →
            ∃ x, u.exch = some x ∧ x.kind = 0 ∧ x.step = s.stepNumber ∧ x.axis = 4 ∧ (x.bit = true ↔ causes = 0))))
    ∧ (∀ x, s.exch = some x → x.kind = 0 → 4 ≤ x.axis →
      answers .voteFinal s (fun u =>
        let vote := x.bit && x.normsFinite s.groupCount
        u.fld Reg.netVoteStatus 0 0 = 1 ∧ u.fld Reg.netVoteStatus 1 1 = b2n vote
        ∧ (vote = false → u.fld Reg.netVoteStatus 13 8 =
            (s.training.causes ||| (b2n (!x.others) * 16 ||| b2n (!x.normsFinite s.groupCount) * 32)) % 64)
        ∧ u.exch = none ∧ u.training.totals = x.norms ∧ memoriesKept s u ∧ u.tiles = s.tiles ∧ u.move = s.move))

/-- DECISION_FORMATION of a DEVICE domain makes its sum final at once; that of a JOB domain shows the sum, keeps the last decision and starts
the exchange; DECISION_FINAL makes the job's sum final. A final sum of CONTINUE_MIN or more says COMMIT. -/
def Obligations.DecisionsFollowTheSurvivorSum : Prop :=
  ∀ (s : State),
    (∀ (d : Fin 64) (r : DomainRec), s.domains.find? (fun r => r.domain == d.val) = some r → s.running = true → s.job.err = false →
      s.stepMove = r.formMove → bits (s.reg (Reg.netDecStatus d.val)) 2 1 = 0 → s.offset ≤ r.formOff →
      let sum := Sparse.get (fun _ => 0) s.domSums d.val
      answers (.decisionFormation d) s (fun u =>
        (r.scope = 0 → u.reg (Reg.netDecStatus d.val) = (sum * 2 ^ 32 + b2n (decide (r.continueMin ≤ sum)) * 8 + 4) % 2 ^ 64)
        ∧ (r.scope ≠ 0 → u.reg (Reg.netDecStatus d.val) = (sum * 2 ^ 32 + s.fld (Reg.netDecStatus d.val) 3 3 * 8 + 2) % 2 ^ 64
            ∧ u.exch.isSome = true)
        ∧ memoriesKept s u ∧ u.tiles = s.tiles ∧ u.move = s.move))
    ∧ (∀ (x : Exchange) (r : DomainRec), s.exch = some x → x.kind ≠ 0 → 4 ≤ x.axis →
      s.domains.find? (fun r => r.domain + 1 == x.kind) = some r → r.domain < 64 →
      let sum := Sparse.get (fun _ => 0) x.sums r.domain
      answers .decisionFinal s (fun u =>
        u.reg (Reg.netDecStatus r.domain) = (sum * 2 ^ 32 + b2n (decide (r.continueMin ≤ sum)) * 8 + 4) % 2 ^ 64 ∧ u.exch = none
        ∧ memoriesKept s u ∧ u.tiles = s.tiles ∧ u.move = s.move))

/-- EXPERT_DISPATCH places the choices of its layer, at most QUOTA to an expert, and counts what it accepted; EXPERT_RETURN sends the answers
back; EXPERT_COMBINE writes the output row of every token: residual, then its accepted choices. -/
def Obligations.ExpertLayersRunTheirPhases : Prop :=
  ∀ (s : State) (l : Nat) (mem : MemEnv) (r : LayerRec), s.layerRec l = some r → s.xfersRun = true → s.running = true →
    let start := s.move - s.stepMove
    ((s.layer l).dispatched = false → r.dispatchMove ≤ s.stepMove → s.writesOpen r.choices (16 * r.tokens) (start + r.dispatchMove) = false →
      s.writesOpen r.tokensAddr ((r.tokens + 1) * r.rowBytes) (start + r.dispatchMove) = false →
      answers (.expertDispatch l mem) s (fun u =>
        let x := placeAll r ((List.range r.tokens).map (fun t => (s.delivered mem).devRead (r.choices + 16 * t) 16))
        (u.layer l).dispatched = true ∧ (u.layer l).slots = x.slots ∧ (u.layer l).gen = s.expGen
        ∧ (∀ e, (x.slots.filter (fun y => y.1 == e)).length ≤ r.quota)
        ∧ banksKept s u ∧ u.move = s.move))
    ∧ ((s.layer l).dispatched = true → (s.layer l).returned = false → r.returnMove ≤ s.stepMove →
      (∀ e < r.e, s.ownsExpert r e = true → s.writesOpen (s.expertMap r e).2.2 (r.sources * r.areg) (start + r.returnMove) = false) →
      answers (.expertReturn l mem) s (fun u =>
        (u.layer l).returned = true ∧ banksKept s u ∧ bytesSame s.hbm u.hbm ∧ hostSideKept s u ∧ u.move = s.move))
    ∧ ((s.layer l).combined = false → s.stepMove = r.returnMove + r.answerDue → s.answersLanded r = true →
      (∀ t < r.tokens, isHostAddr (r.output + t * r.outBytes) = false) →
      answers (.expertCombine l mem) s (fun u =>
        (u.layer l).combined = true ∧ banksKept s u ∧ hostSideKept s u ∧ u.move = s.move
        ∧ (mem = [] → (∀ t < r.tokens, u.devRead (r.output + t * r.outBytes) r.outBytes = s.combineRow s r t)
          ∧ bytesKept (inRange r.output (r.tokens * r.outBytes)) s.hbm u.hbm)))

/-- REDUCE_STAGING_COPY puts every block of the local sums with its exponents into its LOCAL slot; COLLECTIVE_STAGE sends the blocks of the
next stage, of a reduction or of a gathering; RESHARD_FENCE starts barrier round 0 when every other condition of the tick holds. -/
def Obligations.CollectivesRunTheirStages : Prop :=
  ∀ (s : State) (c : Nat) (mem : MemEnv),
    (∀ r, s.collRec c = some r → s.xfersRun = true → s.running = true → r.kind = 0 → (s.coll c).copied = false → r.copyMove ≤ s.stepMove →
      s.stepMove < r.startMove →
      s.writesOpen r.source (r.blocks * s.axisLen r.axis * (2048 * fmtW r.localFmt)) (s.move - s.stepMove + r.copyMove) = false →
      (∀ n < s.axisLen r.axis * r.blocks, isHostAddr (r.local_ + n * r.localBytes) = false) →
      answers (.reduceStagingCopy c mem) s (fun u =>
        let dest := match s.collRec r.pair with
          | some q => q.recv
          | none => 0
        (u.coll c).copied = true
        ∧ (mem = [] → ∀ j < s.axisLen r.axis, ∀ e ∈ s.blocksOf r (s.ringCoord r (-((j : Int) + 1))),
            u.devRead (r.local_ + (j * r.blocks + e.1) * r.localBytes) r.localBytes =
              s.devRead (dest + 2176 * e.2 + 64) 64
                ++ s.devRead (r.source + e.2 * (2048 * fmtW r.localFmt)) (2048 * fmtW r.localFmt))
        ∧ banksKept s u ∧ hostSideKept s u ∧ u.move = s.move))
    ∧ (∀ r q, s.collRec c = some r → s.connRec r.conn = some q → s.xfersRun = true → s.running = true →
      (s.coll c).stages + 1 < s.axisLen r.axis → s.stageMove r (s.coll c).stages ≤ s.move →
      let k := (s.coll c).stages
      let bs := s.blocksOf r (s.ringCoord r (if r.kind = 0 then -((k : Int) + 1) else -(k : Int)))
      let src := fun (e : Nat × Nat) => if r.kind = 0 then r.send + (k * r.blocks + e.1) * 2112
        else if k = 0 then r.send + 2176 * e.1 else r.recv + 2176 * e.2
      (∀ e ∈ bs, s.writesOpen (src e) (if r.kind = 0 then 2112 else 2176) (s.stageMove r k) = false) →
      answers (.collectiveStage c mem) s (fun u =>
        (u.coll c).stages = k + 1 ∧ (0 < bs.length → u.reg (collKey c 0) = min (s.reg (collKey c 0) + bs.length) (2 ^ 64 - 1))
        ∧ banksKept s u ∧ u.move = s.move ∧ (r.kind = 0 ∨ 0 < k → memoriesKept s u)))
    ∧ (∀ x, let v := s.atEnd
      s.lastCycle = true → v.reshardDue = true → (v.conditions v.landed).all (fun c => c) = true → v.reshard = some x → x.phase ≤ 1 →
      v.job.err = false → v.job.mustRestore = false → v.barriers = [] → (∃ i < 4, 1 < v.axisLen i) →
      answers .reshardFence s (fun u =>
        (∃ y, u.reshard = some y ∧ y.phase = 2 ∧ y.sent = true) ∧ u.fld Reg.netLayout 19 17 = 2 ∧ memoriesKept v u ∧ u.move = v.move))

/-! ### Messages of the fabric (R393 to R407) -/

/-- A message is admitted only if it passes the checks: its CRC holds, its type is the one expected and its form that of the type, its epoch
is the transport's, a connection from its source on its channel is declared, its SEQ is new and at most 4,095 above NEXT, and its region
is allowed. It leaves its buffer and counts as received; no memory changes. -/
def Obligations.AdmittedMessagesPassTheChecks : Prop :=
  ∀ (s s2 : State) (k typ : Nat) (region : State → List Byte → Bool) (b : List Byte), s.accept k typ region = (s2, some b) →
    (∃ m, s.arrived[k]? = some m ∧ m.bytes = b ∧ s2.arrived = s.arrived.eraseIdx k)
    ∧ msgCrcOk b = true ∧ mTyp b = typ ∧ msgFormatOk b = true ∧ leAt b 11 1 = s.fld Reg.frkXportCtl 31 24
    ∧ (∃ r, s.connTo (mSrc b) (mVc b) = some r ∧ 0 ≤ seqDist (mSeq b) (s.conn r.conn).recvNext
        ∧ seqDist (mSeq b) (s.conn r.conn).recvNext ≤ 4095 ∧ (s.conn r.conn).recvBits.contains (mSeq b) = false)
    ∧ s2.reg (Reg.frkMsgCount 2) = min (s.reg (Reg.frkMsgCount 2) + 1) (2 ^ 64 - 1)
    ∧ memoriesKept s s2 ∧ tilesKept s s2 ∧ s2.move = s.move

/-- The region of a SNAPSHOT message: the castle region of one die. -/
def castleRange (s : State) (b : List Byte) : Bool :=
  let d := mAddr b / 2 ^ 38
  decide (d < 4) && (decide (dieBase d + s.castleOff d ≤ mAddr b)
    && decide (mAddr b + mLen b ≤ dieBase d + s.castleOff d + s.castleBytes d))

/-- Messages that carry data land it at their address, byte for byte, and change no other byte of HBM: a READ_RESP; a gather block that starts
a block of the area of its collective; a REDUCE block whose slot carries it, which counts as landed; a DISPATCH header of the present generation
with the rows behind it; rows of a DISPATCH and of an ANSWER of the present generation that the header of their region counts (which piece
belongs to which region is settled as log entry 131 says); a SNAPSHOT of the device this one keeps. -/
def Obligations.MessagesLandTheirData : Prop :=
  ∀ (s s2 : State) (k : Nat) (b : List Byte),
    let at_ := fun (u : State) => Mem.read u.hbm (mAddr b) (mPayload b).length = mPayload b
      ∧ bytesKept (inRange (mAddr b) (mPayload b).length) s.hbm u.hbm ∧ banksKept s u ∧ hostSideKept s u ∧ u.move = s.move
    isHostAddr (mAddr b) = false →
    (s.accept k 3 State.jobRange = (s2, some b) → answers (.msgReadResp k) s at_)
    ∧ (∀ r o, s.accept k 1 State.jobRange = (s2, some b) → leAt b 28 2 ≠ 0xFFF → s2.collRec (leAt b 28 2) = some r → r.kind = 1 → r.recv ≤ mAddr b →
      (mAddr b - r.recv) % 2176 = 0 → (mAddr b - r.recv) / 2176 < r.blocks * s2.axisLen r.axis →
      s2.blockOwner r ((mAddr b - r.recv) / 2176) = some o → coord o.1 r.axis ≠ coord s2.ownAddr r.axis →
      coord o.1 r.axis < s2.axisLen r.axis → coord s2.ownAddr r.axis < s2.axisLen r.axis → answers (.msgWrite k) s at_)
    ∧ (∀ r st p, s.accept k 4 State.jobRange = (s2, some b) → s2.recvSlot (mAddr b) = some (r, st, p, true) → leAt b 28 1 = s2.layoutEpoch → leAt b 29 1 % 16 < 8 →
      s2.slotCarries r st p (leAt b 30 2) = true →
      answers (.msgReduce k) s (fun u => at_ u
        ∧ Sparse.get (fun _ => 0) (u.coll r.coll).landed st = Sparse.get (fun _ => 0) (s2.coll r.coll).landed st + 1
        ∧ u.reg (collKey r.coll 1) = min (s2.reg (collKey r.coll 1) + 1) (2 ^ 64 - 1)))
    ∧ (∀ r e j base, let l := leAt b 29 1
      let q := (s2.layer l).queues
      s.accept k 5 State.jobRange = (s2, some b) → s2.layerRec l = some r → s2.queueRegion r (mAddr b) = some (e, j, base) → q.pieces = [] →
      (base < mAddr b → leAt b 28 1 = s2.expGen →
        q.fate r.rowBytes ⟨esKey e j, base⟩ (s2.lowerQueues r e j) ⟨mSrc b, mAddr b, mPayload b⟩ = .rows →
        mAddr b + (mPayload b).length ≤ base + 64 + (q.head (esKey e j)).count * r.rowBytes →
        answers (.msgDispatch k) s (fun u => at_ u
          ∧ (u.layer l).queues.bytes (esKey e j) = q.bytes (esKey e j) + (mPayload b).length))
      ∧ (let n := leAt (mPayload b) 0 2
        mAddr b = base → leAt (mPayload b) 2 1 = s2.expGen → leAt (mPayload b) 3 1 = l → leAt (mPayload b) 4 2 = j → leAt (mPayload b) 6 2 = e →
        n ≤ r.quota → (mPayload b).length ≤ 64 + n * r.rowBytes →
        answers (.msgDispatch k) s (fun u =>
          Mem.read u.hbm base (mPayload b).length = mPayload b ∧ bytesKept (inRange base r.qreg) s.hbm u.hbm
          ∧ (u.layer l).queues.head (esKey e j) = ⟨true, mSrc b, s2.expGen, n, n⟩
          ∧ (u.layer l).queues.bytes (esKey e j) = q.bytes (esKey e j) + ((mPayload b).length - 64)
          ∧ banksKept s u ∧ hostSideKept s u ∧ u.move = s.move)))
    ∧ (∀ r, let l := leAt b 29 1
      let e := (mAddr b - r.answers) / r.areg
      let base := r.answers + e * r.areg
      let x := (s2.layer l).answers
      s.accept k 6 State.jobRange = (s2, some b) → s2.layerRec l = some r → r.answers ≤ mAddr b → e < r.e → mAddr b ≠ base → x.pieces = [] →
      leAt b 28 1 = s2.expGen → x.fate r.ansBytes ⟨e, base⟩ (s2.lowerAnswers r e) ⟨mSrc b, mAddr b, mPayload b⟩ = .rows →
      mAddr b + (mPayload b).length ≤ base + 64 + (x.head e).count * r.ansBytes →
      answers (.msgAnswer k) s (fun u => at_ u ∧ (u.layer l).answers.bytes e = x.bytes e + (mPayload b).length))
    ∧ (s.accept k 9 castleRange = (s2, some b) → s2.secureSec ≠ [] → mSrc b = leAt s2.secureSec 4 4 % 2 ^ 20 → isBit (leAt s2.secureSec 4 4) 31 = false →
      s2.inSlot (1 + leAt b 28 4 % 2) (mAddr b) (mLen b) = true →
      answers (.msgSnapshot k) s (fun u => at_ u ∧ u.fld (Reg.netSnapSlot (1 + leAt b 28 4 % 2)) 63 32 = leAt b 28 4))

/-- The other messages: a READ_REQ is answered without changing any memory of this device; a VOTE of another step is dropped and counted; a
BARRIER waits in order of arrival where no re-shard runs; an ACK frees the messages it covers; a message for another device goes on
towards it, and leaves this device. -/
def Obligations.MessagesDriveTheFabric : Prop :=
  ∀ (s s2 : State) (k : Nat) (b : List Byte),
    (∀ mem, s.accept k 2 (fun s b => let n := leAt (mPayload b) 8 4; s.inJob (mAddr b) n && s.inJob (leAt (mPayload b) 0 8) n) = (s2, some b) →
      answers (.msgReadReq k mem) s (fun u => memoriesKept s u ∧ u.tiles = s.tiles ∧ u.move = s.move
        ∧ ∀ r, s2.connTo (mSrc b) 3 = some r → (u.conn r.conn).held.length + (u.conn r.conn).unacked.length =
            (s2.conn r.conn).held.length + (s2.conn r.conn).unacked.length + 1))
    ∧ (s.accept k 7 (fun _ _ => true) = (s2, some b) →
      (leAt (mPayload b) 0 8 ≠ s2.stepNumber → leAt (mPayload b) 0 8 ≠ s2.stepNumber + 1 →
        answers (.msgVote k) s (fun u => u.votes = s.votes ∧ u.reg (Reg.netExchCount 3) = min (s2.reg (Reg.netExchCount 3) + 1) (2 ^ 32 - 1)))
      ∧ (leAt (mPayload b) 0 8 = s2.stepNumber + 1 → s2.exch = none →
        answers (.msgVote k) s (fun u => u.votes = s.votes ++ [(mSrc b, mPayload b)] ∧ memoriesKept s u ∧ u.tiles = s.tiles)))
    ∧ (s.accept k 8 (fun _ _ => true) = (s2, some b) → s2.reshard = none →
      answers (.msgBarrier k) s (fun u => u.barriers = s.barriers ++ [(mSrc b, leAt (mPayload b) 0 4, leAt (mPayload b) 4 4)]
        ∧ memoriesKept s u ∧ tilesKept s u))
    ∧ (∀ m r, s.arrived[k]? = some m → m.bytes = b → mTarget b = s.ownAddr → isBit (mRoute b) 4 = false → msgCrcOk b = true → mTyp b = 10 →
      msgFormatOk b = true → leAt b 11 1 = s.fld Reg.frkXportCtl 31 24 → s.connTo (mSrc b) (leAt (mPayload b) 16 1) = some r →
      (s.conn r.conn).held = [] →
      answers (.msgAck k) s (fun u =>
        (u.conn r.conn).unacked = (s.conn r.conn).unacked.filter (fun m => !ackCovers (leAt (mPayload b) 0 4) (leAt (mPayload b) 4 8) m.seq)
        ∧ u.arrived = s.arrived.eraseIdx k ∧ memoriesKept s u ∧ tilesKept s u))
    ∧ (∀ m i, s.arrived[k]? = some m → m.bytes = b → isBit (mRoute b) 4 = false → s.firstAxis (mDst b) = some i →
      s.portSt (2 * i + mDir b i) = portACTIVE → m.port = 8 →
      answers (.msgForward k) s (fun u =>
        u.arrived = s.arrived.eraseIdx k ∧ (∃ cls, (u.port (2 * i + mDir b i)).queue =
            (s.port (2 * i + mDir b i)).queue ++ [⟨false, mVc b, cls, flitsOf (b.length / 240 + 1) b, false⟩])
        ∧ memoriesKept s u ∧ tilesKept s u))

/-- ACK_SEND puts one ACK of its connection on the way and owes none after it; XPORT_RESEND sends the unacknowledged messages whose timeout has
passed again and keeps them all; FRAKEL_COUNT_REPORT reports the counts that rose and forgets the rises. -/
def Obligations.ConnectionsAcknowledgeAndResend : Prop :=
  ∀ (s : State) (c : Nat) (r : ConnRec), s.connRec c = some r →
    ((0 < (s.conn c).pendingAck ∨ (s.conn c).ackNow = true) →
      answers (.ackSend c) s (fun u => (u.conn c).pendingAck = 0 ∧ (u.conn c).ackNow = false ∧ (u.conn c).unacked = (s.conn c).unacked
        ∧ memoriesKept s u ∧ tilesKept s u ∧ u.move = s.move))
    ∧ (∀ due : List Nat, let old := (s.conn c).unacked.filter (fun m => due.contains m.seq)
      (old ≠ [] → answers (.xportResend c due) s (fun u => (u.conn c).retries = (s.conn c).retries + 1 ∧ (u.conn c).unacked = (s.conn c).unacked
        ∧ u.reg (Reg.frkMsgCount 1) = min (s.reg (Reg.frkMsgCount 1) + old.length) (2 ^ 64 - 1)
        ∧ memoriesKept s u ∧ tilesKept s u ∧ u.move = s.move))
      ∧ (old = [] → exec (.xportResend c due) s = .next s))
    ∧ (∀ p : Option Port, answers (.frakelCountReport p) s (fun u =>
        (∀ q ∈ portCodes, ∀ x, p = some x → u.rise (Reg.frkPortCount x.val q.1) = 0)
        ∧ (∀ q ∈ msgCodes, p = none → u.rise (Reg.frkMsgCount q.1) = 0)
        ∧ memoriesKept s u ∧ tilesKept s u ∧ networkKept s u ∧ u.move = s.move))

/-! ### Ports and links (R372 to R387) -/

/-- What a command of a port leaves as it was: memories, tiles, the move, every other port. -/
def otherPortsKept (p : Nat) (s u : State) : Prop :=
  memoriesKept s u ∧ tilesKept s u ∧ u.move = s.move ∧ ∀ q, q ≠ p → u.port q = s.port q

/-- A port trains when it detects its signal, and again a second after a failure or by software; trained, it enters IDENT with sixteen probes
and its identity to send; a matching identity makes it ACTIVE, another one MISWIRED. An echo raises the round-trip time to the longest. A retrain, asked for by
the peer, by software or after lost markers, keeps what the port has sent and not had acknowledged, counts, and starts the count of resends afresh; a port that has failed or is
miswired trains afresh. -/
def Obligations.PortsTrainIdentifyAndRetrain : Prop :=
  ∀ (s : State) (p : Port),
    let k := p.val
    let again := fun (u : State) => u.portSt k = portTRAINING ∧ (u.port k).retraining = true
      ∧ (u.port k).replay = (s.port k).replay.map (fun f => { f with resent := 0 })
      ∧ (u.port k).txNext = (s.port k).txNext ∧ (u.port k).rxNext = (s.port k).rxNext ∧ (u.port k).queue = (s.port k).queue
      ∧ u.reg (Reg.frkPortCount k 5) = min (s.reg (Reg.frkPortCount k 5) + 1) (2 ^ 64 - 1) ∧ otherPortsKept k s u
    (s.portSt k = portDOWN → (s.port k).retry = false → s.mgmt.fclkBad = false →
      answers (.portSignalDetect p) s (fun u => u.portSt k = portTRAINING ∧ otherPortsKept k s u ∧ u.port k = s.port k))
    ∧ (∀ lanes, s.portSt k = portTRAINING → s.widthOf k lanes ≠ 0 →
      answers (.portTrained p lanes) s (fun u => u.portSt k = portIDENT ∧ u.fld (Reg.frkPortStatus k) 7 6 = s.widthOf k lanes
        ∧ u.fld (Reg.frkPortStatus k) 31 16 = 0 ∧ (u.port k).linkQ.length = (s.port k).linkQ.length + 17 ∧ otherPortsKept k s u))
    ∧ (s.portSt k = portTRAINING ∨ (s.portSt k = portIDENT ∧ isBit (s.reg (Reg.frkPortPeer k)) 31 = false) → (s.port k).retraining = false →
      answers (.portTrainingTimeout p) s (fun u => u.portSt k = portDOWN ∧ (u.port k).retry = true ∧ otherPortsKept k s u))
    ∧ (s.portSt k = portDOWN → (s.port k).retry = true →
      answers (.portTrainingRetry p) s (fun u => u.portSt k = portTRAINING ∧ (u.port k).retry = false ∧ otherPortsKept k s u))
    ∧ (∀ n, s.portSt k = portIDENT ∨ s.portSt k = portACTIVE →
      answers (.linkProbe p n) s (fun u => (u.port k).linkQ = (s.port k).linkQ ++ [linkBytes 3 (leBytes 4 n)] ∧ otherPortsKept k s u))
    ∧ (∀ rtt, s.portSt k = portIDENT →
      answers (.linkEcho p rtt) s (fun u =>
        u.fld (Reg.frkPortStatus k) 31 16 = max (s.fld (Reg.frkPortStatus k) 31 16) (min rtt 0xFFFF) ∧ otherPortsKept k s u))
    ∧ (∀ f, s.portSt k = portIDENT → s.fld (Reg.frkPortStatus k) 31 16 ≤ 256 → isBit (identOf f).addr 31 = true →
      isBit (s.reg Reg.frkAddr) 31 = true →
      answers (.linkIdent p f) s (fun u => u.portSt k = (if s.peerOk k (identOf f) then portACTIVE else portMISWIRED)
        ∧ u.reg (Reg.frkPortPeerUid k) = (identOf f).uid ∧ otherPortsKept k s u))
    ∧ (s.portSt k = portACTIVE → answers (.linkRetrain p) s again ∧ answers (.linkMarkerLost p) s again ∧ answers (.portRetrain p) s again)
    ∧ (s.portSt k = portIDENT → answers (.portRetrain p) s again)
    ∧ (s.portSt k = portFAILED ∨ s.portSt k = portMISWIRED →
      answers (.portRetrain p) s (fun u => u.portSt k = portTRAINING ∧ (u.port k).fails = 0 ∧ (u.port k).retraining = false
        ∧ (u.port k).replay = (s.port k).replay ∧ otherPortsKept k s u))

/-- Up to two damaged symbols in each codeword of a flit are corrected and counted. A good flit in sequence is accepted, and one that holds a
whole message delivers it; one whose CRC fails is counted and answered with a NACK. A NACK makes the port resend from the flit it names, or retrain where a flit from there on has been resent eight times, and is repeated
while nothing advances. Credits and markers bring the peer's
counts. At a flit boundary an up port sends exactly one flit. -/
def Obligations.FlitsAreSentInOrderAndAcceptedInSequence : Prop :=
  ∀ (s : State) (p : Port),
    let k := p.val
    let h := fun (bytes : List Byte) => leAt bytes 0 4
    (∀ damage bytes, s.portSt k = portACTIVE → (∀ c < 2, (damageOf damage c).length ≤ 2) → 244 ≤ bytes.length → crc32c (bytes.take 244) = leAt bytes 244 4 → bits (h bytes) 2 0 = 4 →
      bits (h bytes) 18 7 = (s.port k).rxNext →
      answers (.flitReceive p damage bytes) s (fun u =>
        u.reg (Reg.frkPortCount k 2) =
          min (s.reg (Reg.frkPortCount k 2) + ((damageOf damage 0).length + (damageOf damage 1).length)) (2 ^ 64 - 1)
        ∧ u.arrived = s.arrived ++ [⟨k, bits (h bytes) 4 3, bits (h bytes) 6 5, 1, (bytes.drop 4).take 240⟩]
        ∧ (u.port k).rxNext = ((s.port k).rxNext + 1) % 4096 ∧ (u.port k).nack = none
        ∧ u.reg (Reg.frkPortCount k 1) = min (s.reg (Reg.frkPortCount k 1) + 1) (2 ^ 64 - 1) ∧ otherPortsKept k s u))
    ∧ (∀ damage bytes, s.portSt k = portACTIVE → (∀ c < 2, (damageOf damage c).length ≤ 2) → crc32c (bytes.take 244) ≠ leAt bytes 244 4 →
      answers (.flitReceive p damage bytes) s (fun u => u.arrived = s.arrived ∧ (u.port k).rxNext = (s.port k).rxNext
        ∧ (u.port k).nack = some (s.port k).rxNext ∧ u.reg (Reg.frkPortCount k 3) = min (s.reg (Reg.frkPortCount k 3) + 1) (2 ^ 64 - 1)
        ∧ otherPortsKept k s u))
    ∧ (∀ seq i, s.portSt k = portACTIVE → (s.port k).replay.findIdx? (fun f => f.seq == seq % 4096) = some i →
      (((s.port k).replay.drop i).any (fun f => decide (8 ≤ f.resent)) = false →
        answers (.linkNack p seq) s (fun u => (u.port k).resend = some i ∧ (u.port k).replay = (s.port k).replay ∧ otherPortsKept k s u))
      ∧ (((s.port k).replay.drop i).any (fun f => decide (8 ≤ f.resent)) = true →
        answers (.linkNack p seq) s (fun u => u.portSt k = portTRAINING ∧ (u.port k).retraining = true ∧ otherPortsKept k s u)))
    ∧ (s.portSt k = portACTIVE → (s.port k).nack = some (s.port k).rxNext →
      answers (.nackRepeat p) s (fun u => (u.port k).linkQ = (s.port k).linkQ ++ [linkBytes 1 (leBytes 2 (s.port k).rxNext)]
        ∧ otherPortsKept k s u))
    ∧ (∀ counts, s.portSt k = portACTIVE → ∀ c ∈ [Instr.linkCredit p counts, Instr.markerReceive p counts],
      answers c s (fun u => (∀ b < 16, Sparse.get (fun _ => 0) (u.port k).peerFreed b = leAt counts (4 * b) 4 % 4096)
        ∧ (u.port k).queue = (s.port k).queue ∧ otherPortsKept k s u))
    ∧ (s.portSt k = portIDENT ∨ s.portSt k = portACTIVE → (∀ i, (s.port k).resend = some i → i < (s.port k).replay.length) →
      answers (.flitBoundary p) s (fun u => (∃ b, u.sent = s.sent ++ [.flit k b])
        ∧ (u.port k).slot = (if (s.port k).slot = 79 then 0 else (s.port k).slot + 1)
        ∧ u.reg (Reg.frkPortCount k 0) = min (s.reg (Reg.frkPortCount k 0) + 1) (2 ^ 64 - 1) ∧ otherPortsKept k s u))

/-! ### HBM, the owner table and the Petal units (R249 to R280) -/

/-- A byte of a row of a stack. -/
def inRow (k pc bank row a : Nat) : Prop :=
  stackOf a = k ∧ pcOf a = pc ∧ bits (placeOf a) 25 22 = bank ∧ bits (placeOf a) 21 4 = row

/-- A refresh counts the requests it delays and changes nothing else. The patrol scrub corrects and counts a correctable atom. A stack enters
self-refresh in EMPTY. A row repair is accepted in EMPTY and STOPPED and refused with 0x040E otherwise; once its record is durable it ends,
and the row reads as zeros, every other byte as before. -/
def Obligations.StacksAreRefreshedScrubbedAndRepaired : Prop :=
  (∀ (s : State) (k : Stack) (n : Nat), 0 < n → answers (.hbmRefresh k n) s (fun u =>
      u.reg (Reg.hbmCount k.val 4) = min (s.reg (Reg.hbmCount k.val 4) + n) (2 ^ 32 - 1) ∧ u = { s with regs := u.regs, rises := u.rises }))
  ∧ (∀ (s : State) (a sym : Nat), s.fld Reg.hbmScrubStatus 0 0 = 1 → s.installed a 1 = true →
      answers (.hbmPatrolScrub ⟨a, .corrected sym⟩) s (fun u =>
        u.reg (Reg.hbmCount (stackOf a) 0) = min (s.reg (Reg.hbmCount (stackOf a) 0) + 1) (2 ^ 32 - 1)
        ∧ u.reg (Reg.hbmCount (stackOf a) 5) = min (s.reg (Reg.hbmCount (stackOf a) 5) + 1) (2 ^ 32 - 1)
        ∧ u.retests = s.retests ++ [⟨1, stackOf a, a / 64⟩] ∧ memoriesKept s u ∧ tilesKept s u ∧ u.move = s.move))
  ∧ (∀ (s : State) (k : Stack), s.jobState = jobEMPTY → answers (.hbmSelfRefresh k) s (fun u =>
      u.fld (Reg.hbmStatus k.val) 8 8 = 1 ∧ u = { s with regs := u.regs } ∧ regsKept (fun j => j = Reg.hbmStatus k.val) s u))
  ∧ (∀ (s : State) (k : Stack) (value : Nat) (resource : Bool), isBit (s.reg (Reg.hbmRepair k.val)) 38 = false → isBit value 32 = true →
      (s.repairable = true → resource = true → isBit value 34 = false → answers (.hbmRepairGo k value resource) s (fun u =>
        isBit (u.reg (Reg.hbmRepair k.val)) 38 = true ∧ u.fld (Reg.hbmRepair k.val) 31 4 = bits value 31 4
        ∧ u.repairsDue.length = s.repairsDue.length + 1 ∧ memoriesKept s u ∧ tilesKept s u))
      ∧ (s.repairable = false → answers (.hbmRepairGo k value resource) s (fun u =>
        u.fld (Reg.hbmRepair k.val) 63 48 = 0x040E ∧ isBit (u.reg (Reg.hbmRepair k.val)) 38 = false ∧ u.repairsDue = s.repairsDue
        ∧ memoriesKept s u ∧ tilesKept s u)))
  ∧ (∀ (s : State) (k : Stack), isBit (s.reg (Reg.hbmRepair k.val)) 38 = true →
      s.repairsDue.any (fun e => leAt e 0 1 == 6 && leAt e 1 1 == k.val) = false →
      let f := s.reg (Reg.hbmRepair k.val)
      answers (.hbmRepairDone k) s (fun u =>
        isBit (u.reg (Reg.hbmRepair k.val)) 38 = false ∧ u.fld (Reg.hbmRepair k.val) 63 48 = 0
        ∧ (∀ a, inRow k.val (bits f 31 26) (bits f 25 22) (bits f 21 4) a → Mem.byte u.hbm a = 0)
        ∧ bytesKept (inRow k.val (bits f 31 26) (bits f 25 22) (bits f 21 4)) s.hbm u.hbm
        ∧ banksKept s u ∧ hostSideKept s u ∧ tilesKept s u))

/-- The host reads an entry of the owner table in any job state. It writes one in LOADED and STOPPED only: the write reaches all four copies
and no cache holds the entry after it; in any other state it is refused with 0x040C and changes no memory. A staged write reaches all four
copies in its turn. -/
def Obligations.TheOwnerTableIsReadAndWritten : Prop :=
  ∀ (s : State),
    let i := s.fld Reg.hbmOwnIndex 20 0
    (∀ mem, (mem = [] ∨ (stagedValue i s.staging).isSome = true) → answers (.hbmOwnRead mem) s (fun u =>
        u.reg Reg.hbmOwnData = s.ownerEntry 0 i % 2 ^ 64 ∧ u.fld Reg.hbmOwnCmd 31 16 = 0 ∧ u = { s with regs := u.regs, rises := u.rises }))
    ∧ (∀ mem, answers (.hbmOwnRead mem) s (fun u => u.fld Reg.hbmOwnCmd 31 16 = 0 ∧ u.fld Reg.hbmOwnIndex 20 0 = i ∧ memoriesKept s u ∧ tilesKept s u))
    ∧ (s.jobState = jobLOADED ∨ s.jobState = jobSTOPPED → answers .hbmOwnWrite s (fun u =>
        (∀ d < 4, Mem.le u.hbm (s.ownerAddr d i) 8 = s.reg Reg.hbmOwnData)
        ∧ (∀ d < 4, i ∉ Sparse.get (fun _ => ([] : List Nat)) u.ownerCache (d * 4096 + i % 4096))
        ∧ u.ownerEntry 0 i = s.reg Reg.hbmOwnData ∧ u.fld Reg.hbmOwnCmd 31 16 = 0
        ∧ bytesKept (fun a => ∃ d < 4, inRange (s.ownerAddr d i) 8 a) s.hbm u.hbm ∧ banksKept s u ∧ hostSideKept s u ∧ tilesKept s u))
    ∧ (s.jobState ≠ jobLOADED → s.jobState ≠ jobSTOPPED → answers .hbmOwnWrite s (fun u =>
        u.fld Reg.hbmOwnCmd 31 16 = 0x040C ∧ u = { s with regs := u.regs } ∧ regsKept (fun k => k = Reg.hbmOwnCmd) s u))
    ∧ (∀ e rest, s.staging = e :: rest → e.1 < 2 ^ 21 → answers .ownerStagingDrain s (fun u =>
        u.staging = rest ∧ (∀ d < 4, Mem.le u.hbm (s.ownerAddr d e.1) 8 = e.2.toNat) ∧ banksKept s u ∧ hostSideKept s u ∧ tilesKept s u))

/-- The dispatcher takes the oldest command that waits: one that passes its checks is queued at its units, once each of them has room; a host
command that fails a check ends with its code and is counted. A command whose last atom is written leaves, and each unit it reached counts it. -/
def Obligations.PetalCommandsAreDispatchedAndCompleted : Prop :=
  ∀ (s : State) (k : Nat) (q : PetalCmd), s.petals[k]? = some q →
    ((∀ j x, j < k → s.petals[j]? = some x → x.stage ≠ 0) → q.stage = 0 → (q.host = true ∨ s.xfersRun = true) →
      ∀ env : OpEnv,
      (s.petalHeldBack q = false → s.petalCode q = 0 → s.petalRoom (petalOf q.cmd) = true → answers (.petalDispatch env) s (fun u =>
        (∃ r, u.petals = s.petals.set k { q with stage := 1, rows := r })
        ∧ bytesSame s.hbm u.hbm ∧ hostSideKept s u ∧ (env.flips = [] → banksKept s u) ∧ (∀ x, x ≠ s.phys q.tile → u.tile x = s.tile x)
        ∧ (q.host = true ∨ q.out = false ∨ q.rowBytes = 0 → u.regs = s.regs ∧ memoriesKept s u ∧ tilesKept s u)))
      ∧ (s.petalHeldBack q = true ∨ (s.petalCode q = 0 ∧ s.petalRoom (petalOf q.cmd) = false) → exec (.petalDispatch env) s = .next s)
      ∧ (s.petalCode q ≠ 0 → q.host = true → (petalOf q.cmd).home < 16 → answers (.petalDispatch env) s (fun u =>
        (∀ x ∈ u.petals, ¬ (x.host = true ∧ x.ring = q.ring ∧ x.seq = q.seq))
        ∧ u.reg (Reg.petCount (petalOf q.cmd).home 1) = min (s.reg (Reg.petCount (petalOf q.cmd).home 1) + 1) (2 ^ 32 - 1)
        ∧ memoriesKept s u ∧ tilesKept s u)))
    ∧ (q.stage = 2 → (∀ j ∈ (petalOf q.cmd).stacks, j < 16) → answers (.petalComplete k) s (fun u =>
        u.petals = s.petals.eraseIdx k
        ∧ (∀ j ∈ (petalOf q.cmd).stacks, u.reg (Reg.petCount j 0) = min (s.reg (Reg.petCount j 0) + 1) (2 ^ 32 - 1))
        ∧ (q.host = true → Mem.read u.hbm q.dest q.result.length = q.result ∧ bytesKept (inRange q.dest q.result.length) s.hbm u.hbm ∧ banksKept s u)
        ∧ (q.host = false → bytesSame s.hbm u.hbm ∧ bytesKept (inBanks (s.phys q.tile)) s.sram u.sram)
        ∧ hostSideKept s u ∧ u.move = s.move))

/-- The operations of the Petal units: number, command (R262). -/
def petalCommands (k : Nat) (order : List Nat) (mem : MemEnv) : List (Nat × Instr) :=
  [(1, .gatherPool k order mem), (2, .scatterAdd k order mem), (3, .sparseOptim k order mem), (4, .petalCompress k mem), (5, .decompress k mem),
   (6, .petalFill k mem), (7, .petalCopy k mem)]

/-- A queued Petal command of each operation that may run is carried out, with no bank, tile or host byte changed. GATHER_POOL writes nothing
itself and leaves OSTRIDE bytes for every bag; SCATTER_ADD writes nothing but rows of its table; FILL repeats its pattern; COPY copies. -/
def Obligations.PetalOperationsAreCarriedOut : Prop :=
  ∀ (s : State) (k : Nat) (order : List Nat) (mem : MemEnv) (q : PetalCmd), s.petals[k]? = some q →
    let c := petalOf q.cmd
    let done := fun (u : State) => ∃ r, u.petals = s.petals.set k { q with stage := 2, result := r }
    (∀ p ∈ petalCommands k order mem, s.petalReady k p.1 q = true → (c.gate = true → s.fld Reg.netVoteStatus 0 0 = 1) →
      answers p.2 s (fun u => done u ∧ banksKept s u ∧ hostSideKept s u ∧ tilesKept s u ∧ u.move = s.move))
    ∧ (s.petalReady k 1 q = true → c.void = false → answers (.gatherPool k order mem) s (fun u =>
        bytesSame s.hbm u.hbm ∧ ∃ r, u.petals = s.petals.set k { q with stage := 2, result := r } ∧ r.length = c.count * c.ostride))
    ∧ (s.petalReady k 2 q = true → c.a0 % 64 = 0 → 6 ≤ c.se → c.dim * fmtW c.fmtT ≤ 2 ^ c.se → c.fmtT ≤ 4 → answers (.scatterAdd k order mem) s (fun u =>
        bytesKept (inRange c.a0 (c.lim0 * 2 ^ c.se)) s.hbm u.hbm))
    ∧ (s.petalReady k 6 q = true → c.void = false → answers (.petalFill k []) s (fun u =>
        Mem.read u.hbm c.a0 (64 * c.count) = (List.range (8 * c.count)).flatMap (fun _ => leBytes 8 c.a1)
        ∧ bytesKept (inRange c.a0 (64 * c.count)) s.hbm u.hbm))
    ∧ (s.petalReady k 7 q = true → c.void = false → answers (.petalCopy k []) s (fun u =>
        Mem.read u.hbm c.a1 (64 * c.count) = Mem.read s.hbm c.a0 (64 * c.count)
        ∧ bytesKept (inRange c.a1 (64 * c.count)) s.hbm u.hbm))

/-! ### The rings and the commands of the host (R242 to R246, R429, R460, R472 to R481) -/

/-- Command `b` of ring `r` has ended with a status: its completion is due, the head has passed it and NEXT follows it. -/
def ringEnded (s u : State) (r : Nat) (b : List Byte) (status : Nat) : Prop :=
  u.completions = s.completions ++ [⟨r, cmdSeq b, status, false, u.sqHead r, 0, 0⟩]
  ∧ u.sqHead r = (s.sqHead r + 1) % s.sqSize r ∧ u.fld (Reg.hqSqSeq r) 31 0 = (cmdSeq b + 1) % 2 ^ 32

/-- Command `b` of ring `r` has been taken and goes on. -/
def ringTaken (s u : State) (r : Nat) (b : List Byte) : Prop :=
  u.completions = s.completions ∧ u.sqHead r = (s.sqHead r + 1) % s.sqSize r ∧ u.fld (Reg.hqSqSeq r) 31 0 = (cmdSeq b + 1) % 2 ^ 32

/-- The commands that a ring's entry may be, beside those of job control, and their opcodes (R479). -/
def ringCommands (r : Ring) : List (Nat × Instr) :=
  [(0, .nop r), (5, .register r), (6, .unregister r), (7, .petal r), (8, .memcopy r), (0x0A, .flashRead r)]

/-- The commands of a ring are taken in order. The one whose SEQ is NEXT is executed: NOP ends at once; REGISTER replaces its region and
UNREGISTER removes it, outside LOADING and RUNNING; PETAL goes to the dispatcher, MEMCOPY and FLASH_READ start their copies. A SEQ above
NEXT is completed as a gap, one far below it as stale, and neither is executed. No byte of any memory changes. -/
def Obligations.HostCommandsAreTakenInOrder : Prop :=
  ∀ (s : State) (r : Ring) (b : List Byte), s.sqEntry r.val = some b → s.sqSize r.val ≤ 2 ^ 16 →
    let next := s.fld (Reg.hqSqSeq r.val) 31 0
    let waits := fun (op : Nat) => (s.heldCmds.any (fun c => cmdOp c.bytes == op)) = true
    (cmdSeq b = next →
      (cmdOp b = 0 → answers (.nop r) s (fun u => ringEnded s u r.val b (if cmdClean b 0 [] = true then 0 else 0x0A02)
          ∧ memoriesKept s u ∧ tilesKept s u))
      ∧ (cmdOp b = 5 → s.idleJob = true → cmdClean b 0 [(8, 1), (16, 8), (24, 8)] = true → leAt b 8 1 < 128 → leAt b 16 8 % 4096 = 0 →
          leAt b 24 8 % 4096 = 0 → leAt b 24 8 ≤ 2 ^ 40 → answers (.register r) s (fun u => ringEnded s u r.val b 0
          ∧ u.region (leAt b 8 1) = (if leAt b 24 8 = 0 then s.region (leAt b 8 1) else ⟨leAt b 16 8, leAt b 24 8⟩)
          ∧ (∀ i, i ≠ leAt b 8 1 → u.region i = s.region i) ∧ memoriesKept s u ∧ tilesKept s u))
      ∧ (cmdOp b = 6 → s.idleJob = true → cmdClean b 0 [(8, 1)] = true → leAt b 8 1 < 128 → answers (.unregister r) s (fun u =>
          ringEnded s u r.val b 0 ∧ u.region (leAt b 8 1) = HostRegion.none ∧ (∀ i, i ≠ leAt b 8 1 → u.region i = s.region i)
          ∧ memoriesKept s u ∧ tilesKept s u))
      ∧ (s.idleJob = false → (cmdOp b = 5 → answers (.register r) s (fun u => ringEnded s u r.val b 0x0A07 ∧ u.regions = s.regions))
          ∧ (cmdOp b = 6 → answers (.unregister r) s (fun u => ringEnded s u r.val b 0x0A07 ∧ u.regions = s.regions)))
      ∧ (let cmd := Mem.read s.hostMem ((s.region (leAt b 8 1)).base + leAt b 16 8) 64;
          cmdOp b = 7 → s.memoryUp = true → ¬ waits 7 → s.holdsJob = true → cmdClean b 0 [(8, 1), (16, 8), (24, 8)] = true → leAt b 8 1 < 128 →
          s.inRegion (leAt b 8 1) (leAt b 16 8) 64 = true → (leAt cmd 0 1 = 1 ∨ leAt b 24 8 = 0) →
          answers (.petal r) s (fun u => ringTaken s u r.val b ∧ memoriesKept s u ∧ tilesKept s u ∧ ∃ q, u.petals = s.petals ++ [q]
            ∧ q.cmd = cmd ∧ q.host = true ∧ q.ring = r.val ∧ q.seq = cmdSeq b ∧ q.dest = leAt b 24 8 ∧ q.stage = 0))
      ∧ (cmdOp b = 8 → s.memoryUp = true → ¬ waits 8 → s.holdsJob = true → leAt b 8 1 < 128 → leAt b 9 1 ≤ 1 →
          cmdClean b 0 [(8, 1), (9, 1), (16, 8), (24, 8), (32, 8)] = true → allOnes b 32 8 = false → leAt b 32 8 ≠ 0 →
          s.inRegion (leAt b 8 1) (leAt b 16 8) (leAt b 32 8) = true → s.inJob (leAt b 24 8) (leAt b 32 8) = true →
          answers (.memcopy r) s (fun u => ringTaken s u r.val b ∧ u.copies = s.copies ++ [⟨false, r.val, cmdSeq b, b⟩]
            ∧ memoriesKept s u ∧ tilesKept s u))
      ∧ (cmdOp b = 0x0A → leAt b 8 1 ≤ 1 → leAt b 9 1 < 128 → cmdClean b 0 [(8, 1), (9, 1), (16, 8), (24, 8), (32, 8)] = true →
          allOnes b 32 8 = false → leAt b 32 8 ≠ 0 → leAt b 24 8 + leAt b 32 8 ≤ 1900000000000 →
          s.inRegion (leAt b 9 1) (leAt b 16 8) (leAt b 32 8) = true → isBit (s.reg Reg.netSnapStatus) 2 = false →
          answers (.flashRead r) s (fun u => ringTaken s u r.val b ∧ u.copies = s.copies ++ [⟨true, r.val, cmdSeq b, b⟩]
            ∧ memoriesKept s u ∧ tilesKept s u)))
    ∧ (∀ q ∈ ringCommands r, cmdOp b = q.1 → ¬ waits q.1 → cmdSeq b ≠ next → (cmdSeq b + 2 ^ 32 - next) % 2 ^ 32 < 2 ^ 32 - 256 →
        answers q.2 s (fun u =>
          u.completions = s.completions ++ [⟨r.val, cmdSeq b, if (cmdSeq b + 2 ^ 32 - next) % 2 ^ 32 < 2 ^ 31 then 0x0A06 else 0x0A05, false,
            u.sqHead r.val, 0, 0⟩]
          ∧ u.sqHead r.val = (s.sqHead r.val + 1) % s.sqSize r.val ∧ u.fld (Reg.hqSqSeq r.val) 31 0 = next
          ∧ u.regions = s.regions ∧ u.petals = s.petals ∧ u.copies = s.copies ∧ memoriesKept s u ∧ tilesKept s u))

/-- A copy writes its bytes whole, and completes. A completion is written at the tail of its CQ, with the phase of the pass, and the tail
advances; doorbells below the ring's size move tail and head, others count; the settings of a ring that is enabled stand; causes that the
host clears are cleared unless they occur again in the same cycle. -/
def Obligations.RingsCarryCompletions : Prop :=
  ∀ (s : State),
    (∀ (k : Nat) (c : CopyCmd) (t : Taken), s.Canonical → s.copies[k]? = some c → (s.takenOf c.ring).find? (fun t => t.seq == c.seq) = some t →
      t.repeats = [] →
      let ended := fun (u : State) => u.copies = s.copies.eraseIdx k ∧ u.completions = s.completions ++ [⟨c.ring, c.seq, 0, false, t.head, 0, 0⟩]
        ∧ banksKept s u ∧ tilesKept s u ∧ u.move = s.move
      let h := (s.region (leAt c.bytes (if c.flash then 9 else 8) 1)).base + leAt c.bytes 16 8
      let a := leAt c.bytes 24 8
      let n := leAt c.bytes 32 8
      (c.flash = false → ∀ mem, answers (.memcopyComplete k mem) s (fun u => ended u ∧ bytesSame s.flash u.flash
          ∧ (leAt c.bytes 9 1 = 0 → hostSideKept s u)))
      ∧ (c.flash = false → leAt c.bytes 9 1 = 0 → answers (.memcopyComplete k []) s (fun u => ended u
          ∧ Mem.read u.hbm a n = Mem.read s.hostMem h n ∧ bytesKept (inRange a n) s.hbm u.hbm ∧ hostSideKept s u))
      ∧ (c.flash = false → leAt c.bytes 9 1 ≠ 0 → answers (.memcopyComplete k []) s (fun u => ended u
          ∧ Mem.read u.hostMem h n = Mem.read s.hbm a n ∧ bytesKept (inRange h n) s.hostMem u.hostMem ∧ bytesSame s.hbm u.hbm))
      ∧ (c.flash = true → answers (.flashReadComplete k) s (fun u => ended u
          ∧ Mem.read u.hostMem h n = Mem.read s.flash (leAt c.bytes 8 1 * 2 ^ 41 + a) n ∧ bytesKept (inRange h n) s.hostMem u.hostMem
          ∧ bytesSame s.hbm u.hbm ∧ bytesSame s.flash u.flash)))
    ∧ (∀ (c : Ring) (k : Nat) (x : Completion), s.completions.findIdx? (fun x => s.boundCq x.ring == c.val) = some k →
      s.completions[k]? = some x → s.cqFull c.val = false → s.d3 = false → s.cqSize c.val ≤ 2 ^ 16 →
      let ph := s.fld (Reg.hqCqStatus c.val) 0 0
      let a := bits (s.reg (Reg.hqCqBase c.val)) 63 6 * 64 + 32 * s.cqTail c.val
      answers (.completionPost c) s (fun u =>
        u.completions = s.completions.eraseIdx k ∧ Mem.le u.hostMem a 4 = x.seq % 2 ^ 32 ∧ Mem.le u.hostMem (a + 4) 2 = x.status % 2 ^ 16
        ∧ Mem.le u.hostMem (a + 6) 1 = x.ring % 256 ∧ Mem.le u.hostMem (a + 7) 1 = ph + 2 * b2n x.again ∧ Mem.le u.hostMem (a + 8) 2 = x.head % 2 ^ 16
        ∧ Mem.le u.hostMem (a + 16) 8 = x.result0 % 2 ^ 64 ∧ Mem.le u.hostMem (a + 24) 8 = x.result1 % 2 ^ 64
        ∧ bytesKept (inRange a 32) s.hostMem u.hostMem ∧ u.cqTail c.val = (s.cqTail c.val + 1) % s.cqSize c.val
        ∧ u.fld (Reg.hqCqStatus c.val) 0 0 = (if s.cqTail c.val + 1 = s.cqSize c.val then 1 - ph else ph)
        ∧ regsKept (fun j => j = Reg.hqCqStatus c.val) s u ∧ bytesSame s.hbm u.hbm ∧ banksKept s u ∧ tilesKept s u))
    ∧ (∀ (r : Ring) (value : Nat) (stores : List (Nat × List Byte)), let v := bits value 15 0
      answers (.sqDoorbell r value stores) s (fun u =>
        u.fld (Reg.hqSqTail r.val) 15 0 = (if s.sqSize r.val ≤ v then s.fld (Reg.hqSqTail r.val) 15 0 else v)
        ∧ (s.sqSize r.val ≤ v → u.reg (Reg.hqErrCount 3) = min (s.reg (Reg.hqErrCount 3) + 1) (2 ^ 32 - 1))
        ∧ bytesKept (fun a => ∃ w ∈ stores, inRange w.1 w.2.length a) s.hostMem u.hostMem ∧ bytesSame s.hbm u.hbm ∧ banksKept s u))
    ∧ (∀ (c : Ring) (value : Nat), let v := bits value 15 0
      answers (.cqDoorbell c value) s (fun u =>
        u.fld (Reg.hqCqHead c.val) 15 0 = (if s.cqSize c.val ≤ v then s.fld (Reg.hqCqHead c.val) 15 0 else v)
        ∧ (s.cqSize c.val ≤ v → u.reg (Reg.hqErrCount 3) = min (s.reg (Reg.hqErrCount 3) + 1) (2 ^ 32 - 1)) ∧ memoriesKept s u))
    ∧ (∀ (r : Ring) (value : Nat), 4 ≤ bits value 12 8 → bits value 12 8 ≤ 16 →
        answers (.ringCtlWrite false r value) s (fun u =>
          u.sqEnabled r.val = isBit value 0 ∧ memoriesKept s u
          ∧ (s.sqEnabled r.val = true → u.sqSize r.val = s.sqSize r.val ∧ u.boundCq r.val = s.boundCq r.val ∧ u.sqHead r.val = s.sqHead r.val)
          ∧ (s.sqEnabled r.val = false → u.sqSize r.val = 2 ^ bits value 12 8 ∧ u.boundCq r.val = bits value 21 16
              ∧ (isBit value 0 = true → u.sqHead r.val = 0)))
        ∧ (s.cqEnabled r.val = false → answers (.ringCtlWrite true r value) s (fun u =>
          u.cqEnabled r.val = isBit value 0 ∧ u.cqSize r.val = 2 ^ bits value 12 8 ∧ (isBit value 0 = true → u.cqTail r.val = 0) ∧ memoriesKept s u)))
    ∧ (∀ (cq : Bool) (r : Ring) (value : Nat), bits value 12 8 < 4 ∨ 16 < bits value 12 8 → exec (.ringCtlWrite cq r value) s = .next s)
    ∧ (∀ (value : Nat) (set : List (Fin 7)), answers (.intCauseClear value set) s (fun u =>
        (∀ i : Fin 7, isBit (u.reg Reg.hqIntCause) i.val = (decide (i ∈ set) || (isBit (s.reg Reg.hqIntCause) i.val && !isBit value i.val)))
        ∧ regsKept (fun k => k = Reg.hqIntCause) s u ∧ memoriesKept s u ∧ tilesKept s u))

/-- The job-control command at the head has ended with a status. -/
def jobEnded (s u : State) (c : JobCmd) (rest : List JobCmd) (t : Taken) (status r0 : Nat) : Prop :=
  u.jobCmds = rest ∧ u.completions = s.completions ++ [⟨c.ring, c.seq, status, false, t.head, r0, 0⟩]

/-- A job-control command at the head that may run does so. START runs a job that no error, no stop condition and no limit keeps back, and
STOP asks for its stop at a tick. LOAD from EMPTY validates its image and leaves the device LOADED at move 0, or EMPTY with the reason of the
first failure; checking alone changes no state. UNLOAD empties every job region. RESHARD enters its first phase when its plan is valid, and a
plan of no entries does nothing; RETURN sends the kept parts, and RESTORE leaves the device STOPPED at the move after its snapshot's step. The
end of the fill, but that of power-on, ends an UNLOAD. -/
def Obligations.JobCommandsMoveTheJobState : Prop :=
  ∀ (s : State) (r : Ring),
    (∀ (c : JobCmd) (rest : List JobCmd) (t : Taken), s.ready = true → s.jobCmds = c :: rest → c.begun = false → s.filling = false →
      (s.takenOf c.ring).find? (fun t => t.seq == c.seq) = some t → t.repeats = [] →
      let b := c.bytes
      let kept := fun (u : State) => memoriesKept s u ∧ tilesKept s u ∧ u.move = s.move
      let idle := s.jobState = jobLOADED ∨ s.jobState = jobSTOPPED
      let goesOnLater := fun (u : State) => u.jobCmds = { c with begun := true } :: rest ∧ u.completions = s.completions
      (cmdOp b = 3 → idle → cmdClean b 0 [] = true → s.job.mustRestore = false → s.testing = 0 → s.power.stops = 0 → s.stackHostBad = false →
        answers (.start r) s (fun u => jobEnded s u c rest t 0 0 ∧ kept u
          ∧ (if s.reg Reg.netStepLimit ≤ s.stepNumber then u.jobState = s.jobState else u.jobState = jobRUNNING ∧ u.fld Reg.netJobState 10 8 = 0)))
      ∧ (cmdOp b = 3 → idle → cmdClean b 0 [] = true → s.job.mustRestore = true →
        answers (.start r) s (fun u => jobEnded s u c rest t 0x0908 0 ∧ kept u ∧ u.jobState = s.jobState))
      ∧ (cmdOp b = 4 → cmdClean b 0 [] = true → s.jobState = jobRUNNING →
        answers (.stop r) s (fun u => goesOnLater u ∧ u.job.stopDriver = true ∧ u.jobState = jobRUNNING ∧ kept u))
      ∧ (cmdOp b = 2 → cmdClean b 0 [] = true → s.jobState = jobEMPTY → answers (.unload r) s (fun u => jobEnded s u c rest t 0 0 ∧ kept u))
      ∧ (cmdOp b = 2 → cmdClean b 0 [] = true → idle → answers (.unload r) s (fun u =>
          u.jobCmds = { c with begun := true } :: rest ∧ u.filling = true ∧ u.tiles = [] ∧ (∀ a, Mem.byte u.sram a = 0) ∧ u.job.image = none
          ∧ (∀ d < 4, ∀ a < s.jobBytes d, Mem.byte u.hbm (dieBase d + a) = 0) ∧ hostSideKept s u))
      ∧ (let s1 := s.beginJob.receiveImage (s.regionSrc (leAt b 8 1) (leAt b 16 8)) (leAt b 24 8);
          let i : ImgSrc := ⟨s1.hbm, s1.imageBase⟩;
          cmdOp b = 1 → leAt b 1 1 % 2 = 0 → s.testing = 0 → s.loadCode b = 0 → leAt b 24 8 ≠ 0 → s.jobState = jobEMPTY →
          (s1.validate i (leAt b 24 8) = none → i.le 24 4 ≠ 0 → answers (.load r) s (fun u => jobEnded s u c rest t 0 (i.le 40 8)
            ∧ u.jobState = jobLOADED ∧ u.reg Reg.netImgId = i.le 40 8 ∧ u.reg Reg.netImgReject = 0 ∧ u.move = 0 ∧ u.offset = 0
            ∧ u.job.image = some (s1.imageOf i) ∧ hostSideKept s u))
          ∧ (∀ x : Reject, s1.validate i (leAt b 24 8) = some x → x.phase < 8 → answers (.load r) s (fun u =>
            u.jobCmds = rest ∧ u.fld Reg.netImgReject 63 48 = x.code % 2 ^ 16 ∧ isBit (u.reg Reg.netImgReject) 31 = true ∧ u.filling = true
            ∧ u.job.image = none ∧ hostSideKept s u)))
      ∧ (let v := s.validate (s.regionSrc (leAt b 8 1) (leAt b 16 8)) (leAt b 24 8);
          cmdOp b = 1 → leAt b 1 1 % 2 = 1 → s.testing = 0 → s.loadCode b = 0 → leAt b 24 8 ≠ 0 →
          (v = none → answers (.loadCheckOnly r) s (fun u => jobEnded s u c rest t 0 ((s.regionSrc (leAt b 8 1) (leAt b 16 8)).le 40 8)
            ∧ u.reg Reg.netImgReject = 0 ∧ kept u ∧ u.jobState = s.jobState ∧ u.job = s.job))
          ∧ (∀ x : Reject, v = some x → x.phase < 8 → answers (.loadCheckOnly r) s (fun u => u.jobCmds = rest
            ∧ u.fld Reg.netImgReject 63 48 = x.code % 2 ^ 16 ∧ kept u ∧ u.jobState = s.jobState ∧ u.job = s.job)))
      ∧ (cmdOp b = 9 → cmdClean b 0 [(8, 8)] = true →
          (s.reshardReason (leAt b 8 8) = 0 → s.planEntries = [] → answers (.reshard r) s (fun u =>
            jobEnded s u c rest t 0 0 ∧ u.reshard = s.reshard ∧ kept u))
          ∧ (s.reshardReason (leAt b 8 8) = 0 → s.planEntries ≠ [] → answers (.reshard r) s (fun u => goesOnLater u ∧ kept u
            ∧ u.reshard = some { s.planOf' (leAt b 8 8) with phase := 0 }))
          ∧ (s.reshardReason (leAt b 8 8) ≠ 0 → answers (.reshard r) s (fun u => jobEnded s u c rest t 0x0809 0 ∧ u.reshard = s.reshard ∧ kept u)))
      ∧ (∀ q, cmdOp b = 0x0B → s.secureConn 10 = some q → idle → cmdClean b 0 [(8, 4)] = true →
          s.reg (Reg.netSnapSlot (1 + leAt b 8 4 % 2)) = leAt b 8 4 * 2 ^ 32 + 1 → answers (.returnSlot r) s (fun u => goesOnLater u ∧ kept u))
      ∧ (let bases := s.slotBases 0;
          cmdOp b = 0x0C → s.testing = 0 → idle → cmdClean b 0 [(8, 4)] = true → s.secureSec ≠ [] → s.restoreCode s.hbm bases (leAt b 8 4) = 0 →
          answers (.restore r) s (fun u => jobEnded s u c rest t 0 0 ∧ u.jobState = jobSTOPPED ∧ u.job.mustRestore = false ∧ u.job.err = false
            ∧ u.move = (Mem.le s.hbm (bases.getD 0 0 + 24) 8 + 1) * s.stepMoves % 2 ^ 64 ∧ u.offset = 0 ∧ hostSideKept s u)))
    ∧ (s.filling = true → s.fld Reg.hqDevStatus 7 4 ≠ 3 →
        (s.jobCmd 1 = none → s.jobCmd 2 = none → answers .emptyFillDone s (fun u =>
          u.filling = false ∧ u.jobState = jobEMPTY ∧ u.fld Reg.netJobState 10 8 = 0 ∧ u.completions = s.completions ∧ memoriesKept s u))
        ∧ (∀ c rest t, s.jobCmd 1 = none → s.jobCmd 2 = some c → s.jobCmds = c :: rest →
          (s.takenOf c.ring).find? (fun t => t.seq == c.seq) = some t → t.repeats = [] → answers .emptyFillDone s (fun u =>
          u.filling = false ∧ u.jobState = jobEMPTY ∧ jobEnded s u c rest t 0 0 ∧ memoriesKept s u)))

/-! ### Resilience (R437 to R463) -/

/-- A due snapshot starts its capture unless the OUT slot is busy, which postpones it; a finished capture starts both layers; an acknowledged
layer 1 and a written layer 2 end with their records. The parts of the snapshot carry the magic and its number, and the flash slot begins with
the first of them. SNAP_NOW asks for a snapshot; CASTLE_CLEAR in EMPTY clears the region and its slots. -/
def Obligations.SnapshotsAreCapturedAndSecured : Prop :=
  ∀ (s : State),
    let n := s.fld Reg.netSnapStatus 63 32
    let kept := fun (u : State) => banksKept s u ∧ hostSideKept s u ∧ tilesKept s u ∧ u.move = s.move
    (s.snap.due = true → s.outBusy = false → s.staging = [] → (∀ d < 4, s.partBytes d ≤ s.slotBytes d) →
      (∀ d < 4, s.castleBytes d ≤ if d = 0 then s.imageOff else s.ownerOff) →
      (∀ r ∈ s.secRanges, r.tile = true → s.blockedReads (s.phys r.t) .dma false [byteRun r.addr r.bytes] = []) → answers (.snapshotCapture [] []) s (fun u =>
        u.fld Reg.netSnapStatus 63 32 = (n + 1) % 2 ^ 32 ∧ u.fld Reg.netSnapStatus 3 0 = 1 ∧ u.snap.due = false
        ∧ u.reg (Reg.netSnapSlot 0) = (n + 1) % 2 ^ 32 * 2 ^ 32
        ∧ (∀ d < 4, Mem.read u.hbm (s.slotBase d 0) 8 = snapMagic ∧ Mem.le u.hbm (s.slotBase d 0 + 16) 4 = (n + 1) % 2 ^ 32)
        ∧ bytesKept (fun a => ∃ d < 4, inRange (s.slotBase d 0) (s.slotBytes d) a) s.hbm u.hbm ∧ kept u))
    ∧ (s.snap.due = true → s.outBusy = true → answers (.snapshotCapture [] []) s (fun u =>
        u.fld Reg.netSnapStatus 3 3 = 1 ∧ u.fld Reg.netSnapStatus 63 32 = n ∧ u.snap.due = false ∧ bytesSame s.hbm u.hbm ∧ kept u))
    ∧ (isBit (s.reg Reg.netSnapStatus) 0 = true → answers .snapshotCaptureDone s (fun u =>
        u.reg Reg.netSnapStatus = n * 2 ^ 32 + 6 ∧ u.reg (Reg.netSnapSlot 0) = n * 2 ^ 32 + 1
        ∧ u.reg (Reg.netResCount 6) = min (s.reg (Reg.netResCount 6) + 1) (2 ^ 32 - 1) ∧ bytesSame s.hbm u.hbm ∧ kept u))
    ∧ (∀ r, s.secureConn 8 = some r → isBit (s.reg Reg.netSnapStatus) 1 = true → s.snapUnacked r.conn = false →
        answers .snapshotPartnerSecured s (fun u => isBit (u.reg Reg.netSnapStatus) 1 = false
        ∧ u.fld Reg.netSnapStatus 63 32 = n ∧ isBit (u.reg Reg.hqIntCause) 4 = true ∧ bytesSame s.hbm u.hbm ∧ kept u))
    ∧ (isBit (s.reg Reg.netSnapStatus) 2 = true → s.copies.any (fun c => c.flash && leAt c.bytes 8 1 == n % 2) = false →
        (∀ ok, answers (.snapshotFlashSecured ok) s (fun u => isBit (u.reg Reg.netSnapStatus) 2 = false
          ∧ u.reg (Reg.netSnapSlot (3 + n % 2)) = n * 2 ^ 32 + b2n ok ∧ isBit (u.reg Reg.hqIntCause) 4 = true
          ∧ bytesSame s.hbm u.hbm ∧ banksKept s u ∧ bytesSame s.hostMem u.hostMem ∧ tilesKept s u ∧ u.move = s.move))
        ∧ (s.Canonical → answers (.snapshotFlashSecured true) s (fun u =>
          let len := Mem.le s.hbm (s.slotBase 0 0 + 48) 8
          Mem.read u.flash (n % 2 * 2 ^ 41) len = Mem.read s.hbm (s.slotBase 0 0) len)))
    ∧ answers .snapNow s (fun u => u = { s with snap := { s.snap with now := true } })
    ∧ (s.jobState = jobEMPTY → answers .castleClear s (fun u =>
        (∀ d < 4, ∀ a < s.castleBytes d, Mem.byte u.hbm (dieBase d + s.castleOff d + a) = 0)
        ∧ (∀ i < 3, u.fld (Reg.netSnapSlot i) 0 0 = 0)
        ∧ bytesKept (fun a => ∃ d < 4, inRange (dieBase d + s.castleOff d) (s.castleBytes d) a) s.hbm u.hbm ∧ kept u))

/-- Self-tests run where no job runs, one of a unit at a time, and end with a verdict that is counted; a corrected place is tested again.
A repair becomes durable as the last entry of a new copy of the record, which is read entry by entry. -/
def Obligations.UnitsAreTestedAndRepairsRecorded : Prop :=
  ∀ (s : State),
    let up := fun (u : State) (i : Nat) => u.reg (Reg.netResCount i) = min (s.reg (Reg.netResCount i) + 1) (2 ^ 32 - 1)
    (∀ (i : Nat) (x : TestJob), s.job.tests[i]? = some x → s.testable = true → x.running = false →
      (s.job.tests.take i).any (fun y => y.sameUnit x) = false → testKind x.code ≠ 7 → answers (.selfTest i) s (fun u =>
        u.job.tests = s.job.tests.set i { x with running := true } ∧ bytesSame s.hbm u.hbm ∧ hostSideKept s u ∧ u.regs = s.regs
        ∧ (testKind x.code ≠ 4 → banksKept s u) ∧ (∀ p, p ≠ x.tile → u.tile p = s.tile p)))
    ∧ (∀ (i slot : Nat) (lasting : Bool) (x : TestJob), s.job.tests[i]? = some x → x.running = true →
        answers (.selfTestVerdict i lasting slot) s (fun u =>
        u.job.tests = s.job.tests.eraseIdx i ∧ up u (if lasting then 2 else 1) ∧ isBit (u.reg Reg.hqIntCause) 3 = true
        ∧ (x.first = true → isBit (s.reg Reg.netResLast) 31 = true → x.die < 4 → x.y < 16 → x.physX < 17 →
            u.fld Reg.netResLast 47 46 = (if lasting then 2 else 1) ∧ u.fld Reg.netResLast 63 48 = x.code % 2 ^ 16)
        ∧ memoriesKept s u ∧ tilesKept s u))
    ∧ (∀ (i : Nat) (again : Bool) (x : Retest), s.retests[i]? = some x → answers (.eccRetest i again) s (fun u =>
        u.retests = s.retests.eraseIdx i ∧ up u 3 ∧ (again = true → up u 4) ∧ (again = false → u.reg (Reg.netResCount 4) = s.reg (Reg.netResCount 4))
        ∧ memoriesKept s u ∧ tilesKept s u))
    ∧ (∀ e rest, s.repairsDue = e :: rest → s.pauseMgt = false → answers .repairRecordWrite s (fun u =>
        u.repairsDue = rest ∧ u.repairEntries = s.repairEntries ++ [e] ∧ up u 5 ∧ memoriesKept s u ∧ tilesKept s u))
    ∧ answers .netRepairRead s (fun u =>
        u.reg (Reg.netRepairData 0) = leAt (s.repairEntry.getD []) 0 8 ∧ u.reg (Reg.netRepairData 1) = leAt (s.repairEntry.getD []) 8 8
        ∧ u.fld Reg.netRepairCmd 31 16 = 0 ∧ u = { s with regs := u.regs })

/-- NET_REPAIR_REMOVE deletes the entry that NET_REPAIR_INDEX names, and no other, when it is a FRAKEL_PORT entry (kind 7) and the job state is
EMPTY or STOPPED; it refuses every other one with 0x0908, deleting nothing. No command but a power-on, which may find a copy unreadable, takes
an entry of another kind out of the record. -/
def Obligations.RepairEntriesArePermanent : Prop :=
  (∀ (s : State) (e : List Byte), s.repairEntry = some e → leAt e 0 1 = 7 → s.repairable = true →
    answers .netRepairRemove s (fun u => u.repairEntries = s.repairEntries.eraseIdx (s.fld Reg.netRepairIndex 11 0)
      ∧ u.fld Reg.netRepairCmd 31 16 = 0 ∧ u = { s with regs := u.regs, repair0 := u.repair0, repair1 := u.repair1 }
      ∧ regsKept (fun k => k = Reg.netRepairCmd) s u))
  ∧ (∀ (s : State), (∀ e, s.repairEntry = some e → leAt e 0 1 = 7 → s.repairable = false) →
    answers .netRepairRemove s (fun u => u.fld Reg.netRepairCmd 31 16 = 0x0908 ∧ u = { s with regs := u.regs }
      ∧ regsKept (fun k => k = Reg.netRepairCmd) s u))
  ∧ (∀ (c : Instr) (s u : State), (∀ x, c ≠ .powerOn x) → exec c s = .next u →
    ∀ e ∈ s.repairEntries, leAt e 0 1 ≠ 7 → e ∈ u.repairEntries)

/-! ### Resets, bring-up and faults of the host side (R278, R465 to R471, R482 to R484, R525) -/

/-- Resets and bring-up. A reset of the dies empties them and brings them up again, and keeps rings, regions and host memory; one of the I/O die
also clears the fabric; an FLR and a fundamental reset also clear the queues. The link trains once PERST# is released, the stacks after it, and
the device is then READY with memory zero. Power-on starts the controller with nothing held. -/
def Obligations.ResetsAndBringUp : Prop :=
  ∀ (s : State),
    let dead := fun (u : State) => u.tiles = [] ∧ (∀ a, Mem.byte u.sram a = 0) ∧ u.job.image = none ∧ u.conns = [] ∧ u.lists = []
      ∧ bytesSame s.hostMem u.hostMem ∧ bytesSame s.flash u.flash
    let noQueues := fun (u : State) => u.regions = [] ∧ u.jobCmds = [] ∧ u.copies = [] ∧ u.completions = [] ∧ (∀ r < 64, u.sqEnabled r = false)
    (s.ready = true → answers .dieReset s (fun u => u.ready = true ∧ u.fld Reg.hqDevStatus 7 4 = 5 ∧ dead u ∧ u.regions = s.regions
        ∧ u.ports = s.ports ∧ (∀ r < 64, u.sqEnabled r = s.sqEnabled r)))
    ∧ (s.ready = true → answers .ioDieReset s (fun u => u.ready = true ∧ u.fld Reg.hqDevStatus 7 4 = 5 ∧ dead u ∧ u.regions = s.regions
        ∧ u.ports = [] ∧ u.arrived = [] ∧ u.routes = [] ∧ u.meter.run = s.meter.run + 1))
    ∧ (s.fld Reg.hqDevStatus 7 4 ≠ 0 →
        answers .flr s (fun u => noQueues u ∧ u.d3 = false ∧ u.sent.getLast? = some .frs ∧ u.ready = s.ready ∧ (s.ready = true → dead u))
        ∧ (∀ gen width, answers (.fundamentalReset true gen width) s (fun u => noQueues u ∧ dead u ∧ u.ready = false
            ∧ u.fld Reg.hqDevStatus 7 4 = 0 ∧ u.ports = []))
        ∧ (∀ gen width, linkOk gen width = true → s.trained = true → answers (.fundamentalReset false gen width) s (fun u => noQueues u
            ∧ dead u ∧ u.ready = true ∧ u.fld Reg.hqDevStatus 31 24 = gen ∧ u.fld Reg.hqDevStatus 23 16 = width)))
    ∧ (∀ gen width, s.mgmt.modReady = true → s.fld Reg.hqDevStatus 7 4 = 0 → linkOk gen width = true → s.trained = false →
        answers (.perstDeassert gen width) s (fun u => u.fld Reg.hqDevStatus 7 4 = 2 ∧ (∀ k < 16, u.fld (Reg.hbmStatus k) 2 0 = 1)
          ∧ u.sent = s.sent ++ [.drs] ∧ memoriesKept s u ∧ tilesKept s u))
    ∧ (∀ failed : List Stack, s.fld Reg.hqDevStatus 7 4 = 2 ∨ s.fld Reg.hqDevStatus 7 4 = 3 → answers (.hbmInitDone failed) s (fun u =>
        (∀ a, Mem.byte u.hbm a = 0) ∧ u.trained = true ∧ u.ready = true ∧ isBit (u.reg Reg.hqDevStatus) 1 = !failed.isEmpty
        ∧ (∀ k : Stack, u.fld (Reg.hbmStatus k.val) 2 0 = if k ∈ failed then 4 else 3) ∧ banksKept s u ∧ hostSideKept s u))
    ∧ (∀ x : PowerOn, s.mgmt.running = false → 40000 ≤ x.mv → x.mv ≤ 60000 → s.fwCheck 0 s.mgmt.fw0.act false = 0 →
        answers (.powerOn x) s (fun u => u.mgmt.running = true ∧ u.jobState = jobEMPTY ∧ noQueues u ∧ dead u ∧ (∀ a, Mem.byte u.hbm a = 0)
          ∧ u.fld Reg.mgtPwrStatus 47 32 = x.mv ∧ u.trained = false ∧ u.pending = s.pending))

/-- D3hot is entered at once unless a job runs, which then stops first; D0 changes nothing else. Faulted and poisoned accesses of the host are
counted and reported. BAR2 reads what HBM holds and writes what it may; before READY it reads zeros. -/
def Obligations.HostSideFaultsAndBar2 : Prop :=
  ∀ (s : State),
    let up := fun (u : State) (i : Nat) => u.reg (Reg.hqErrCount i) = min (s.reg (Reg.hqErrCount i) + 1) (2 ^ 32 - 1)
    let quietly := fun (u : State) => regsKept (fun k => k = Reg.hqIntCause ∨ ∃ i < 6, k = Reg.hqErrCount i) s u ∧ memoriesKept s u ∧ tilesKept s u
    (s.running = true → answers .d3hotEntry s (fun u => u = { s with job := { s.job with stopD3 := true } }))
    ∧ (s.running = false → answers .d3hotEntry s (fun u => u = { s with d3 := true }))
    ∧ answers .d0Return s (fun u => u = { s with d3 := false })
    ∧ answers .hostPoisonedWrite s (fun u => up u 2 ∧ u.sent.getLast? = some (.aer 0) ∧ quietly u)
    ∧ (∀ timeout, answers (.hostReadFault timeout) s (fun u => up u 1 ∧ u.sent.getLast? = some (.aer (if timeout then 1 else 2)) ∧ quietly u))
    ∧ (∀ addr bytes, s.bar0Fault addr bytes = true → addr < 0x04000000 → answers (.bar0FaultAccess addr bytes) s (fun u => up u 0 ∧ quietly u))
    ∧ answers .hostCountReport s (fun u => (∀ i < 4, u.rise (Reg.hqErrCount i) = 0 ∧ u.reg (Reg.hqErrCount i) = s.reg (Reg.hqErrCount i))
        ∧ memoriesKept s u ∧ tilesKept s u)
    ∧ (∀ addr bytes, s.filling = false → s.ready = false → answers (.bar2Read addr bytes []) s (fun u =>
        u = { s with sent := s.sent ++ [.bar2 (List.replicate bytes 0)] }))
    ∧ (∀ addr bytes, s.filling = false → s.ready = true → (∀ i < bytes, s.bar2Region (addr + i) ≠ 3) →
        answers (.bar2Read addr bytes []) s (fun u => u.sent = s.sent ++ [.bar2 (Mem.read s.hbm addr bytes)] ∧ memoriesKept s u ∧ tilesKept s u))
    ∧ (∀ addr data, s.filling = false → (∀ i < data.length, s.bar2Writable (addr + i) = true) → answers (.bar2Write addr data []) s (fun u =>
        Mem.read u.hbm addr data.length = data ∧ bytesKept (inRange addr data.length) s.hbm u.hbm ∧ banksKept s u ∧ hostSideKept s u ∧ tilesKept s u))
    ∧ (∀ addr data mem, s.filling = false → data ≠ [] → (∀ i < data.length, s.bar2Writable (addr + i) = false) →
      answers (.bar2Write addr data mem) s (fun u =>
        bytesSame s.hbm u.hbm ∧ up u 0 ∧ banksKept s u ∧ hostSideKept s u ∧ tilesKept s u))

/-! ### The management controller (R487 to R504) -/

/-- The bytes of a request. -/
def asked (s : State) (q : MgmtReq) : List Byte :=
  match q with
  | .mctp bs => bs
  | .mailbox => Mem.read s.mgmt.mboxBuf 0 8200

/-- Its payload. -/
def askedBody (s : State) (q : MgmtReq) : List Byte := ((asked s q).drop 8).take (leAt (asked s q) 6 2)

/-- A request for the command `code` with a payload of `n` bytes reaches a controller that serves it. -/
def sentWell (s : State) (q : MgmtReq) (code n : Nat) : Prop :=
  s.mgmtUp = true ∧ s.mgmt.pause = none ∧ (q = .mailbox → s.mgmt.mboxBusy = true) ∧ leAt (asked s q) 0 1 = code ∧ leAt (asked s q) 1 1 = 0
  ∧ leAt (asked s q) 4 2 = 0 ∧ leAt (asked s q) 6 2 = n ∧ n ≤ 8192 ∧ (∀ x, q = .mctp x → x.length = 8 + n)

/-- It is answered with a status and a payload, the way it came. -/
def answered (s u : State) (q : MgmtReq) (status : Nat) (payload : List Byte) : Prop :=
  let bs := asked s q
  let r := leBytes 1 (leAt bs 0 1) ++ (leBytes 1 1 ++ (leBytes 2 (leAt bs 2 2) ++ (leBytes 2 status ++ (leBytes 2 payload.length ++ payload))))
  match q with
  | .mctp _ => u.sent.getLast? = some (.mctp r)
  | .mailbox => Mem.read u.mgmt.mboxBuf 0 r.length = r ∧ u.mgmt.mboxBusy = false ∧ u.fld Reg.mgtMboxCtl 31 16 = status
      ∧ isBit (u.reg Reg.mgtMboxCtl) 1 = true

/-- What a management command leaves: every memory but the mailbox buffer, the tiles, the network. -/
def deviceKept (s u : State) : Prop :=
  banksKept s u ∧ bytesSame s.hbm u.hbm ∧ hostSideKept s u ∧ tilesKept s u ∧ networkKept s u ∧ u.move = s.move

/-- Requests are answered by the path they came, by the command they name: identity, certificates, attestation, meter reading, posted event,
clock and settings. A setting reads back as written, and as deleted; a compaction keeps every value. Over MCTP the endpoint ID is set and
shown. Writing the mailbox's GO hands its request over, and a reserved command is answered at once; in a service pause GO is discarded. -/
def Obligations.ManagementRequestsAreAnswered : Prop :=
  ∀ (s : State) (q : MgmtReq),
    let b := askedBody s q
    (sentWell s q 0x01 0 → answers (.getIdentity q) s (fun u => deviceKept s u ∧ answered s u q 0
        (leBytes 8 Config.uid.toNat ++ ((List.range 16).map Config.serial ++ (leBytes 2 4 ++ (leBytes 1 0xB0 ++ (leBytes 1 (b2n s.small)
          ++ leBytes 8 Config.meterId.toNat)))))))
    ∧ (sentWell s q 0x02 10 → leAt b 0 1 ≤ 1 → zeroAt b 1 3 = true → 1 ≤ leAt b 8 2 → leAt b 8 2 ≤ 8184 →
        answers (.getCert q) s (fun u => deviceKept s u ∧ answered s u q 0
          (leBytes 4 (Config.certs (leAt b 0 1)).length ++ ((Config.certs (leAt b 0 1)).drop (leAt b 4 4)).take (leAt b 8 2))))
    ∧ (sentWell s q 0x03 32 → answers (.attest q) s (fun u => deviceKept s u ∧ answered s u q 0 (s.report b ++ signed4627 0 (s.report b))))
    ∧ (sentWell s q 0x40 32 → answers (.mtrRead q) s (fun u => deviceKept s u ∧ u.meter = { s.meter with readingSeq := s.meter.readingSeq + 1 }
        ∧ answered s u q 0 ({ s with meter := u.meter }.reading b ++ signed4627 1 ({ s with meter := u.meter }.reading b))))
    ∧ (sentWell s q 0x50 0 → answers (.timeGet q) s (fun u => deviceKept s u
        ∧ answered s u q 0 (leBytes 8 (s.reg Reg.mgtTime) ++ leBytes 1 (s.fld Reg.mgtTimeStatus 0 0))))
    ∧ (sentWell s q 0x51 8 → answers (.timeSet q) s (fun u => deviceKept s u ∧ u.reg Reg.mgtTime = leAt b 0 8
        ∧ u.fld Reg.mgtTimeStatus 0 0 = 1 ∧ answered s u q 0 []))
    ∧ (sentWell s q 0x20 28 → leAt b 2 1 ≤ 6 → zeroAt b 3 1 = true → zeroAt b 6 2 = true → answers (.evtPost q) s (fun u => deviceKept s u
        ∧ answered s u q 0 (leBytes 8 s.recorder.nextSeq) ∧ (leAt b 0 2 = 0x0903 → u.fld Reg.netResStatus 0 0 = 1)))
    ∧ (sentWell s q 0x30 2 → cfgReserved (leAt b 0 2) = false → answers (.cfgGet q) s (fun u => deviceKept s u
        ∧ let v := (s.cfgValue (leAt b 0 2)).getD []
          answered s u q 0 (leBytes 1 (s.cfgFormat (leAt b 0 2)) ++ (leBytes 1 0 ++ (leBytes 2 v.length ++ v)))))
    ∧ (∀ n, sentWell s q 0x31 n → 9 ≤ n → n ≤ 4104 → zeroAt b 2 2 = true → zeroAt b 6 2 = true → leAt b 4 2 = (b.drop 8).length →
        cfgReserved (leAt b 0 2) = false → cfgValueOk (leAt b 0 2) (b.drop 8) = true →
        s.mgmt.half.ownerBytes (leAt b 0 2) (b.drop 8).length ≤ 2 ^ 21 → (∀ r ∈ s.mgmt.half.records, r.seq ≤ s.mgmt.cfgSeq) →
        answers (.cfgSet q) s (fun u => deviceKept s u ∧ answered s u q 0 [] ∧ u.cfgValue (leAt b 0 2) = some (b.drop 8)
          ∧ (leAt b 0 2 = 1 → u.reg Reg.evtCtl = leNat (b.drop 8))))
    ∧ (sentWell s q 0x32 2 → cfgReserved (leAt b 0 2) = false → (∀ r ∈ s.mgmt.half.records, r.seq ≤ s.mgmt.cfgSeq) →
        answers (.cfgDelete q) s (fun u => deviceKept s u ∧ answered s u q 0 [] ∧ u.cfgValue (leAt b 0 2) = none))
    ∧ (s.mgmt.running = true → s.mgmt.pause = none → 6 * 2 ^ 20 ≤ s.mgmt.half.used → answers .settingsCompact s (fun u =>
        u.mgmt.half.generation = s.mgmt.half.generation + 1 ∧ (∀ key, u.cfgValue key = s.cfgValue key) ∧ u = { s with mgmt := u.mgmt }))
    ∧ (s.mgmtUp = true → ∀ inst,
        (∀ op eid, op ≤ 1 → 8 ≤ eid → eid ≤ 254 → s.cfgValue 2 = none → answers (.setEndpointId inst op eid) s (fun u => u.mgmt.eid = eid
          ∧ u.sent = s.sent ++ [.mctp [0, Byte.of (inst % 32), Byte.of 1, 0, Byte.of 0, Byte.of eid, 0]] ∧ deviceKept s u))
        ∧ answers (.getEndpointId inst) s (fun u =>
          u = { s with sent := s.sent ++ [.mctp [0, Byte.of (inst % 32), Byte.of 2, 0, Byte.of s.mgmt.eid, 0, 0]] })
        ∧ answers (.getMctpVersionSupport inst) s (fun u => deviceKept s u
          ∧ ∃ v, u.sent = s.sent ++ [.mctp ([0, Byte.of (inst % 32), Byte.of 4, 0, Byte.of 1] ++ leBytes 4 v)])
        ∧ answers (.getMessageTypeSupport inst) s (fun u =>
          u = { s with sent := s.sent ++ [.mctp [0, Byte.of (inst % 32), Byte.of 5, 0, 1, 0x7E]] }))
    ∧ (s.mgmtUp = true → s.mgmt.pause.isSome = true → exec .mboxGo s = .next s)
    ∧ (s.mgmtUp = true → s.mgmt.mboxBusy = false → s.mgmt.pause = none →
        (Mem.le s.mgmt.mboxBuf 0 1 ∈ mgmtCodes → answers .mboxGo s (fun u => u = { s with mgmt := { s.mgmt with mboxBusy := true } }))
        ∧ (Mem.le s.mgmt.mboxBuf 0 1 ∉ mgmtCodes → answers .mboxGo s (fun u => u.fld Reg.mgtMboxCtl 31 16 = 0x0B02 ∧ u.mgmt.mboxBusy = false
          ∧ Mem.le u.mgmt.mboxBuf 4 2 = 0x0B02 ∧ deviceKept s u)))
    ∧ (∀ value, s.pauseMgt = false → answers (.mgtTimeWrite value) s (fun u => u.reg Reg.mgtTime = value % 2 ^ 64
        ∧ u.fld Reg.mgtTimeStatus 0 0 = 1 ∧ deviceKept s u))

/-- Firmware is received into the slot that is not active, checked, and staged; activated, it runs on trial after a service pause, and is
confirmed by request or by its timer, or falls back to the old slot on a failed self-test, a rejection or a watchdog. -/
def Obligations.FirmwareIsStagedTriedAndConfirmed : Prop :=
  ∀ (s : State) (q : MgmtReq),
    let b := askedBody s q
    let k := leAt b 0 1
    let confirmed := fun (u : State) (k : Nat) => (u.fw k).act.st = slotCONFIRMED ∧ (u.fw k).active = (s.fw k).active
      ∧ (u.fw k).floor = max (s.fw k).floor (s.fw k).act.sv
      ∧ (u.fw k).other.st = (if (s.fw k).other.sv < (u.fw k).floor then slotRETIRED else slotSTAGED)
    let reverted := fun (u : State) (k : Nat) => (u.fw k).active = 1 - (s.fw k).active ∧ (u.fw k).act = (s.fw k).other
      ∧ (u.fw k).other.st = slotREJECTED
    let one := fun (k : Nat) => (s.fw k).active ≤ 1
    (sentWell s q 0x10 16 → k ≤ 1 → zeroAt b 1 7 = true → 6400 ≤ leAt b 8 8 → s.mgmt.session = none → (s.fw k).act.st ≠ slotTRIAL →
        (s.fw k).other.st ∈ [slotEMPTY, slotSTAGED, slotREJECTED, slotRETIRED, slotINVALID] → answers (.fwBegin q) s (fun u => deviceKept s u
        ∧ answered s u q 0 [] ∧ u.mgmt.session = some (k, leAt b 8 8) ∧ (u.fw k).other = ⟨slotSTAGING, false, leAt b 8 8, []⟩
        ∧ (u.fw k).act = (s.fw k).act))
    ∧ (∀ n j m, sentWell s q 0x11 n → 9 ≤ n → s.mgmt.session = some (j, m) → leAt b 0 8 + (n - 8) ≤ m → answers (.fwData q) s (fun u =>
        deviceKept s u ∧ answered s u q 0 [] ∧ Mem.read (u.fw j).other.image (leAt b 0 8) (n - 8) = b.drop 8 ∧ u.mgmt.session = some (j, m)
        ∧ bytesKept (inRange (leAt b 0 8) (n - 8)) (s.fw j).other.image (u.fw j).other.image ∧ (u.fw j).act = (s.fw j).act))
    ∧ (∀ j m, sentWell s q 0x12 0 → s.mgmt.session = some (j, m) → answers (.fwEnd q) s (fun u => deviceKept s u
        ∧ answered s u q (s.fwCheck j (s.fw j).other true) [] ∧ u.mgmt.session = none ∧ (u.fw j).act = (s.fw j).act
        ∧ (u.fw j).other.st = (if s.fwCheck j (s.fw j).other true = 0 then slotSTAGED else slotEMPTY)))
    ∧ (∀ j m, s.mgmt.session = some (j, m) → answers .fwSessionTimeout s (fun u => u.mgmt.session = none ∧ (u.fw j).other = .empty
        ∧ (u.fw j).act = (s.fw j).act ∧ u.regs = s.regs ∧ memoriesKept s u ∧ tilesKept s u))
    ∧ (sentWell s q 0x13 1 → k ≤ 1 → (s.fw k).other.st = slotSTAGED → (s.fw k).floor ≤ (s.fw k).other.sv → (s.fw k).act.st = slotCONFIRMED →
        (k = 1 → s.jobState = jobEMPTY ∧ s.filling = false) → answers (.fwActivate q) s (fun u =>
        (∃ p, u.mgmt.pause = some (k, some p)) ∧ u.fw k = s.fw k ∧ hostSideKept s u ∧ (k = 0 → deviceKept s u)))
    ∧ (∀ (j : Fin 2) (p : Option MgmtPath), s.mgmt.pause = some (j.val, p) → s.mgmt.session = none → (s.fw j.val).other.st = slotSTAGED →
        s.fwCheck j.val (s.fw j.val).other false = 0 → one j.val →
        answers (.servicePauseEnd true) s (fun u => u.mgmt.pause = none ∧ (u.fw j.val).active = 1 - (s.fw j.val).active
          ∧ (u.fw j.val).act.st = slotTRIAL ∧ (u.fw j.val).selftest = true ∧ (u.fw j.val).starts = 1)
        ∧ answers (.servicePauseEnd false) s (fun u => u.mgmt.pause = some (j.val + 2, none) ∧ (u.fw j.val).active = (s.fw j.val).active
          ∧ (u.fw j.val).other.st = slotREJECTED))
    ∧ (∀ (j : Fin 2) (p : Option MgmtPath) (ok : Bool), s.mgmt.pause = some (j.val + 2, p) → s.mgmt.session = none →
        (s.fw j.val).act.st = slotCONFIRMED → (s.fw j.val).other.st = slotREJECTED → s.fwCheck j.val (s.fw j.val).act false = 0 → one j.val →
        answers (.servicePauseEnd ok) s (fun u => u.mgmt.pause = none ∧ (u.fw j.val).act = (s.fw j.val).act ∧ (u.fw j.val).selftest = true))
    ∧ (sentWell s q 0x14 1 → k ≤ 1 → (s.fw k).act.st = slotTRIAL → (s.fw k).selftest = true → one k → answers (.fwConfirm q) s (fun u =>
        confirmed u k ∧ answered s u q 0 [] ∧ deviceKept s u))
    ∧ (sentWell s q 0x15 1 → k ≤ 1 → (s.fw k).act.st = slotTRIAL → (k = 1 → s.jobState = jobEMPTY ∧ s.filling = false) → one k →
        answers (.fwReject q) s (fun u => reverted u k ∧ ∃ p, u.mgmt.pause = some (k + 2, some p)))
    ∧ (∀ j : Fin 2, s.mgmtUp = true → (s.fw j.val).act.st = slotTRIAL → one j.val →
        ((s.fw j.val).selftest = true → answers (.fwTrialTimer j) s (fun u => confirmed u j.val ∧ deviceKept s u))
        ∧ (s.mgmt.pause = none → answers (.fwWatchdog j) s (fun u => reverted u j.val ∧ u.mgmt.pause = some (j.val + 2, none))))

/-! ### Recorder, meter and power (R507 to R514, R524 to R531) -/

/-- The recorder's oldest group reaches flash, the newest record standing in EVT_HEAD; dropped records are reported once; EVT_SEL shows the
retained record with the lowest SEQ at or above its value. The meter adds each sample's energy and every second's mean power, takes the job's
counts from its work messages, and keeps its standing faults. -/
def Obligations.RecorderAndMeterKeepTheirCounts : Prop :=
  ∀ (s : State),
    let kept := fun (u : State) => memoriesKept s u ∧ tilesKept s u ∧ networkKept s u ∧ u.move = s.move
    (∀ g rest, s.recorder.queue = g :: rest → s.mgmtUp = true → g.records ≠ [] → g.seq + g.records.length ≤ 2 ^ 64 →
      answers .eventFlashDrain s (fun u =>
      u.recorder.queue = rest ∧ u.reg Reg.evtHead = g.seq + g.records.length - 1
      ∧ u.reg (Reg.evtCount 0) = min (s.reg (Reg.evtCount 0) + g.records.length) (2 ^ 32 - 1)
      ∧ (∃ b, u.recorder.blocks.getLast? = some b ∧ ∃ e, b.records.getLast? = some e ∧ e.seq = u.reg Reg.evtHead ∧ e.sev = g.sev) ∧ kept u))
    ∧ (s.recorder.dropped ≠ 0 → s.recorder.used < 4096 → answers .evtDropReport s (fun u => u.recorder.dropped = 0
      ∧ u.recorder.queue.length = s.recorder.queue.length + 1 ∧ kept u))
    ∧ (∀ value flips, s.pauseMgt = false → answers (.evtSelWrite value flips) s (fun u =>
      u.reg Reg.evtSel = value % 2 ^ 64 ∧ kept u
      ∧ (∀ r, s.recorder.find (value % 2 ^ 64) = some r → flips = [] → leAt r.bytes 60 4 = crc32c (r.bytes.take 60) →
          u.reg Reg.evtReadStatus = 1 ∧ ∀ i < 8, u.reg (Reg.evtRec i) = leAt r.bytes (8 * i) 8)
      ∧ (s.recorder.find (value % 2 ^ 64) = none → u.reg Reg.evtReadStatus = 0)))
    ∧ (∀ mv ma, answers (.meterSample mv ma) s (fun u =>
      (u.reg Reg.mtrEnergy) = (s.reg Reg.mtrEnergy + (s.meter.picojoules + mv * ma * 20) / 10 ^ 9) % 2 ^ 64
      ∧ u.meter.picojoules = (s.meter.picojoules + mv * ma * 20) % 10 ^ 9
      ∧ (u.meter.range = true ↔ s.meter.range = true ∨ 4000000000 < mv * ma ∨ mv < 40000 ∨ 60000 < mv) ∧ kept u))
    ∧ answers .meterSecond s (fun u => u.meter.seconds = s.meter.seconds + 1 ∧ u.reg Reg.mtrPower = s.reg Reg.mtrEnergy - s.meter.secondStart
      ∧ u.meter.secondStart = s.reg Reg.mtrEnergy ∧ isBit (u.reg Reg.mtrStatus) 2 = s.meter.range ∧ u.meter.range = false ∧ kept u)
    ∧ (s.meter.run = s.meter.lastRun → answers (.meterWorkMessage true) s (fun u =>
      u.reg Reg.mtrPasses = (s.reg Reg.mtrPasses + (s.meter.passes - s.meter.lastPasses)) % 2 ^ 64
      ∧ u.reg Reg.mtrSteps = (s.reg Reg.mtrSteps + (s.meter.steps - s.meter.lastSteps)) % 2 ^ 64
      ∧ u.reg Reg.mtrUpdates = (s.reg Reg.mtrUpdates + (s.meter.updates - s.meter.lastUpdates)) % 2 ^ 64
      ∧ u.meter.lastPasses = s.meter.passes ∧ isBit (u.reg Reg.mtrStatus) 3 = false ∧ kept u))
    ∧ exec (.meterWorkMessage false) s = .next s
    ∧ (∀ q ∈ [(3, Instr.meterLinkTimeout, 0x0C03), (1, Instr.meterTamper, 0x0C01), (4, Instr.meterSelfcheckFail, 0x0C05)],
      s.running = true → isBit (s.reg Reg.mtrStatus) q.1 = false → answers q.2.1 s (fun u =>
      isBit (u.reg Reg.mtrStatus) q.1 = true ∧ u.meter.log = ((q.2.2, s.meter.seconds) :: s.meter.log).take 1024 ∧ kept u))

/-- The least of the power manager's targets. -/
def leastTarget (s : State) : Nat := s.targets.foldl min 10

/-- The power manager. ACLK follows the least of the targets: a peak takes it to 0, a slow excess and a throttled junction down one level, five
low seconds up one. A fast excess is counted, and stops the job at its last stage; a stop condition stops a running job at a tick. The input
outside its margin lowers ACLK, far outside it turns the power off; a trip does so at once, and power returns where it may. -/
def Obligations.PowerFollowsItsLimits : Prop :=
  ∀ (s : State),
    let kept := fun (u : State) => memoriesKept s u ∧ tilesKept s u ∧ networkKept s u ∧ u.move = s.move
    let levelled := fun (u : State) => u.fld Reg.mgtPwrStatus 31 28 = leastTarget u
    let off := fun (u : State) => u.power.on = false ∧ u.jobState = jobEMPTY ∧ u.tiles = [] ∧ (∀ a, Mem.byte u.hbm a = 0)
      ∧ bytesSame s.flash u.flash ∧ u.mgmt.modReady = false
    answers .powerPeak s (fun u => u.power.peak = 0 ∧ levelled u ∧ u.fld Reg.mgtPwrStatus 31 28 = 0
      ∧ u.reg (Reg.mgtPwrCount 2) = min (s.reg (Reg.mgtPwrCount 2) + 1) (2 ^ 32 - 1) ∧ kept u)
    ∧ (∀ w, answers (.powerFast w) s (fun u => u.fld Reg.mgtPwrStatus 63 48 = w % 2 ^ 16 ∧ kept u
      ∧ (w ≤ 3200 → u.power.fastMs = 0 ∧ u.power.fastStage = 0 ∧ isBit u.power.stops 1 = false)
      ∧ (3200 < w → u.reg (Reg.mgtPwrCount 6) = min (s.reg (Reg.mgtPwrCount 6) + 1) (2 ^ 32 - 1)
          ∧ (s.power.fastStage = 0 → s.power.fastMs = 7 → u.power.fastStage = 1 ∧ u.power.fast = s.power.fast - 2 ∧ levelled u)
          ∧ (s.power.fastStage = 1 → u.power.fastStage = 2 ∧ u.fld Reg.mgtPwrStatus 31 28 = 0)
          ∧ (s.power.fastStage = 2 → u.power.fastStage = 3 ∧ isBit u.power.stops 1 = true
              ∧ (s.running = true → isBit s.power.stops 1 = false → u.job.stopPower = true)))))
    ∧ (∀ w, answers (.powerSlow w) s (fun u => u.power.slow = (if s.fld Reg.mgtPwrCtl 11 0 < w then s.power.slow - 1 else s.power.slow)
      ∧ u.power.lowSeconds = (if w * 100 < s.fld Reg.mgtPwrCtl 11 0 * 95 then s.power.lowSeconds + 1 else 0) ∧ levelled u ∧ kept u))
    ∧ (5 ≤ s.power.lowSeconds → answers .powerRaise s (fun u => u.power.lowSeconds = 0 ∧ u.power.peak = min 10 (s.power.peak + 1)
      ∧ u.power.fast = min 10 (s.power.fast + 1) ∧ u.power.slow = min 10 (s.power.slow + 1) ∧ levelled u ∧ kept u))
    ∧ answers .clockReducedNotice s (fun u => kept u ∧ (s.fld Reg.mgtPwrCtl 27 24 ≤ s.fld Reg.mgtPwrStatus 31 28 → u = s))
    ∧ (∀ x : Sensors, answers (.sensorPoll x) s (fun u =>
      (∀ i < 23, u.reg (Reg.mgtTemp i) = match x.temps.getD i none with
        | none => 0
        | some t => 2 ^ 31 + t % 2 ^ 16)
      ∧ (hotBits u.power.throttle ≠ 0 → u.power.thermal = s.power.thermal - 1)
      ∧ u.power.coolant = (if isBit u.power.throttle 23 then 0 else if isBit u.power.throttle 21 then 4 else 10)
      ∧ isBit u.power.stops 2 = decide (hotBits u.power.stopAt ≠ 0) ∧ isBit u.power.stops 3 = decide (coolBits u.power.stopAt ≠ 0)
      ∧ memoriesKept s u ∧ tilesKept s u))
    ∧ (∀ mv, 40000 ≤ mv → mv ≤ 60000 → answers (.inputVoltageChange mv) s (fun u => u.fld Reg.mgtPwrStatus 47 32 = mv ∧ u.power.voltage = 10
      ∧ isBit (u.reg Reg.mgtPwrStatus) 0 = false ∧ isBit u.power.stops 0 = false ∧ levelled u ∧ kept u))
    ∧ (∀ mv, 38000 ≤ mv → mv < 40000 → answers (.inputVoltageChange mv) s (fun u => u.fld Reg.mgtPwrStatus 47 32 = mv ∧ u.power.voltage = 0
      ∧ isBit (u.reg Reg.mgtPwrStatus) 0 = true ∧ u.fld Reg.mgtPwrStatus 31 28 = 0 ∧ kept u))
    ∧ (∀ mv, mv < 38000 → s.power.on = true → answers (.inputVoltageChange mv) s (fun u => off u ∧ u.power.faulted = true
      ∧ (mv < 34000 → u.mgmt.running = false)))
    ∧ (isBit (s.reg Reg.mgtPwrStatus) 0 = true → answers .inputMarginTimeout s (fun u => isBit u.power.stops 0 = true
      ∧ (s.running = true → isBit s.power.stops 0 = false → u.job.stopPower = true
          ∧ u.reg (Reg.mgtPwrCount 3) = min (s.reg (Reg.mgtPwrCount 3) + 1) (2 ^ 32 - 1)) ∧ kept u))
    ∧ (∀ ok, s.mgmtUp = true → s.power.on = false →
      (s.power.faulted = true → s.power.tripped = false → 40000 ≤ s.fld Reg.mgtPwrStatus 47 32 → s.fld Reg.mgtPwrStatus 47 32 ≤ 60000 →
        answers (.inputRestored ok) s (fun u => u.power.on = true ∧ u.power.faulted = false ∧ u.power.tripped = false ∧ memoriesKept s u))
      ∧ (s.power.tripped = true → s.power.locked = false → answers (.tripRecovery ok) s (fun u => u.power.on = true ∧ u.power.tripped = false
          ∧ u.sent.getLast? = some (.thermtrip false) ∧ memoriesKept s u)))
    ∧ (s.power.on = true → answers .thermalTrip s (fun u => off u ∧ u.power.tripped = true ∧ u.power.locked = decide (2 ≤ s.power.trips.length)
      ∧ u.sent.getLast? = some (.thermtrip true)))
    ∧ (s.mgmtUp = true → s.power.on = true →
      answers (.refclkCheck true true) s (fun u => u.mgmt.mclkBad = false ∧ u.mgmt.fclkBad = false ∧ (s.mgmt.mclkBad = true → u.mgmt.modReady = true)
        ∧ memoriesKept s u ∧ tilesKept s u)
      ∧ (∀ fclk, answers (.refclkCheck false fclk) s (fun u => u.mgmt.mclkBad = true ∧ u.mgmt.fclkBad = !fclk ∧ u.mgmt.modReady = false
        ∧ isBit (u.reg Reg.mgtPwrStatus) 6 = true ∧ memoriesKept s u ∧ tilesKept s u)))

/-! ### Writes of registers (R9 to R15, R68, R78 to R80, R117, R129, R192 to R196, R246, R384, R390, R400, R455) -/

/-- Repair writes are taken where the job state admits repairs, and queue their entries; a promotion empties the banks of the tiles it moves,
and a job that was stopped then goes on only from a securing layer.
Outside RUNNING and LOADING the quantisation registers take steps that are not reserved and biases, and their extremes are set back. A die in
reset takes no write: it counts. -/
def Obligations.RepairAndQuantisationWrites : Prop :=
  ∀ (s : State),
    (∀ (w : TileWin) (v : Nat), s.diesUp = true → let p := s.winTile w
      (s.arrRefused p v = false → answers (.tlArrRepairWrite w v) s (fun u => u.fld (Reg.tlArrRepair p) 6 0 = bits v 6 0
        ∧ isBit (u.reg (Reg.tlArrRepair p)) 8 = isBit v 8 ∧ isBit (u.reg (Reg.tlArrRepair p)) 9 = isBit v 9 ∧ u.fld (Reg.tlArrRepair p) 31 16 = 0
        ∧ (u.repairsDue.length = s.repairsDue.length ↔ u.fld (Reg.tlArrRepair p) 6 0 = s.fld (Reg.tlArrRepair p) 6 0
            ∧ isBit v 8 = isBit (s.reg (Reg.tlArrRepair p)) 8 ∧ isBit v 9 = isBit (s.reg (Reg.tlArrRepair p)) 9)
        ∧ regsKept (fun k => k = Reg.tlArrRepair p) s u ∧ memoriesKept s u ∧ tilesKept s u))
      ∧ (s.arrRefused p v = true → answers (.tlArrRepairWrite w v) s (fun u => u.fld (Reg.tlArrRepair p) 31 16 = 0x090C
        ∧ u = { s with regs := u.regs } ∧ u.fld (Reg.tlArrRepair p) 9 0 = s.fld (Reg.tlArrRepair p) 9 0
        ∧ regsKept (fun k => k = Reg.tlArrRepair p) s u)))
    ∧ (∀ (d : Die) (y : Fin 16) (v : Nat), s.diesUp = true →
      (s.repairable = true → s.fld (Reg.dieRowRepair d.val y.val) 4 0 = 0x1F → isBit (s.reg (Reg.dieRowRepair d.val y.val)) 9 = false →
        bits v 4 0 < 16 → isBit v 9 = false → answers (.dieRowRepairWrite d y v) s (fun u =>
        u.fld (Reg.dieRowRepair d.val y.val) 4 0 = bits v 4 0 ∧ isBit (u.reg (Reg.dieRowRepair d.val y.val)) 8 = true
        ∧ u.fld (Reg.dieRepairStatus d.val) 31 16 = 0 ∧ u.repairsDue.length = s.repairsDue.length + 1
        ∧ (s.jobState = jobSTOPPED → u.job.mustRestore = true)
        ∧ (∀ x < 17, bits v 4 0 ≤ x → ∀ a, inBanks (d.val * 272 + y.val * 17 + x) a → Mem.byte u.sram a = 0)
        ∧ bytesKept (fun a => ∃ x < 17, bits v 4 0 ≤ x ∧ inBanks (d.val * 272 + y.val * 17 + x) a) s.sram u.sram
        ∧ bytesSame s.hbm u.hbm ∧ hostSideKept s u))
      ∧ (s.repairable = false → bits v 4 0 < 16 → answers (.dieRowRepairWrite d y v) s (fun u => u.fld (Reg.dieRepairStatus d.val) 31 16 = 0x0505
        ∧ regsKept (fun k => k = Reg.dieRepairStatus d.val) s u ∧ u = { s with regs := u.regs })))
    ∧ (∀ (w : TileWin) (v n : Nat), s.diesUp = true → s.qntOpen = true → n < 64 → let p := s.winTile w
      answers (.tlQntWrite w (0x900 + 4 * n) v) s (fun u => u.reg (Reg.tlQntChBias p n) = v % 2 ^ 32 ∧ memoriesKept s u ∧ tilesKept s u)
      ∧ (stepOk (v % 2 ^ 32) = true → answers (.tlQntWrite w (0x800 + 4 * n) v) s (fun u => u.reg (Reg.tlQntChScale p n) = v % 2 ^ 32
          ∧ memoriesKept s u ∧ tilesKept s u))
      ∧ (stepOk (v % 2 ^ 32) = false → exec (.tlQntWrite w (0x800 + 4 * n) v) s = .next s)
      ∧ answers (.qntCalReset w) s (fun u => (∀ n < 64, u.reg (Reg.tlQntChMin p n) = 0x7F800000 ∧ u.reg (Reg.tlQntChMax p n) = 0xFF800000)
          ∧ regsKept (fun k => ∃ n < 64, k = Reg.tlQntChMin p n ∨ k = Reg.tlQntChMax p n) s u ∧ u = { s with regs := u.regs }))
    ∧ (∀ (w : TileWin) (v off : Nat) (d : Die) (y : Fin 16), s.diesUp = false →
      ∀ c ∈ [Instr.tlArrRepairWrite w v, .dieRowRepairWrite d y v, .tlQntWrite w off v, .qntCalReset w, .tlBankOwnWrite w 0 v], answers c s (fun u =>
        u.reg (Reg.hqErrCount 0) = min (s.reg (Reg.hqErrCount 0) + 1) (2 ^ 32 - 1)
        ∧ regsKept (fun k => k = Reg.hqErrCount 0 ∨ k = Reg.hqIntCause) s u ∧ memoriesKept s u ∧ tilesKept s u))

/-- Other writes of registers: the step limit in LOADED and STOPPED; a castle size in EMPTY, which clears the old and the new region; addresses and
axes in EMPTY; the transport's epoch, which starts every connection afresh; route entries. A clear register clears exactly what its bits name.
A register without a command of its own, of 32 bits or of 64, takes the fields that may be written. -/
def Obligations.OtherRegisterWrites : Prop :=
  ∀ (s : State) (value : Nat),
    let idle := s.jobState = jobLOADED ∨ s.jobState = jobSTOPPED
    (idle → value < 2 ^ 64 - 1 → answers (.netStepLimitWrite value) s (fun u => u.reg Reg.netStepLimit = value
      ∧ regsKept (fun k => k = Reg.netStepLimit) s u ∧ u = { s with regs := u.regs }))
    ∧ (¬ idle ∨ value = 2 ^ 64 - 1 → exec (.netStepLimitWrite value) s = .next s)
    ∧ (∀ d : Die, let top := if d.val = 0 then s.imageOff else s.ownerOff;
        s.jobState = jobEMPTY → value % 2 ^ 16 * 2 ^ 30 < top → s.castleBytes d.val < top → answers (.hbmCastleSizeWrite d value) s (fun u =>
        u.fld (Reg.hbmCastleSize d.val) 15 0 = value % 2 ^ 16 ∧ (∀ i < 3, u.fld (Reg.netSnapSlot i) 0 0 = 0)
        ∧ (∀ a, inRange (dieBase d.val + u.castleOff d.val) (u.castleBytes d.val) a
            ∨ inRange (dieBase d.val + s.castleOff d.val) (s.castleBytes d.val) a → Mem.byte u.hbm a = 0)
        ∧ bytesKept (fun a => inRange (dieBase d.val + u.castleOff d.val) (u.castleBytes d.val) a
            ∨ inRange (dieBase d.val + s.castleOff d.val) (s.castleBytes d.val) a) s.hbm u.hbm ∧ banksKept s u ∧ hostSideKept s u ∧ tilesKept s u))
    ∧ (s.jobState ≠ jobEMPTY → (∀ axes, exec (.frkAddrWrite axes value) s = .next s) ∧ ∀ d, exec (.hbmCastleSizeWrite d value) s = .next s)
    ∧ (∀ axes : Bool, s.jobState = jobEMPTY →
        let s1 := if axes then s.setReg Reg.frkAxes (value % 2 ^ 32) else s.setReg Reg.frkAddr (bit value 31 * 2 ^ 31 + value % 2 ^ 20)
        (∀ i < 4, 1 ≤ s1.axisLen i ∧ s1.axisLen i ≤ 32 ∧ coord s1.ownAddr i < s1.axisLen i) →
        s1.axisLen 0 * s1.axisLen 1 * s1.axisLen 2 * s1.axisLen 3 ≤ 65536 → answers (.frkAddrWrite axes value) s (fun u =>
          u.reg Reg.frkAddr = s1.reg Reg.frkAddr ∧ u.reg Reg.frkAxes = s1.reg Reg.frkAxes ∧ memoriesKept s u ∧ tilesKept s u))
    ∧ (bits value 23 16 ≠ 0 → bits value 15 0 ≠ 0 → answers (.xepochWrite value) s (fun u =>
        u.fld Reg.frkXportCtl 23 0 = bits value 23 0 ∧ memoriesKept s u ∧ tilesKept s u
        ∧ (idle → isBit (s.reg Reg.netSnapStatus) 1 = false → u.fld Reg.frkXportCtl 31 24 = bits value 31 24 ∧ u.conns = [])
        ∧ (¬ idle → u.fld Reg.frkXportCtl 31 24 = s.fld Reg.frkXportCtl 31 24 ∧ u.conns = s.conns)))
    ∧ answers .frkRouteRead s (fun u => u.reg Reg.frkRouteData = s.routeEntry (s.fld Reg.frkRouteIndex 15 0)
        ∧ regsKept (fun k => k = Reg.frkRouteData) s u ∧ u = { s with regs := u.regs })
    ∧ (bits (s.reg Reg.frkRouteData) 62 56 = 0 → bits (s.reg Reg.frkRouteData) 46 20 = 0 → answers .frkRouteWrite s (fun u =>
        (∀ i, u.routeEntry i = if i = s.fld Reg.frkRouteIndex 15 0 then s.reg Reg.frkRouteData else s.routeEntry i)
        ∧ regsKept (fun k => k = Reg.frkMsgCount 10 ∨ k = Reg.frkMsgFirst) s u ∧ memoriesKept s u ∧ tilesKept s u ∧ u.move = s.move
        ∧ ((∀ p < 8, (s.port p).queue = []) → u.arrived = s.arrived ∧ ∀ p, u.port p = s.port p)))
    ∧ (∀ addr k, s.bar0Fault addr 4 = false → s.keyOf addr = some k → s.writeOpen k = true →
        ¬ (0x10000000 ≤ k ∧ (k - 0x10000000) % 0x4000 = 0x608) →
        let table := if 0x10000000 ≤ k then tileClears (k - (k - 0x10000000) % 0x4000) ((k - 0x10000000) % 0x4000) else s.globClears k
        answers (.counterClear addr value []) s (fun u =>
          (∀ x ∈ table, isBit value x.1 = true → ∀ j ∈ x.2.2, u.reg j = 0)
          ∧ regsKept (fun j => ∃ x ∈ table, isBit value x.1 = true ∧ j ∈ x.2.2) s u ∧ u = { s with regs := u.regs }))
    ∧ (∀ addr k, s.bar0Fault addr 4 = false → s.keyOf addr = some k → s.writeOpen k = true → isQntClear k = true → s.qntOpen = true →
        let p := (k - 0x10000000) / 0x4000
        answers (.counterClear addr value []) s (fun u =>
          (∀ x ∈ s.clears k, isBit value x.1 = true → ∀ j ∈ x.2.2, u.reg j = 0)
          ∧ (∀ i < 16, isBit value i = true → Sparse.get (fun _ => (0 : W32)) (u.tile p).amax i = 0 ∧ u.slotAmax p i % 2 ^ 24 = 0)
          ∧ (isBit value 17 = true → ∀ n < 64, u.reg (Reg.tlQntChMin p n) = 0x7F800000 ∧ u.reg (Reg.tlQntChMax p n) = 0xFF800000)
          ∧ (∀ x, x ≠ p → u.tile x = s.tile x) ∧ memoriesKept s u))
    ∧ (∀ (addr k : Nat) (d : RegDesc) (wide : Bool), let v := value % 2 ^ (if wide then 64 else 32)
        s.bar0Fault addr (if wide then 8 else 4) = false → addr < 0x500000 → bufferAddr addr = false → s.keyOf addr = some k → Reg.desc k = some d →
        isWide k = wide → (4 ≤ k → isWide (k - 4) = false) → ownRow k = false → s.clears k = [] → reservedValue k v = false → s.writeOpen k = true →
        (0x310000 ≤ k ∧ k < 0x320000 ∧ k % 0x1000 = 0x50 → isBit v 32 = false) → (k = Reg.mgtMboxCtl → isBit v 0 = false) →
        answers (.registerWrite addr wide value) s (fun u => u.reg k = merged d (s.reg k) v % 2 ^ 64 ∧ memoriesKept s u ∧ tilesKept s u))

/-- R15: a read of an offset in BAR0 that no register map assigns returns 0, and a write to it, of 32 bits or of 64, is discarded. An access that
R470 treats as a fault is not meant; a write into the meter's window is counted besides (R510). -/
def Obligations.UnassignedOffsetsReadZeroAndDiscardWrites : Prop :=
  ∀ (s : State) (addr : Nat),
    let unassigned := fun (a : Nat) => bufferAddr a = false ∧ ∀ k, s.keyOf a = some k → Reg.desc k = none ∧ (4 ≤ k → isWide (k - 4) = false)
    unassigned addr → s.read32 addr = 0 ∧ (unassigned (addr + 4) → s.read64 addr = 0)
    ∧ ∀ (wide : Bool) (value : Nat), addr < 0x04000000 → s.bar0Fault addr (if wide then 8 else 4) = false → (wide = true → unassigned (addr + 4)) →
      answers (.registerWrite addr wide value) s (fun u =>
        memoriesKept s u ∧ tilesKept s u ∧ regsKept (fun k => k = Reg.hqErrCount 0 ∨ k = Reg.hqIntCause) s u
        ∧ (¬ (0x500000 ≤ addr ∧ addr < 0x510000) → u = s))
end

