-- ==== Sys2Proof/Laws/Sparse.lean ====
section
/-! SUPPORT. Laws of sparse tables and byte memories: a read after a write of the same key gives the value written, a write leaves every
other key alone, and every operation keeps the canonical form. The read laws hold of every table, canonical or not. -/

namespace Sys2Proof.Machine

section Table
variable {α : Type} (d : Nat → α)

/-! ### Reads after writes -/

theorem Sparse.get_put (m : Sparse α) (k : Nat) (v : α) (j : Nat) :
    Sparse.get d (Sparse.put m k v) j = if j = k then v else Sparse.get d m j := by
  induction m with
  | nil => simp [Sparse.put, Sparse.get]
  | cons e m ih =>
    obtain ⟨i, w⟩ := e
    by_cases h1 : k < i
    · simp [Sparse.put, h1, Sparse.get]
    · by_cases h2 : k = i
      · subst h2
        by_cases h3 : j = k <;> simp [Sparse.put, Sparse.get, h3]
      · by_cases h3 : j = i
        · subst h3
          simp [Sparse.put, h1, h2, Sparse.get, Ne.symm h2]
        · simp [Sparse.put, h1, h2, Sparse.get, h3, ih]

theorem Sparse.get_filter (m : Sparse α) (p : Nat → Bool) (j : Nat) :
    Sparse.get d (m.filter (fun e => p e.1)) j = if p j then Sparse.get d m j else d j := by
  induction m with
  | nil => simp [Sparse.get]
  | cons e m ih =>
    obtain ⟨i, w⟩ := e
    by_cases hi : p i
    · simp only [List.filter_cons, hi, if_true, Sparse.get]
      by_cases h : j = i
      · subst h
        simp [hi]
      · simp [h, ih]
    · simp only [List.filter_cons, hi, Sparse.get]
      by_cases h : j = i
      · subst h
        simp [hi, ih]
      · simp [h, ih]

variable [DecidableEq α]

theorem Sparse.get_set (m : Sparse α) (k : Nat) (v : α) (j : Nat) :
    Sparse.get d (Sparse.set d m k v) j = if j = k then v else Sparse.get d m j := by
  unfold Sparse.set
  split
  · rename_i h
    rw [Sparse.get_filter d m (fun i => i != k)]
    by_cases hj : j = k <;> simp [hj, h]
  · exact Sparse.get_put d m k v j

@[simp] theorem Sparse.get_set_self (m : Sparse α) (k : Nat) (v : α) : Sparse.get d (Sparse.set d m k v) k = v := by
  simp [Sparse.get_set]

theorem Sparse.get_set_other (m : Sparse α) (k : Nat) (v : α) (j : Nat) (h : j ≠ k) :
    Sparse.get d (Sparse.set d m k v) j = Sparse.get d m j := by
  simp [Sparse.get_set, h]

omit [DecidableEq α] in
theorem Sparse.get_clearRange (m : Sparse α) (lo hi j : Nat) :
    Sparse.get d (Sparse.clearRange m lo hi) j = if lo ≤ j ∧ j < hi then d j else Sparse.get d m j := by
  unfold Sparse.clearRange
  rw [Sparse.get_filter d m (fun i => !(decide (lo ≤ i) && decide (i < hi)))]
  by_cases h : lo ≤ j ∧ j < hi
  · simp [h.1, h.2]
  · rw [if_neg h]
    simp only [Bool.not_and, Bool.or_eq_true, Bool.not_eq_true', decide_eq_false_iff_not]
    rw [if_pos]
    by_cases h1 : lo ≤ j
    · exact .inr (fun h2 => h ⟨h1, h2⟩)
    · exact .inl h1

omit [DecidableEq α] in
theorem Sparse.get_clearIf (m : Sparse α) (p : Nat → Bool) (j : Nat) :
    Sparse.get d (Sparse.clearIf m p) j = if p j then d j else Sparse.get d m j := by
  unfold Sparse.clearIf
  rw [Sparse.get_filter d m (fun i => !p i)]
  cases p j <;> simp

/-! ### The canonical form -/

theorem Sparse.wfFrom_mono (m : Sparse α) (a b : Nat) (h : b ≤ a) (hm : Sparse.wfFrom d a m = true) : Sparse.wfFrom d b m = true := by
  cases m with
  | nil => rfl
  | cons e m =>
    obtain ⟨j, v⟩ := e
    simp only [Sparse.wfFrom, Bool.and_eq_true, decide_eq_true_eq] at hm ⊢
    exact ⟨Nat.le_trans h hm.1, hm.2⟩

theorem Sparse.wfFrom_filter (m : Sparse α) (p : Nat × α → Bool) (b : Nat) (hm : Sparse.wfFrom d b m = true) :
    Sparse.wfFrom d b (m.filter p) = true := by
  induction m generalizing b with
  | nil => rfl
  | cons e m ih =>
    obtain ⟨j, v⟩ := e
    simp only [Sparse.wfFrom, Bool.and_eq_true, decide_eq_true_eq] at hm
    have h := ih (j + 1) hm.2.2
    by_cases hp : p (j, v)
    · simp only [List.filter_cons, hp, if_true, Sparse.wfFrom, Bool.and_eq_true, decide_eq_true_eq]
      exact ⟨hm.1, hm.2.1, h⟩
    · simp only [List.filter_cons, hp]
      exact Sparse.wfFrom_mono d _ (j + 1) b (by omega) h

theorem Sparse.wfFrom_put (m : Sparse α) (k : Nat) (v : α) (b : Nat) (hv : v ≠ d k) (hb : b ≤ k) (hm : Sparse.wfFrom d b m = true) :
    Sparse.wfFrom d b (Sparse.put m k v) = true := by
  induction m generalizing b with
  | nil => simp [Sparse.put, Sparse.wfFrom, hb, hv]
  | cons e m ih =>
    obtain ⟨j, w⟩ := e
    simp only [Sparse.wfFrom, Bool.and_eq_true, decide_eq_true_eq] at hm
    by_cases h1 : k < j
    · simp only [Sparse.put, h1, if_true, Sparse.wfFrom, Bool.and_eq_true, decide_eq_true_eq]
      exact ⟨hb, hv, h1, hm.2.1, hm.2.2⟩
    · by_cases h2 : k = j
      · subst h2
        simp only [Sparse.put, h1, if_false, if_true, Sparse.wfFrom, Bool.and_eq_true, decide_eq_true_eq]
        exact ⟨hb, hv, hm.2.2⟩
      · simp only [Sparse.put, h1, h2, if_false, Sparse.wfFrom, Bool.and_eq_true, decide_eq_true_eq]
        exact ⟨hm.1, hm.2.1, ih (j + 1) (by omega) hm.2.2⟩

theorem Sparse.wf_set (m : Sparse α) (k : Nat) (v : α) (hm : Sparse.wf d m = true) : Sparse.wf d (Sparse.set d m k v) = true := by
  unfold Sparse.set
  split
  · exact Sparse.wfFrom_filter d m _ 0 hm
  · rename_i h
    exact Sparse.wfFrom_put d m k v 0 h (Nat.zero_le _) hm

theorem Sparse.wf_filter (m : Sparse α) (p : Nat × α → Bool) (hm : Sparse.wf d m = true) : Sparse.wf d (m.filter p) = true :=
  Sparse.wfFrom_filter d m p 0 hm

theorem Sparse.wf_clearRange (m : Sparse α) (lo hi : Nat) (hm : Sparse.wf d m = true) : Sparse.wf d (Sparse.clearRange m lo hi) = true :=
  Sparse.wf_filter d m _ hm

theorem Sparse.wf_clearIf (m : Sparse α) (p : Nat → Bool) (hm : Sparse.wf d m = true) : Sparse.wf d (Sparse.clearIf m p) = true :=
  Sparse.wf_filter d m _ hm

theorem Sparse.wf_nil : Sparse.wf d ([] : Sparse α) = true := rfl

end Table

/-! ### Byte memories -/

theorem Mem.byte_set (m : Mem) (a : Nat) (b : Byte) (x : Nat) : Mem.byte (Mem.set m a b) x = if x = a then b else Mem.byte m x :=
  Sparse.get_set Mem.dflt m a b x

theorem Mem.byte_zero (m : Mem) (lo hi x : Nat) : Mem.byte (Mem.zero m lo hi) x = if lo ≤ x ∧ x < hi then 0 else Mem.byte m x :=
  Sparse.get_clearRange Mem.dflt m lo hi x

theorem Mem.byte_write (m : Mem) (a : Nat) (bs : List Byte) (x : Nat) :
    Mem.byte (Mem.write m a bs) x = if a ≤ x ∧ x < a + bs.length then bs.getD (x - a) 0 else Mem.byte m x := by
  induction bs generalizing m a with
  | nil =>
    simp only [Mem.write, List.length_nil]
    rw [if_neg (by omega)]
  | cons b bs ih =>
    simp only [Mem.write, ih, Mem.byte_set, List.length_cons]
    by_cases h1 : a + 1 ≤ x ∧ x < a + 1 + bs.length
    · have h2 : x - a = (x - (a + 1)) + 1 := by omega
      rw [if_pos h1, if_pos (by omega), h2]
      simp
    · rw [if_neg h1]
      by_cases h2 : x = a
      · subst h2
        simp
      · rw [if_neg h2, if_neg (by omega)]

/-- A write leaves every byte outside it alone. -/
theorem Mem.byte_write_other (m : Mem) (a : Nat) (bs : List Byte) (x : Nat) (h : x < a ∨ a + bs.length ≤ x) :
    Mem.byte (Mem.write m a bs) x = Mem.byte m x := by
  rw [Mem.byte_write, if_neg (by omega)]

theorem Mem.read_congr (m n : Mem) (a k : Nat) (h : ∀ x, a ≤ x → x < a + k → Mem.byte n x = Mem.byte m x) :
    Mem.read n a k = Mem.read m a k := by
  induction k generalizing a with
  | zero => rfl
  | succ k ih =>
    simp only [Mem.read]
    rw [h a (Nat.le_refl _) (by omega), ih (a + 1) (fun x h1 h2 => h x (by omega) (by omega))]

/-- A read of what was just written gives it back. -/
theorem Mem.read_write_self (m : Mem) (a : Nat) (bs : List Byte) : Mem.read (Mem.write m a bs) a bs.length = bs := by
  induction bs generalizing m a with
  | nil => rfl
  | cons b bs ih =>
    simp only [Mem.write, List.length_cons, Mem.read, ih]
    rw [Mem.byte_write_other _ _ _ _ (.inl (Nat.lt_succ_self a)), Mem.byte_set]
    simp

/-- A read beside a write gives what it gave before. -/
theorem Mem.read_write_other (m : Mem) (a : Nat) (bs : List Byte) (x n : Nat) (h : x + n ≤ a ∨ a + bs.length ≤ x) :
    Mem.read (Mem.write m a bs) x n = Mem.read m x n :=
  Mem.read_congr _ _ x n (fun y h1 h2 => Mem.byte_write_other m a bs y (by omega))

@[simp] theorem Mem.read_length (m : Mem) (a n : Nat) : (Mem.read m a n).length = n := by
  induction n generalizing a with
  | zero => rfl
  | succ n ih => simp [Mem.read, ih]

theorem Mem.wf_set (m : Mem) (a : Nat) (b : Byte) (h : Memory.wf m = true) : Memory.wf (Mem.set m a b) = true :=
  Sparse.wf_set Mem.dflt m a b h

theorem Mem.wf_write (m : Mem) (a : Nat) (bs : List Byte) (h : Memory.wf m = true) : Memory.wf (Mem.write m a bs) = true := by
  induction bs generalizing m a with
  | nil => exact h
  | cons b bs ih => exact ih _ _ (Mem.wf_set m a b h)

theorem Mem.wf_zero (m : Mem) (lo hi : Nat) (h : Memory.wf m = true) : Memory.wf (Mem.zero m lo hi) = true :=
  Sparse.wf_clearRange Mem.dflt m lo hi h

end Sys2Proof.Machine
end

