-- ==== Sys2Proof/Laws/State.lean ====
section
/-! SUPPORT. What each named update of the state leaves as it was, one lemma per field, and what it changes: registers, tiles, free values and
banks read back. -/

namespace Sys2Proof.Machine

variable (s : State)

/-! ### setReg -/

@[simp] theorem State.setReg_pending (k v : Nat) : (s.setReg k v).pending = s.pending := rfl
@[simp] theorem State.setReg_small (k v : Nat) : (s.setReg k v).small = s.small := rfl
@[simp] theorem State.setReg_freeCtr (k v : Nat) : (s.setReg k v).freeCtr = s.freeCtr := rfl
@[simp] theorem State.setReg_rises (k v : Nat) : (s.setReg k v).rises = s.rises := rfl
@[simp] theorem State.setReg_shadow (k v : Nat) : (s.setReg k v).shadow = s.shadow := rfl
@[simp] theorem State.setReg_shadowFirst (k v : Nat) : (s.setReg k v).shadowFirst = s.shadowFirst := rfl
@[simp] theorem State.setReg_sram (k v : Nat) : (s.setReg k v).sram = s.sram := rfl
@[simp] theorem State.setReg_lineValid (k v : Nat) : (s.setReg k v).lineValid = s.lineValid := rfl
@[simp] theorem State.setReg_tiles (k v : Nat) : (s.setReg k v).tiles = s.tiles := rfl
@[simp] theorem State.setReg_job (k v : Nat) : (s.setReg k v).job = s.job := rfl
@[simp] theorem State.setReg_retests (k v : Nat) : (s.setReg k v).retests = s.retests := rfl
@[simp] theorem State.setReg_training (k v : Nat) : (s.setReg k v).training = s.training := rfl
@[simp] theorem State.setReg_normAcc (k v : Nat) : (s.setReg k v).normAcc = s.normAcc := rfl
@[simp] theorem State.setReg_domSums (k v : Nat) : (s.setReg k v).domSums = s.domSums := rfl
@[simp] theorem State.setReg_frames (k v : Nat) : (s.setReg k v).frames = s.frames := rfl
@[simp] theorem State.setReg_recorder (k v : Nat) : (s.setReg k v).recorder = s.recorder := rfl
@[simp] theorem State.setReg_hbm (k v : Nat) : (s.setReg k v).hbm = s.hbm := rfl
@[simp] theorem State.setReg_hostMem (k v : Nat) : (s.setReg k v).hostMem = s.hostMem := rfl
@[simp] theorem State.setReg_regions (k v : Nat) : (s.setReg k v).regions = s.regions := rfl
@[simp] theorem State.setReg_remaps (k v : Nat) : (s.setReg k v).remaps = s.remaps := rfl
@[simp] theorem State.setReg_staging (k v : Nat) : (s.setReg k v).staging = s.staging := rfl
@[simp] theorem State.setReg_stagedNew (k v : Nat) : (s.setReg k v).stagedNew = s.stagedNew := rfl
@[simp] theorem State.setReg_ownerCache (k v : Nat) : (s.setReg k v).ownerCache = s.ownerCache := rfl
@[simp] theorem State.setReg_repair0 (k v : Nat) : (s.setReg k v).repair0 = s.repair0 := rfl
@[simp] theorem State.setReg_repair1 (k v : Nat) : (s.setReg k v).repair1 = s.repair1 := rfl
@[simp] theorem State.setReg_repairsDue (k v : Nat) : (s.setReg k v).repairsDue = s.repairsDue := rfl
@[simp] theorem State.setReg_petals (k v : Nat) : (s.setReg k v).petals = s.petals := rfl
@[simp] theorem State.setReg_taken (k v : Nat) : (s.setReg k v).taken = s.taken := rfl
@[simp] theorem State.setReg_completions (k v : Nat) : (s.setReg k v).completions = s.completions := rfl
@[simp] theorem State.setReg_wires (k v : Nat) : (s.setReg k v).wires = s.wires := rfl
@[simp] theorem State.setReg_lists (k v : Nat) : (s.setReg k v).lists = s.lists := rfl
@[simp] theorem State.setReg_grants (k v : Nat) : (s.setReg k v).grants = s.grants := rfl
@[simp] theorem State.setReg_slotsUsed (k v : Nat) : (s.setReg k v).slotsUsed = s.slotsUsed := rfl
@[simp] theorem State.setReg_served (k v : Nat) : (s.setReg k v).served = s.served := rfl
@[simp] theorem State.setReg_firstAt (k v : Nat) : (s.setReg k v).firstAt = s.firstAt := rfl
@[simp] theorem State.setReg_ports (k v : Nat) : (s.setReg k v).ports = s.ports := rfl
@[simp] theorem State.setReg_arrived (k v : Nat) : (s.setReg k v).arrived = s.arrived := rfl
@[simp] theorem State.setReg_routes (k v : Nat) : (s.setReg k v).routes = s.routes := rfl
@[simp] theorem State.setReg_conns (k v : Nat) : (s.setReg k v).conns = s.conns := rfl
@[simp] theorem State.setReg_exch (k v : Nat) : (s.setReg k v).exch = s.exch := rfl
@[simp] theorem State.setReg_votes (k v : Nat) : (s.setReg k v).votes = s.votes := rfl
@[simp] theorem State.setReg_barriers (k v : Nat) : (s.setReg k v).barriers = s.barriers := rfl
@[simp] theorem State.setReg_reshard (k v : Nat) : (s.setReg k v).reshard = s.reshard := rfl
@[simp] theorem State.setReg_colls (k v : Nat) : (s.setReg k v).colls = s.colls := rfl
@[simp] theorem State.setReg_layers (k v : Nat) : (s.setReg k v).layers = s.layers := rfl
@[simp] theorem State.setReg_snap (k v : Nat) : (s.setReg k v).snap = s.snap := rfl
@[simp] theorem State.setReg_flash (k v : Nat) : (s.setReg k v).flash = s.flash := rfl
@[simp] theorem State.setReg_jobCmds (k v : Nat) : (s.setReg k v).jobCmds = s.jobCmds := rfl
@[simp] theorem State.setReg_copies (k v : Nat) : (s.setReg k v).copies = s.copies := rfl
@[simp] theorem State.setReg_trained (k v : Nat) : (s.setReg k v).trained = s.trained := rfl
@[simp] theorem State.setReg_d3 (k v : Nat) : (s.setReg k v).d3 = s.d3 := rfl
@[simp] theorem State.setReg_mgmt (k v : Nat) : (s.setReg k v).mgmt = s.mgmt := rfl
@[simp] theorem State.setReg_meter (k v : Nat) : (s.setReg k v).meter = s.meter := rfl
@[simp] theorem State.setReg_power (k v : Nat) : (s.setReg k v).power = s.power := rfl
@[simp] theorem State.setReg_msix (k v : Nat) : (s.setReg k v).msix = s.msix := rfl
@[simp] theorem State.setReg_heldCmds (k v : Nat) : (s.setReg k v).heldCmds = s.heldCmds := rfl
@[simp] theorem State.setReg_late (k v : Nat) : (s.setReg k v).late = s.late := rfl
@[simp] theorem State.setReg_sent (k v : Nat) : (s.setReg k v).sent = s.sent := rfl

/-! ### setFld -/

@[simp] theorem State.setFld_pending (k hi lo v : Nat) : (s.setFld k hi lo v).pending = s.pending := rfl
@[simp] theorem State.setFld_small (k hi lo v : Nat) : (s.setFld k hi lo v).small = s.small := rfl
@[simp] theorem State.setFld_freeCtr (k hi lo v : Nat) : (s.setFld k hi lo v).freeCtr = s.freeCtr := rfl
@[simp] theorem State.setFld_rises (k hi lo v : Nat) : (s.setFld k hi lo v).rises = s.rises := rfl
@[simp] theorem State.setFld_shadow (k hi lo v : Nat) : (s.setFld k hi lo v).shadow = s.shadow := rfl
@[simp] theorem State.setFld_shadowFirst (k hi lo v : Nat) : (s.setFld k hi lo v).shadowFirst = s.shadowFirst := rfl
@[simp] theorem State.setFld_sram (k hi lo v : Nat) : (s.setFld k hi lo v).sram = s.sram := rfl
@[simp] theorem State.setFld_lineValid (k hi lo v : Nat) : (s.setFld k hi lo v).lineValid = s.lineValid := rfl
@[simp] theorem State.setFld_tiles (k hi lo v : Nat) : (s.setFld k hi lo v).tiles = s.tiles := rfl
@[simp] theorem State.setFld_job (k hi lo v : Nat) : (s.setFld k hi lo v).job = s.job := rfl
@[simp] theorem State.setFld_retests (k hi lo v : Nat) : (s.setFld k hi lo v).retests = s.retests := rfl
@[simp] theorem State.setFld_training (k hi lo v : Nat) : (s.setFld k hi lo v).training = s.training := rfl
@[simp] theorem State.setFld_normAcc (k hi lo v : Nat) : (s.setFld k hi lo v).normAcc = s.normAcc := rfl
@[simp] theorem State.setFld_domSums (k hi lo v : Nat) : (s.setFld k hi lo v).domSums = s.domSums := rfl
@[simp] theorem State.setFld_frames (k hi lo v : Nat) : (s.setFld k hi lo v).frames = s.frames := rfl
@[simp] theorem State.setFld_recorder (k hi lo v : Nat) : (s.setFld k hi lo v).recorder = s.recorder := rfl
@[simp] theorem State.setFld_hbm (k hi lo v : Nat) : (s.setFld k hi lo v).hbm = s.hbm := rfl
@[simp] theorem State.setFld_hostMem (k hi lo v : Nat) : (s.setFld k hi lo v).hostMem = s.hostMem := rfl
@[simp] theorem State.setFld_regions (k hi lo v : Nat) : (s.setFld k hi lo v).regions = s.regions := rfl
@[simp] theorem State.setFld_remaps (k hi lo v : Nat) : (s.setFld k hi lo v).remaps = s.remaps := rfl
@[simp] theorem State.setFld_staging (k hi lo v : Nat) : (s.setFld k hi lo v).staging = s.staging := rfl
@[simp] theorem State.setFld_stagedNew (k hi lo v : Nat) : (s.setFld k hi lo v).stagedNew = s.stagedNew := rfl
@[simp] theorem State.setFld_ownerCache (k hi lo v : Nat) : (s.setFld k hi lo v).ownerCache = s.ownerCache := rfl
@[simp] theorem State.setFld_repair0 (k hi lo v : Nat) : (s.setFld k hi lo v).repair0 = s.repair0 := rfl
@[simp] theorem State.setFld_repair1 (k hi lo v : Nat) : (s.setFld k hi lo v).repair1 = s.repair1 := rfl
@[simp] theorem State.setFld_repairsDue (k hi lo v : Nat) : (s.setFld k hi lo v).repairsDue = s.repairsDue := rfl
@[simp] theorem State.setFld_petals (k hi lo v : Nat) : (s.setFld k hi lo v).petals = s.petals := rfl
@[simp] theorem State.setFld_taken (k hi lo v : Nat) : (s.setFld k hi lo v).taken = s.taken := rfl
@[simp] theorem State.setFld_completions (k hi lo v : Nat) : (s.setFld k hi lo v).completions = s.completions := rfl
@[simp] theorem State.setFld_wires (k hi lo v : Nat) : (s.setFld k hi lo v).wires = s.wires := rfl
@[simp] theorem State.setFld_lists (k hi lo v : Nat) : (s.setFld k hi lo v).lists = s.lists := rfl
@[simp] theorem State.setFld_grants (k hi lo v : Nat) : (s.setFld k hi lo v).grants = s.grants := rfl
@[simp] theorem State.setFld_slotsUsed (k hi lo v : Nat) : (s.setFld k hi lo v).slotsUsed = s.slotsUsed := rfl
@[simp] theorem State.setFld_served (k hi lo v : Nat) : (s.setFld k hi lo v).served = s.served := rfl
@[simp] theorem State.setFld_firstAt (k hi lo v : Nat) : (s.setFld k hi lo v).firstAt = s.firstAt := rfl
@[simp] theorem State.setFld_ports (k hi lo v : Nat) : (s.setFld k hi lo v).ports = s.ports := rfl
@[simp] theorem State.setFld_arrived (k hi lo v : Nat) : (s.setFld k hi lo v).arrived = s.arrived := rfl
@[simp] theorem State.setFld_routes (k hi lo v : Nat) : (s.setFld k hi lo v).routes = s.routes := rfl
@[simp] theorem State.setFld_conns (k hi lo v : Nat) : (s.setFld k hi lo v).conns = s.conns := rfl
@[simp] theorem State.setFld_exch (k hi lo v : Nat) : (s.setFld k hi lo v).exch = s.exch := rfl
@[simp] theorem State.setFld_votes (k hi lo v : Nat) : (s.setFld k hi lo v).votes = s.votes := rfl
@[simp] theorem State.setFld_barriers (k hi lo v : Nat) : (s.setFld k hi lo v).barriers = s.barriers := rfl
@[simp] theorem State.setFld_reshard (k hi lo v : Nat) : (s.setFld k hi lo v).reshard = s.reshard := rfl
@[simp] theorem State.setFld_colls (k hi lo v : Nat) : (s.setFld k hi lo v).colls = s.colls := rfl
@[simp] theorem State.setFld_layers (k hi lo v : Nat) : (s.setFld k hi lo v).layers = s.layers := rfl
@[simp] theorem State.setFld_snap (k hi lo v : Nat) : (s.setFld k hi lo v).snap = s.snap := rfl
@[simp] theorem State.setFld_flash (k hi lo v : Nat) : (s.setFld k hi lo v).flash = s.flash := rfl
@[simp] theorem State.setFld_jobCmds (k hi lo v : Nat) : (s.setFld k hi lo v).jobCmds = s.jobCmds := rfl
@[simp] theorem State.setFld_copies (k hi lo v : Nat) : (s.setFld k hi lo v).copies = s.copies := rfl
@[simp] theorem State.setFld_trained (k hi lo v : Nat) : (s.setFld k hi lo v).trained = s.trained := rfl
@[simp] theorem State.setFld_d3 (k hi lo v : Nat) : (s.setFld k hi lo v).d3 = s.d3 := rfl
@[simp] theorem State.setFld_mgmt (k hi lo v : Nat) : (s.setFld k hi lo v).mgmt = s.mgmt := rfl
@[simp] theorem State.setFld_meter (k hi lo v : Nat) : (s.setFld k hi lo v).meter = s.meter := rfl
@[simp] theorem State.setFld_power (k hi lo v : Nat) : (s.setFld k hi lo v).power = s.power := rfl
@[simp] theorem State.setFld_msix (k hi lo v : Nat) : (s.setFld k hi lo v).msix = s.msix := rfl
@[simp] theorem State.setFld_heldCmds (k hi lo v : Nat) : (s.setFld k hi lo v).heldCmds = s.heldCmds := rfl
@[simp] theorem State.setFld_late (k hi lo v : Nat) : (s.setFld k hi lo v).late = s.late := rfl
@[simp] theorem State.setFld_sent (k hi lo v : Nat) : (s.setFld k hi lo v).sent = s.sent := rfl

/-! ### resetRegs -/

@[simp] theorem State.resetRegs_pending (p : Nat → Bool) : (s.resetRegs p).pending = s.pending := rfl
@[simp] theorem State.resetRegs_small (p : Nat → Bool) : (s.resetRegs p).small = s.small := rfl
@[simp] theorem State.resetRegs_freeCtr (p : Nat → Bool) : (s.resetRegs p).freeCtr = s.freeCtr := rfl
@[simp] theorem State.resetRegs_rises (p : Nat → Bool) : (s.resetRegs p).rises = s.rises := rfl
@[simp] theorem State.resetRegs_shadow (p : Nat → Bool) : (s.resetRegs p).shadow = s.shadow := rfl
@[simp] theorem State.resetRegs_shadowFirst (p : Nat → Bool) : (s.resetRegs p).shadowFirst = s.shadowFirst := rfl
@[simp] theorem State.resetRegs_sram (p : Nat → Bool) : (s.resetRegs p).sram = s.sram := rfl
@[simp] theorem State.resetRegs_lineValid (p : Nat → Bool) : (s.resetRegs p).lineValid = s.lineValid := rfl
@[simp] theorem State.resetRegs_tiles (p : Nat → Bool) : (s.resetRegs p).tiles = s.tiles := rfl
@[simp] theorem State.resetRegs_job (p : Nat → Bool) : (s.resetRegs p).job = s.job := rfl
@[simp] theorem State.resetRegs_retests (p : Nat → Bool) : (s.resetRegs p).retests = s.retests := rfl
@[simp] theorem State.resetRegs_training (p : Nat → Bool) : (s.resetRegs p).training = s.training := rfl
@[simp] theorem State.resetRegs_normAcc (p : Nat → Bool) : (s.resetRegs p).normAcc = s.normAcc := rfl
@[simp] theorem State.resetRegs_domSums (p : Nat → Bool) : (s.resetRegs p).domSums = s.domSums := rfl
@[simp] theorem State.resetRegs_frames (p : Nat → Bool) : (s.resetRegs p).frames = s.frames := rfl
@[simp] theorem State.resetRegs_recorder (p : Nat → Bool) : (s.resetRegs p).recorder = s.recorder := rfl
@[simp] theorem State.resetRegs_hbm (p : Nat → Bool) : (s.resetRegs p).hbm = s.hbm := rfl
@[simp] theorem State.resetRegs_hostMem (p : Nat → Bool) : (s.resetRegs p).hostMem = s.hostMem := rfl
@[simp] theorem State.resetRegs_regions (p : Nat → Bool) : (s.resetRegs p).regions = s.regions := rfl
@[simp] theorem State.resetRegs_remaps (p : Nat → Bool) : (s.resetRegs p).remaps = s.remaps := rfl
@[simp] theorem State.resetRegs_staging (p : Nat → Bool) : (s.resetRegs p).staging = s.staging := rfl
@[simp] theorem State.resetRegs_stagedNew (p : Nat → Bool) : (s.resetRegs p).stagedNew = s.stagedNew := rfl
@[simp] theorem State.resetRegs_ownerCache (p : Nat → Bool) : (s.resetRegs p).ownerCache = s.ownerCache := rfl
@[simp] theorem State.resetRegs_repair0 (p : Nat → Bool) : (s.resetRegs p).repair0 = s.repair0 := rfl
@[simp] theorem State.resetRegs_repair1 (p : Nat → Bool) : (s.resetRegs p).repair1 = s.repair1 := rfl
@[simp] theorem State.resetRegs_repairsDue (p : Nat → Bool) : (s.resetRegs p).repairsDue = s.repairsDue := rfl
@[simp] theorem State.resetRegs_petals (p : Nat → Bool) : (s.resetRegs p).petals = s.petals := rfl
@[simp] theorem State.resetRegs_taken (p : Nat → Bool) : (s.resetRegs p).taken = s.taken := rfl
@[simp] theorem State.resetRegs_completions (p : Nat → Bool) : (s.resetRegs p).completions = s.completions := rfl
@[simp] theorem State.resetRegs_wires (p : Nat → Bool) : (s.resetRegs p).wires = s.wires := rfl
@[simp] theorem State.resetRegs_lists (p : Nat → Bool) : (s.resetRegs p).lists = s.lists := rfl
@[simp] theorem State.resetRegs_grants (p : Nat → Bool) : (s.resetRegs p).grants = s.grants := rfl
@[simp] theorem State.resetRegs_slotsUsed (p : Nat → Bool) : (s.resetRegs p).slotsUsed = s.slotsUsed := rfl
@[simp] theorem State.resetRegs_served (p : Nat → Bool) : (s.resetRegs p).served = s.served := rfl
@[simp] theorem State.resetRegs_firstAt (p : Nat → Bool) : (s.resetRegs p).firstAt = s.firstAt := rfl
@[simp] theorem State.resetRegs_ports (p : Nat → Bool) : (s.resetRegs p).ports = s.ports := rfl
@[simp] theorem State.resetRegs_arrived (p : Nat → Bool) : (s.resetRegs p).arrived = s.arrived := rfl
@[simp] theorem State.resetRegs_routes (p : Nat → Bool) : (s.resetRegs p).routes = s.routes := rfl
@[simp] theorem State.resetRegs_conns (p : Nat → Bool) : (s.resetRegs p).conns = s.conns := rfl
@[simp] theorem State.resetRegs_exch (p : Nat → Bool) : (s.resetRegs p).exch = s.exch := rfl
@[simp] theorem State.resetRegs_votes (p : Nat → Bool) : (s.resetRegs p).votes = s.votes := rfl
@[simp] theorem State.resetRegs_barriers (p : Nat → Bool) : (s.resetRegs p).barriers = s.barriers := rfl
@[simp] theorem State.resetRegs_reshard (p : Nat → Bool) : (s.resetRegs p).reshard = s.reshard := rfl
@[simp] theorem State.resetRegs_colls (p : Nat → Bool) : (s.resetRegs p).colls = s.colls := rfl
@[simp] theorem State.resetRegs_layers (p : Nat → Bool) : (s.resetRegs p).layers = s.layers := rfl
@[simp] theorem State.resetRegs_snap (p : Nat → Bool) : (s.resetRegs p).snap = s.snap := rfl
@[simp] theorem State.resetRegs_flash (p : Nat → Bool) : (s.resetRegs p).flash = s.flash := rfl
@[simp] theorem State.resetRegs_jobCmds (p : Nat → Bool) : (s.resetRegs p).jobCmds = s.jobCmds := rfl
@[simp] theorem State.resetRegs_copies (p : Nat → Bool) : (s.resetRegs p).copies = s.copies := rfl
@[simp] theorem State.resetRegs_trained (p : Nat → Bool) : (s.resetRegs p).trained = s.trained := rfl
@[simp] theorem State.resetRegs_d3 (p : Nat → Bool) : (s.resetRegs p).d3 = s.d3 := rfl
@[simp] theorem State.resetRegs_mgmt (p : Nat → Bool) : (s.resetRegs p).mgmt = s.mgmt := rfl
@[simp] theorem State.resetRegs_meter (p : Nat → Bool) : (s.resetRegs p).meter = s.meter := rfl
@[simp] theorem State.resetRegs_power (p : Nat → Bool) : (s.resetRegs p).power = s.power := rfl
@[simp] theorem State.resetRegs_msix (p : Nat → Bool) : (s.resetRegs p).msix = s.msix := rfl
@[simp] theorem State.resetRegs_heldCmds (p : Nat → Bool) : (s.resetRegs p).heldCmds = s.heldCmds := rfl
@[simp] theorem State.resetRegs_late (p : Nat → Bool) : (s.resetRegs p).late = s.late := rfl
@[simp] theorem State.resetRegs_sent (p : Nat → Bool) : (s.resetRegs p).sent = s.sent := rfl

/-! ### dropRises -/

@[simp] theorem State.dropRises_pending : (s.dropRises).pending = s.pending := rfl
@[simp] theorem State.dropRises_small : (s.dropRises).small = s.small := rfl
@[simp] theorem State.dropRises_freeCtr : (s.dropRises).freeCtr = s.freeCtr := rfl
@[simp] theorem State.dropRises_regs : (s.dropRises).regs = s.regs := rfl
@[simp] theorem State.dropRises_shadow : (s.dropRises).shadow = s.shadow := rfl
@[simp] theorem State.dropRises_shadowFirst : (s.dropRises).shadowFirst = s.shadowFirst := rfl
@[simp] theorem State.dropRises_sram : (s.dropRises).sram = s.sram := rfl
@[simp] theorem State.dropRises_lineValid : (s.dropRises).lineValid = s.lineValid := rfl
@[simp] theorem State.dropRises_tiles : (s.dropRises).tiles = s.tiles := rfl
@[simp] theorem State.dropRises_job : (s.dropRises).job = s.job := rfl
@[simp] theorem State.dropRises_retests : (s.dropRises).retests = s.retests := rfl
@[simp] theorem State.dropRises_training : (s.dropRises).training = s.training := rfl
@[simp] theorem State.dropRises_normAcc : (s.dropRises).normAcc = s.normAcc := rfl
@[simp] theorem State.dropRises_domSums : (s.dropRises).domSums = s.domSums := rfl
@[simp] theorem State.dropRises_frames : (s.dropRises).frames = s.frames := rfl
@[simp] theorem State.dropRises_recorder : (s.dropRises).recorder = s.recorder := rfl
@[simp] theorem State.dropRises_hbm : (s.dropRises).hbm = s.hbm := rfl
@[simp] theorem State.dropRises_hostMem : (s.dropRises).hostMem = s.hostMem := rfl
@[simp] theorem State.dropRises_regions : (s.dropRises).regions = s.regions := rfl
@[simp] theorem State.dropRises_remaps : (s.dropRises).remaps = s.remaps := rfl
@[simp] theorem State.dropRises_staging : (s.dropRises).staging = s.staging := rfl
@[simp] theorem State.dropRises_stagedNew : (s.dropRises).stagedNew = s.stagedNew := rfl
@[simp] theorem State.dropRises_ownerCache : (s.dropRises).ownerCache = s.ownerCache := rfl
@[simp] theorem State.dropRises_repair0 : (s.dropRises).repair0 = s.repair0 := rfl
@[simp] theorem State.dropRises_repair1 : (s.dropRises).repair1 = s.repair1 := rfl
@[simp] theorem State.dropRises_repairsDue : (s.dropRises).repairsDue = s.repairsDue := rfl
@[simp] theorem State.dropRises_petals : (s.dropRises).petals = s.petals := rfl
@[simp] theorem State.dropRises_taken : (s.dropRises).taken = s.taken := rfl
@[simp] theorem State.dropRises_completions : (s.dropRises).completions = s.completions := rfl
@[simp] theorem State.dropRises_wires : (s.dropRises).wires = s.wires := rfl
@[simp] theorem State.dropRises_lists : (s.dropRises).lists = s.lists := rfl
@[simp] theorem State.dropRises_grants : (s.dropRises).grants = s.grants := rfl
@[simp] theorem State.dropRises_slotsUsed : (s.dropRises).slotsUsed = s.slotsUsed := rfl
@[simp] theorem State.dropRises_served : (s.dropRises).served = s.served := rfl
@[simp] theorem State.dropRises_firstAt : (s.dropRises).firstAt = s.firstAt := rfl
@[simp] theorem State.dropRises_ports : (s.dropRises).ports = s.ports := rfl
@[simp] theorem State.dropRises_arrived : (s.dropRises).arrived = s.arrived := rfl
@[simp] theorem State.dropRises_routes : (s.dropRises).routes = s.routes := rfl
@[simp] theorem State.dropRises_conns : (s.dropRises).conns = s.conns := rfl
@[simp] theorem State.dropRises_exch : (s.dropRises).exch = s.exch := rfl
@[simp] theorem State.dropRises_votes : (s.dropRises).votes = s.votes := rfl
@[simp] theorem State.dropRises_barriers : (s.dropRises).barriers = s.barriers := rfl
@[simp] theorem State.dropRises_reshard : (s.dropRises).reshard = s.reshard := rfl
@[simp] theorem State.dropRises_colls : (s.dropRises).colls = s.colls := rfl
@[simp] theorem State.dropRises_layers : (s.dropRises).layers = s.layers := rfl
@[simp] theorem State.dropRises_snap : (s.dropRises).snap = s.snap := rfl
@[simp] theorem State.dropRises_flash : (s.dropRises).flash = s.flash := rfl
@[simp] theorem State.dropRises_jobCmds : (s.dropRises).jobCmds = s.jobCmds := rfl
@[simp] theorem State.dropRises_copies : (s.dropRises).copies = s.copies := rfl
@[simp] theorem State.dropRises_trained : (s.dropRises).trained = s.trained := rfl
@[simp] theorem State.dropRises_d3 : (s.dropRises).d3 = s.d3 := rfl
@[simp] theorem State.dropRises_mgmt : (s.dropRises).mgmt = s.mgmt := rfl
@[simp] theorem State.dropRises_meter : (s.dropRises).meter = s.meter := rfl
@[simp] theorem State.dropRises_power : (s.dropRises).power = s.power := rfl
@[simp] theorem State.dropRises_msix : (s.dropRises).msix = s.msix := rfl
@[simp] theorem State.dropRises_heldCmds : (s.dropRises).heldCmds = s.heldCmds := rfl
@[simp] theorem State.dropRises_late : (s.dropRises).late = s.late := rfl
@[simp] theorem State.dropRises_sent : (s.dropRises).sent = s.sent := rfl

/-! ### clearRise -/

@[simp] theorem State.clearRise_pending (k : Nat) : (s.clearRise k).pending = s.pending := rfl
@[simp] theorem State.clearRise_small (k : Nat) : (s.clearRise k).small = s.small := rfl
@[simp] theorem State.clearRise_freeCtr (k : Nat) : (s.clearRise k).freeCtr = s.freeCtr := rfl
@[simp] theorem State.clearRise_regs (k : Nat) : (s.clearRise k).regs = s.regs := rfl
@[simp] theorem State.clearRise_shadow (k : Nat) : (s.clearRise k).shadow = s.shadow := rfl
@[simp] theorem State.clearRise_shadowFirst (k : Nat) : (s.clearRise k).shadowFirst = s.shadowFirst := rfl
@[simp] theorem State.clearRise_sram (k : Nat) : (s.clearRise k).sram = s.sram := rfl
@[simp] theorem State.clearRise_lineValid (k : Nat) : (s.clearRise k).lineValid = s.lineValid := rfl
@[simp] theorem State.clearRise_tiles (k : Nat) : (s.clearRise k).tiles = s.tiles := rfl
@[simp] theorem State.clearRise_job (k : Nat) : (s.clearRise k).job = s.job := rfl
@[simp] theorem State.clearRise_retests (k : Nat) : (s.clearRise k).retests = s.retests := rfl
@[simp] theorem State.clearRise_training (k : Nat) : (s.clearRise k).training = s.training := rfl
@[simp] theorem State.clearRise_normAcc (k : Nat) : (s.clearRise k).normAcc = s.normAcc := rfl
@[simp] theorem State.clearRise_domSums (k : Nat) : (s.clearRise k).domSums = s.domSums := rfl
@[simp] theorem State.clearRise_frames (k : Nat) : (s.clearRise k).frames = s.frames := rfl
@[simp] theorem State.clearRise_recorder (k : Nat) : (s.clearRise k).recorder = s.recorder := rfl
@[simp] theorem State.clearRise_hbm (k : Nat) : (s.clearRise k).hbm = s.hbm := rfl
@[simp] theorem State.clearRise_hostMem (k : Nat) : (s.clearRise k).hostMem = s.hostMem := rfl
@[simp] theorem State.clearRise_regions (k : Nat) : (s.clearRise k).regions = s.regions := rfl
@[simp] theorem State.clearRise_remaps (k : Nat) : (s.clearRise k).remaps = s.remaps := rfl
@[simp] theorem State.clearRise_staging (k : Nat) : (s.clearRise k).staging = s.staging := rfl
@[simp] theorem State.clearRise_stagedNew (k : Nat) : (s.clearRise k).stagedNew = s.stagedNew := rfl
@[simp] theorem State.clearRise_ownerCache (k : Nat) : (s.clearRise k).ownerCache = s.ownerCache := rfl
@[simp] theorem State.clearRise_repair0 (k : Nat) : (s.clearRise k).repair0 = s.repair0 := rfl
@[simp] theorem State.clearRise_repair1 (k : Nat) : (s.clearRise k).repair1 = s.repair1 := rfl
@[simp] theorem State.clearRise_repairsDue (k : Nat) : (s.clearRise k).repairsDue = s.repairsDue := rfl
@[simp] theorem State.clearRise_petals (k : Nat) : (s.clearRise k).petals = s.petals := rfl
@[simp] theorem State.clearRise_taken (k : Nat) : (s.clearRise k).taken = s.taken := rfl
@[simp] theorem State.clearRise_completions (k : Nat) : (s.clearRise k).completions = s.completions := rfl
@[simp] theorem State.clearRise_wires (k : Nat) : (s.clearRise k).wires = s.wires := rfl
@[simp] theorem State.clearRise_lists (k : Nat) : (s.clearRise k).lists = s.lists := rfl
@[simp] theorem State.clearRise_grants (k : Nat) : (s.clearRise k).grants = s.grants := rfl
@[simp] theorem State.clearRise_slotsUsed (k : Nat) : (s.clearRise k).slotsUsed = s.slotsUsed := rfl
@[simp] theorem State.clearRise_served (k : Nat) : (s.clearRise k).served = s.served := rfl
@[simp] theorem State.clearRise_firstAt (k : Nat) : (s.clearRise k).firstAt = s.firstAt := rfl
@[simp] theorem State.clearRise_ports (k : Nat) : (s.clearRise k).ports = s.ports := rfl
@[simp] theorem State.clearRise_arrived (k : Nat) : (s.clearRise k).arrived = s.arrived := rfl
@[simp] theorem State.clearRise_routes (k : Nat) : (s.clearRise k).routes = s.routes := rfl
@[simp] theorem State.clearRise_conns (k : Nat) : (s.clearRise k).conns = s.conns := rfl
@[simp] theorem State.clearRise_exch (k : Nat) : (s.clearRise k).exch = s.exch := rfl
@[simp] theorem State.clearRise_votes (k : Nat) : (s.clearRise k).votes = s.votes := rfl
@[simp] theorem State.clearRise_barriers (k : Nat) : (s.clearRise k).barriers = s.barriers := rfl
@[simp] theorem State.clearRise_reshard (k : Nat) : (s.clearRise k).reshard = s.reshard := rfl
@[simp] theorem State.clearRise_colls (k : Nat) : (s.clearRise k).colls = s.colls := rfl
@[simp] theorem State.clearRise_layers (k : Nat) : (s.clearRise k).layers = s.layers := rfl
@[simp] theorem State.clearRise_snap (k : Nat) : (s.clearRise k).snap = s.snap := rfl
@[simp] theorem State.clearRise_flash (k : Nat) : (s.clearRise k).flash = s.flash := rfl
@[simp] theorem State.clearRise_jobCmds (k : Nat) : (s.clearRise k).jobCmds = s.jobCmds := rfl
@[simp] theorem State.clearRise_copies (k : Nat) : (s.clearRise k).copies = s.copies := rfl
@[simp] theorem State.clearRise_trained (k : Nat) : (s.clearRise k).trained = s.trained := rfl
@[simp] theorem State.clearRise_d3 (k : Nat) : (s.clearRise k).d3 = s.d3 := rfl
@[simp] theorem State.clearRise_mgmt (k : Nat) : (s.clearRise k).mgmt = s.mgmt := rfl
@[simp] theorem State.clearRise_meter (k : Nat) : (s.clearRise k).meter = s.meter := rfl
@[simp] theorem State.clearRise_power (k : Nat) : (s.clearRise k).power = s.power := rfl
@[simp] theorem State.clearRise_msix (k : Nat) : (s.clearRise k).msix = s.msix := rfl
@[simp] theorem State.clearRise_heldCmds (k : Nat) : (s.clearRise k).heldCmds = s.heldCmds := rfl
@[simp] theorem State.clearRise_late (k : Nat) : (s.clearRise k).late = s.late := rfl
@[simp] theorem State.clearRise_sent (k : Nat) : (s.clearRise k).sent = s.sent := rfl

/-! ### useFree -/

@[simp] theorem State.useFree_pending : (s.useFree).pending = s.pending := rfl
@[simp] theorem State.useFree_small : (s.useFree).small = s.small := rfl
@[simp] theorem State.useFree_regs : (s.useFree).regs = s.regs := rfl
@[simp] theorem State.useFree_rises : (s.useFree).rises = s.rises := rfl
@[simp] theorem State.useFree_shadow : (s.useFree).shadow = s.shadow := rfl
@[simp] theorem State.useFree_shadowFirst : (s.useFree).shadowFirst = s.shadowFirst := rfl
@[simp] theorem State.useFree_sram : (s.useFree).sram = s.sram := rfl
@[simp] theorem State.useFree_lineValid : (s.useFree).lineValid = s.lineValid := rfl
@[simp] theorem State.useFree_tiles : (s.useFree).tiles = s.tiles := rfl
@[simp] theorem State.useFree_job : (s.useFree).job = s.job := rfl
@[simp] theorem State.useFree_retests : (s.useFree).retests = s.retests := rfl
@[simp] theorem State.useFree_training : (s.useFree).training = s.training := rfl
@[simp] theorem State.useFree_normAcc : (s.useFree).normAcc = s.normAcc := rfl
@[simp] theorem State.useFree_domSums : (s.useFree).domSums = s.domSums := rfl
@[simp] theorem State.useFree_frames : (s.useFree).frames = s.frames := rfl
@[simp] theorem State.useFree_recorder : (s.useFree).recorder = s.recorder := rfl
@[simp] theorem State.useFree_hbm : (s.useFree).hbm = s.hbm := rfl
@[simp] theorem State.useFree_hostMem : (s.useFree).hostMem = s.hostMem := rfl
@[simp] theorem State.useFree_regions : (s.useFree).regions = s.regions := rfl
@[simp] theorem State.useFree_remaps : (s.useFree).remaps = s.remaps := rfl
@[simp] theorem State.useFree_staging : (s.useFree).staging = s.staging := rfl
@[simp] theorem State.useFree_stagedNew : (s.useFree).stagedNew = s.stagedNew := rfl
@[simp] theorem State.useFree_ownerCache : (s.useFree).ownerCache = s.ownerCache := rfl
@[simp] theorem State.useFree_repair0 : (s.useFree).repair0 = s.repair0 := rfl
@[simp] theorem State.useFree_repair1 : (s.useFree).repair1 = s.repair1 := rfl
@[simp] theorem State.useFree_repairsDue : (s.useFree).repairsDue = s.repairsDue := rfl
@[simp] theorem State.useFree_petals : (s.useFree).petals = s.petals := rfl
@[simp] theorem State.useFree_taken : (s.useFree).taken = s.taken := rfl
@[simp] theorem State.useFree_completions : (s.useFree).completions = s.completions := rfl
@[simp] theorem State.useFree_wires : (s.useFree).wires = s.wires := rfl
@[simp] theorem State.useFree_lists : (s.useFree).lists = s.lists := rfl
@[simp] theorem State.useFree_grants : (s.useFree).grants = s.grants := rfl
@[simp] theorem State.useFree_slotsUsed : (s.useFree).slotsUsed = s.slotsUsed := rfl
@[simp] theorem State.useFree_served : (s.useFree).served = s.served := rfl
@[simp] theorem State.useFree_firstAt : (s.useFree).firstAt = s.firstAt := rfl
@[simp] theorem State.useFree_ports : (s.useFree).ports = s.ports := rfl
@[simp] theorem State.useFree_arrived : (s.useFree).arrived = s.arrived := rfl
@[simp] theorem State.useFree_routes : (s.useFree).routes = s.routes := rfl
@[simp] theorem State.useFree_conns : (s.useFree).conns = s.conns := rfl
@[simp] theorem State.useFree_exch : (s.useFree).exch = s.exch := rfl
@[simp] theorem State.useFree_votes : (s.useFree).votes = s.votes := rfl
@[simp] theorem State.useFree_barriers : (s.useFree).barriers = s.barriers := rfl
@[simp] theorem State.useFree_reshard : (s.useFree).reshard = s.reshard := rfl
@[simp] theorem State.useFree_colls : (s.useFree).colls = s.colls := rfl
@[simp] theorem State.useFree_layers : (s.useFree).layers = s.layers := rfl
@[simp] theorem State.useFree_snap : (s.useFree).snap = s.snap := rfl
@[simp] theorem State.useFree_flash : (s.useFree).flash = s.flash := rfl
@[simp] theorem State.useFree_jobCmds : (s.useFree).jobCmds = s.jobCmds := rfl
@[simp] theorem State.useFree_copies : (s.useFree).copies = s.copies := rfl
@[simp] theorem State.useFree_trained : (s.useFree).trained = s.trained := rfl
@[simp] theorem State.useFree_d3 : (s.useFree).d3 = s.d3 := rfl
@[simp] theorem State.useFree_mgmt : (s.useFree).mgmt = s.mgmt := rfl
@[simp] theorem State.useFree_meter : (s.useFree).meter = s.meter := rfl
@[simp] theorem State.useFree_power : (s.useFree).power = s.power := rfl
@[simp] theorem State.useFree_msix : (s.useFree).msix = s.msix := rfl
@[simp] theorem State.useFree_heldCmds : (s.useFree).heldCmds = s.heldCmds := rfl
@[simp] theorem State.useFree_late : (s.useFree).late = s.late := rfl
@[simp] theorem State.useFree_sent : (s.useFree).sent = s.sent := rfl

/-! ### setTile -/

@[simp] theorem State.setTile_pending (p : Nat) (t : TileState) : (s.setTile p t).pending = s.pending := rfl
@[simp] theorem State.setTile_small (p : Nat) (t : TileState) : (s.setTile p t).small = s.small := rfl
@[simp] theorem State.setTile_freeCtr (p : Nat) (t : TileState) : (s.setTile p t).freeCtr = s.freeCtr := rfl
@[simp] theorem State.setTile_regs (p : Nat) (t : TileState) : (s.setTile p t).regs = s.regs := rfl
@[simp] theorem State.setTile_rises (p : Nat) (t : TileState) : (s.setTile p t).rises = s.rises := rfl
@[simp] theorem State.setTile_shadow (p : Nat) (t : TileState) : (s.setTile p t).shadow = s.shadow := rfl
@[simp] theorem State.setTile_shadowFirst (p : Nat) (t : TileState) : (s.setTile p t).shadowFirst = s.shadowFirst := rfl
@[simp] theorem State.setTile_sram (p : Nat) (t : TileState) : (s.setTile p t).sram = s.sram := rfl
@[simp] theorem State.setTile_lineValid (p : Nat) (t : TileState) : (s.setTile p t).lineValid = s.lineValid := rfl
@[simp] theorem State.setTile_job (p : Nat) (t : TileState) : (s.setTile p t).job = s.job := rfl
@[simp] theorem State.setTile_retests (p : Nat) (t : TileState) : (s.setTile p t).retests = s.retests := rfl
@[simp] theorem State.setTile_training (p : Nat) (t : TileState) : (s.setTile p t).training = s.training := rfl
@[simp] theorem State.setTile_normAcc (p : Nat) (t : TileState) : (s.setTile p t).normAcc = s.normAcc := rfl
@[simp] theorem State.setTile_domSums (p : Nat) (t : TileState) : (s.setTile p t).domSums = s.domSums := rfl
@[simp] theorem State.setTile_frames (p : Nat) (t : TileState) : (s.setTile p t).frames = s.frames := rfl
@[simp] theorem State.setTile_recorder (p : Nat) (t : TileState) : (s.setTile p t).recorder = s.recorder := rfl
@[simp] theorem State.setTile_hbm (p : Nat) (t : TileState) : (s.setTile p t).hbm = s.hbm := rfl
@[simp] theorem State.setTile_hostMem (p : Nat) (t : TileState) : (s.setTile p t).hostMem = s.hostMem := rfl
@[simp] theorem State.setTile_regions (p : Nat) (t : TileState) : (s.setTile p t).regions = s.regions := rfl
@[simp] theorem State.setTile_remaps (p : Nat) (t : TileState) : (s.setTile p t).remaps = s.remaps := rfl
@[simp] theorem State.setTile_staging (p : Nat) (t : TileState) : (s.setTile p t).staging = s.staging := rfl
@[simp] theorem State.setTile_stagedNew (p : Nat) (t : TileState) : (s.setTile p t).stagedNew = s.stagedNew := rfl
@[simp] theorem State.setTile_ownerCache (p : Nat) (t : TileState) : (s.setTile p t).ownerCache = s.ownerCache := rfl
@[simp] theorem State.setTile_repair0 (p : Nat) (t : TileState) : (s.setTile p t).repair0 = s.repair0 := rfl
@[simp] theorem State.setTile_repair1 (p : Nat) (t : TileState) : (s.setTile p t).repair1 = s.repair1 := rfl
@[simp] theorem State.setTile_repairsDue (p : Nat) (t : TileState) : (s.setTile p t).repairsDue = s.repairsDue := rfl
@[simp] theorem State.setTile_petals (p : Nat) (t : TileState) : (s.setTile p t).petals = s.petals := rfl
@[simp] theorem State.setTile_taken (p : Nat) (t : TileState) : (s.setTile p t).taken = s.taken := rfl
@[simp] theorem State.setTile_completions (p : Nat) (t : TileState) : (s.setTile p t).completions = s.completions := rfl
@[simp] theorem State.setTile_wires (p : Nat) (t : TileState) : (s.setTile p t).wires = s.wires := rfl
@[simp] theorem State.setTile_lists (p : Nat) (t : TileState) : (s.setTile p t).lists = s.lists := rfl
@[simp] theorem State.setTile_grants (p : Nat) (t : TileState) : (s.setTile p t).grants = s.grants := rfl
@[simp] theorem State.setTile_slotsUsed (p : Nat) (t : TileState) : (s.setTile p t).slotsUsed = s.slotsUsed := rfl
@[simp] theorem State.setTile_served (p : Nat) (t : TileState) : (s.setTile p t).served = s.served := rfl
@[simp] theorem State.setTile_firstAt (p : Nat) (t : TileState) : (s.setTile p t).firstAt = s.firstAt := rfl
@[simp] theorem State.setTile_ports (p : Nat) (t : TileState) : (s.setTile p t).ports = s.ports := rfl
@[simp] theorem State.setTile_arrived (p : Nat) (t : TileState) : (s.setTile p t).arrived = s.arrived := rfl
@[simp] theorem State.setTile_routes (p : Nat) (t : TileState) : (s.setTile p t).routes = s.routes := rfl
@[simp] theorem State.setTile_conns (p : Nat) (t : TileState) : (s.setTile p t).conns = s.conns := rfl
@[simp] theorem State.setTile_exch (p : Nat) (t : TileState) : (s.setTile p t).exch = s.exch := rfl
@[simp] theorem State.setTile_votes (p : Nat) (t : TileState) : (s.setTile p t).votes = s.votes := rfl
@[simp] theorem State.setTile_barriers (p : Nat) (t : TileState) : (s.setTile p t).barriers = s.barriers := rfl
@[simp] theorem State.setTile_reshard (p : Nat) (t : TileState) : (s.setTile p t).reshard = s.reshard := rfl
@[simp] theorem State.setTile_colls (p : Nat) (t : TileState) : (s.setTile p t).colls = s.colls := rfl
@[simp] theorem State.setTile_layers (p : Nat) (t : TileState) : (s.setTile p t).layers = s.layers := rfl
@[simp] theorem State.setTile_snap (p : Nat) (t : TileState) : (s.setTile p t).snap = s.snap := rfl
@[simp] theorem State.setTile_flash (p : Nat) (t : TileState) : (s.setTile p t).flash = s.flash := rfl
@[simp] theorem State.setTile_jobCmds (p : Nat) (t : TileState) : (s.setTile p t).jobCmds = s.jobCmds := rfl
@[simp] theorem State.setTile_copies (p : Nat) (t : TileState) : (s.setTile p t).copies = s.copies := rfl
@[simp] theorem State.setTile_trained (p : Nat) (t : TileState) : (s.setTile p t).trained = s.trained := rfl
@[simp] theorem State.setTile_d3 (p : Nat) (t : TileState) : (s.setTile p t).d3 = s.d3 := rfl
@[simp] theorem State.setTile_mgmt (p : Nat) (t : TileState) : (s.setTile p t).mgmt = s.mgmt := rfl
@[simp] theorem State.setTile_meter (p : Nat) (t : TileState) : (s.setTile p t).meter = s.meter := rfl
@[simp] theorem State.setTile_power (p : Nat) (t : TileState) : (s.setTile p t).power = s.power := rfl
@[simp] theorem State.setTile_msix (p : Nat) (t : TileState) : (s.setTile p t).msix = s.msix := rfl
@[simp] theorem State.setTile_heldCmds (p : Nat) (t : TileState) : (s.setTile p t).heldCmds = s.heldCmds := rfl
@[simp] theorem State.setTile_late (p : Nat) (t : TileState) : (s.setTile p t).late = s.late := rfl
@[simp] theorem State.setTile_sent (p : Nat) (t : TileState) : (s.setTile p t).sent = s.sent := rfl

/-! ### modTile -/

@[simp] theorem State.modTile_pending (p : Nat) (f : TileState → TileState) : (s.modTile p f).pending = s.pending := rfl
@[simp] theorem State.modTile_small (p : Nat) (f : TileState → TileState) : (s.modTile p f).small = s.small := rfl
@[simp] theorem State.modTile_freeCtr (p : Nat) (f : TileState → TileState) : (s.modTile p f).freeCtr = s.freeCtr := rfl
@[simp] theorem State.modTile_regs (p : Nat) (f : TileState → TileState) : (s.modTile p f).regs = s.regs := rfl
@[simp] theorem State.modTile_rises (p : Nat) (f : TileState → TileState) : (s.modTile p f).rises = s.rises := rfl
@[simp] theorem State.modTile_shadow (p : Nat) (f : TileState → TileState) : (s.modTile p f).shadow = s.shadow := rfl
@[simp] theorem State.modTile_shadowFirst (p : Nat) (f : TileState → TileState) : (s.modTile p f).shadowFirst = s.shadowFirst := rfl
@[simp] theorem State.modTile_sram (p : Nat) (f : TileState → TileState) : (s.modTile p f).sram = s.sram := rfl
@[simp] theorem State.modTile_lineValid (p : Nat) (f : TileState → TileState) : (s.modTile p f).lineValid = s.lineValid := rfl
@[simp] theorem State.modTile_job (p : Nat) (f : TileState → TileState) : (s.modTile p f).job = s.job := rfl
@[simp] theorem State.modTile_retests (p : Nat) (f : TileState → TileState) : (s.modTile p f).retests = s.retests := rfl
@[simp] theorem State.modTile_training (p : Nat) (f : TileState → TileState) : (s.modTile p f).training = s.training := rfl
@[simp] theorem State.modTile_normAcc (p : Nat) (f : TileState → TileState) : (s.modTile p f).normAcc = s.normAcc := rfl
@[simp] theorem State.modTile_domSums (p : Nat) (f : TileState → TileState) : (s.modTile p f).domSums = s.domSums := rfl
@[simp] theorem State.modTile_frames (p : Nat) (f : TileState → TileState) : (s.modTile p f).frames = s.frames := rfl
@[simp] theorem State.modTile_recorder (p : Nat) (f : TileState → TileState) : (s.modTile p f).recorder = s.recorder := rfl
@[simp] theorem State.modTile_hbm (p : Nat) (f : TileState → TileState) : (s.modTile p f).hbm = s.hbm := rfl
@[simp] theorem State.modTile_hostMem (p : Nat) (f : TileState → TileState) : (s.modTile p f).hostMem = s.hostMem := rfl
@[simp] theorem State.modTile_regions (p : Nat) (f : TileState → TileState) : (s.modTile p f).regions = s.regions := rfl
@[simp] theorem State.modTile_remaps (p : Nat) (f : TileState → TileState) : (s.modTile p f).remaps = s.remaps := rfl
@[simp] theorem State.modTile_staging (p : Nat) (f : TileState → TileState) : (s.modTile p f).staging = s.staging := rfl
@[simp] theorem State.modTile_stagedNew (p : Nat) (f : TileState → TileState) : (s.modTile p f).stagedNew = s.stagedNew := rfl
@[simp] theorem State.modTile_ownerCache (p : Nat) (f : TileState → TileState) : (s.modTile p f).ownerCache = s.ownerCache := rfl
@[simp] theorem State.modTile_repair0 (p : Nat) (f : TileState → TileState) : (s.modTile p f).repair0 = s.repair0 := rfl
@[simp] theorem State.modTile_repair1 (p : Nat) (f : TileState → TileState) : (s.modTile p f).repair1 = s.repair1 := rfl
@[simp] theorem State.modTile_repairsDue (p : Nat) (f : TileState → TileState) : (s.modTile p f).repairsDue = s.repairsDue := rfl
@[simp] theorem State.modTile_petals (p : Nat) (f : TileState → TileState) : (s.modTile p f).petals = s.petals := rfl
@[simp] theorem State.modTile_taken (p : Nat) (f : TileState → TileState) : (s.modTile p f).taken = s.taken := rfl
@[simp] theorem State.modTile_completions (p : Nat) (f : TileState → TileState) : (s.modTile p f).completions = s.completions := rfl
@[simp] theorem State.modTile_wires (p : Nat) (f : TileState → TileState) : (s.modTile p f).wires = s.wires := rfl
@[simp] theorem State.modTile_lists (p : Nat) (f : TileState → TileState) : (s.modTile p f).lists = s.lists := rfl
@[simp] theorem State.modTile_grants (p : Nat) (f : TileState → TileState) : (s.modTile p f).grants = s.grants := rfl
@[simp] theorem State.modTile_slotsUsed (p : Nat) (f : TileState → TileState) : (s.modTile p f).slotsUsed = s.slotsUsed := rfl
@[simp] theorem State.modTile_served (p : Nat) (f : TileState → TileState) : (s.modTile p f).served = s.served := rfl
@[simp] theorem State.modTile_firstAt (p : Nat) (f : TileState → TileState) : (s.modTile p f).firstAt = s.firstAt := rfl
@[simp] theorem State.modTile_ports (p : Nat) (f : TileState → TileState) : (s.modTile p f).ports = s.ports := rfl
@[simp] theorem State.modTile_arrived (p : Nat) (f : TileState → TileState) : (s.modTile p f).arrived = s.arrived := rfl
@[simp] theorem State.modTile_routes (p : Nat) (f : TileState → TileState) : (s.modTile p f).routes = s.routes := rfl
@[simp] theorem State.modTile_conns (p : Nat) (f : TileState → TileState) : (s.modTile p f).conns = s.conns := rfl
@[simp] theorem State.modTile_exch (p : Nat) (f : TileState → TileState) : (s.modTile p f).exch = s.exch := rfl
@[simp] theorem State.modTile_votes (p : Nat) (f : TileState → TileState) : (s.modTile p f).votes = s.votes := rfl
@[simp] theorem State.modTile_barriers (p : Nat) (f : TileState → TileState) : (s.modTile p f).barriers = s.barriers := rfl
@[simp] theorem State.modTile_reshard (p : Nat) (f : TileState → TileState) : (s.modTile p f).reshard = s.reshard := rfl
@[simp] theorem State.modTile_colls (p : Nat) (f : TileState → TileState) : (s.modTile p f).colls = s.colls := rfl
@[simp] theorem State.modTile_layers (p : Nat) (f : TileState → TileState) : (s.modTile p f).layers = s.layers := rfl
@[simp] theorem State.modTile_snap (p : Nat) (f : TileState → TileState) : (s.modTile p f).snap = s.snap := rfl
@[simp] theorem State.modTile_flash (p : Nat) (f : TileState → TileState) : (s.modTile p f).flash = s.flash := rfl
@[simp] theorem State.modTile_jobCmds (p : Nat) (f : TileState → TileState) : (s.modTile p f).jobCmds = s.jobCmds := rfl
@[simp] theorem State.modTile_copies (p : Nat) (f : TileState → TileState) : (s.modTile p f).copies = s.copies := rfl
@[simp] theorem State.modTile_trained (p : Nat) (f : TileState → TileState) : (s.modTile p f).trained = s.trained := rfl
@[simp] theorem State.modTile_d3 (p : Nat) (f : TileState → TileState) : (s.modTile p f).d3 = s.d3 := rfl
@[simp] theorem State.modTile_mgmt (p : Nat) (f : TileState → TileState) : (s.modTile p f).mgmt = s.mgmt := rfl
@[simp] theorem State.modTile_meter (p : Nat) (f : TileState → TileState) : (s.modTile p f).meter = s.meter := rfl
@[simp] theorem State.modTile_power (p : Nat) (f : TileState → TileState) : (s.modTile p f).power = s.power := rfl
@[simp] theorem State.modTile_msix (p : Nat) (f : TileState → TileState) : (s.modTile p f).msix = s.msix := rfl
@[simp] theorem State.modTile_heldCmds (p : Nat) (f : TileState → TileState) : (s.modTile p f).heldCmds = s.heldCmds := rfl
@[simp] theorem State.modTile_late (p : Nat) (f : TileState → TileState) : (s.modTile p f).late = s.late := rfl
@[simp] theorem State.modTile_sent (p : Nat) (f : TileState → TileState) : (s.modTile p f).sent = s.sent := rfl

/-! ### sendMsix -/

@[simp] theorem State.sendMsix_pending (v : Nat) : (s.sendMsix v).pending = s.pending := rfl
@[simp] theorem State.sendMsix_small (v : Nat) : (s.sendMsix v).small = s.small := rfl
@[simp] theorem State.sendMsix_freeCtr (v : Nat) : (s.sendMsix v).freeCtr = s.freeCtr := rfl
@[simp] theorem State.sendMsix_regs (v : Nat) : (s.sendMsix v).regs = s.regs := rfl
@[simp] theorem State.sendMsix_rises (v : Nat) : (s.sendMsix v).rises = s.rises := rfl
@[simp] theorem State.sendMsix_shadow (v : Nat) : (s.sendMsix v).shadow = s.shadow := rfl
@[simp] theorem State.sendMsix_shadowFirst (v : Nat) : (s.sendMsix v).shadowFirst = s.shadowFirst := rfl
@[simp] theorem State.sendMsix_sram (v : Nat) : (s.sendMsix v).sram = s.sram := rfl
@[simp] theorem State.sendMsix_lineValid (v : Nat) : (s.sendMsix v).lineValid = s.lineValid := rfl
@[simp] theorem State.sendMsix_tiles (v : Nat) : (s.sendMsix v).tiles = s.tiles := rfl
@[simp] theorem State.sendMsix_job (v : Nat) : (s.sendMsix v).job = s.job := rfl
@[simp] theorem State.sendMsix_retests (v : Nat) : (s.sendMsix v).retests = s.retests := rfl
@[simp] theorem State.sendMsix_training (v : Nat) : (s.sendMsix v).training = s.training := rfl
@[simp] theorem State.sendMsix_normAcc (v : Nat) : (s.sendMsix v).normAcc = s.normAcc := rfl
@[simp] theorem State.sendMsix_domSums (v : Nat) : (s.sendMsix v).domSums = s.domSums := rfl
@[simp] theorem State.sendMsix_frames (v : Nat) : (s.sendMsix v).frames = s.frames := rfl
@[simp] theorem State.sendMsix_recorder (v : Nat) : (s.sendMsix v).recorder = s.recorder := rfl
@[simp] theorem State.sendMsix_hbm (v : Nat) : (s.sendMsix v).hbm = s.hbm := rfl
@[simp] theorem State.sendMsix_hostMem (v : Nat) : (s.sendMsix v).hostMem = s.hostMem := rfl
@[simp] theorem State.sendMsix_regions (v : Nat) : (s.sendMsix v).regions = s.regions := rfl
@[simp] theorem State.sendMsix_remaps (v : Nat) : (s.sendMsix v).remaps = s.remaps := rfl
@[simp] theorem State.sendMsix_staging (v : Nat) : (s.sendMsix v).staging = s.staging := rfl
@[simp] theorem State.sendMsix_stagedNew (v : Nat) : (s.sendMsix v).stagedNew = s.stagedNew := rfl
@[simp] theorem State.sendMsix_ownerCache (v : Nat) : (s.sendMsix v).ownerCache = s.ownerCache := rfl
@[simp] theorem State.sendMsix_repair0 (v : Nat) : (s.sendMsix v).repair0 = s.repair0 := rfl
@[simp] theorem State.sendMsix_repair1 (v : Nat) : (s.sendMsix v).repair1 = s.repair1 := rfl
@[simp] theorem State.sendMsix_repairsDue (v : Nat) : (s.sendMsix v).repairsDue = s.repairsDue := rfl
@[simp] theorem State.sendMsix_petals (v : Nat) : (s.sendMsix v).petals = s.petals := rfl
@[simp] theorem State.sendMsix_taken (v : Nat) : (s.sendMsix v).taken = s.taken := rfl
@[simp] theorem State.sendMsix_completions (v : Nat) : (s.sendMsix v).completions = s.completions := rfl
@[simp] theorem State.sendMsix_wires (v : Nat) : (s.sendMsix v).wires = s.wires := rfl
@[simp] theorem State.sendMsix_lists (v : Nat) : (s.sendMsix v).lists = s.lists := rfl
@[simp] theorem State.sendMsix_grants (v : Nat) : (s.sendMsix v).grants = s.grants := rfl
@[simp] theorem State.sendMsix_slotsUsed (v : Nat) : (s.sendMsix v).slotsUsed = s.slotsUsed := rfl
@[simp] theorem State.sendMsix_served (v : Nat) : (s.sendMsix v).served = s.served := rfl
@[simp] theorem State.sendMsix_firstAt (v : Nat) : (s.sendMsix v).firstAt = s.firstAt := rfl
@[simp] theorem State.sendMsix_ports (v : Nat) : (s.sendMsix v).ports = s.ports := rfl
@[simp] theorem State.sendMsix_arrived (v : Nat) : (s.sendMsix v).arrived = s.arrived := rfl
@[simp] theorem State.sendMsix_routes (v : Nat) : (s.sendMsix v).routes = s.routes := rfl
@[simp] theorem State.sendMsix_conns (v : Nat) : (s.sendMsix v).conns = s.conns := rfl
@[simp] theorem State.sendMsix_exch (v : Nat) : (s.sendMsix v).exch = s.exch := rfl
@[simp] theorem State.sendMsix_votes (v : Nat) : (s.sendMsix v).votes = s.votes := rfl
@[simp] theorem State.sendMsix_barriers (v : Nat) : (s.sendMsix v).barriers = s.barriers := rfl
@[simp] theorem State.sendMsix_reshard (v : Nat) : (s.sendMsix v).reshard = s.reshard := rfl
@[simp] theorem State.sendMsix_colls (v : Nat) : (s.sendMsix v).colls = s.colls := rfl
@[simp] theorem State.sendMsix_layers (v : Nat) : (s.sendMsix v).layers = s.layers := rfl
@[simp] theorem State.sendMsix_snap (v : Nat) : (s.sendMsix v).snap = s.snap := rfl
@[simp] theorem State.sendMsix_flash (v : Nat) : (s.sendMsix v).flash = s.flash := rfl
@[simp] theorem State.sendMsix_jobCmds (v : Nat) : (s.sendMsix v).jobCmds = s.jobCmds := rfl
@[simp] theorem State.sendMsix_copies (v : Nat) : (s.sendMsix v).copies = s.copies := rfl
@[simp] theorem State.sendMsix_trained (v : Nat) : (s.sendMsix v).trained = s.trained := rfl
@[simp] theorem State.sendMsix_d3 (v : Nat) : (s.sendMsix v).d3 = s.d3 := rfl
@[simp] theorem State.sendMsix_mgmt (v : Nat) : (s.sendMsix v).mgmt = s.mgmt := rfl
@[simp] theorem State.sendMsix_meter (v : Nat) : (s.sendMsix v).meter = s.meter := rfl
@[simp] theorem State.sendMsix_power (v : Nat) : (s.sendMsix v).power = s.power := rfl
@[simp] theorem State.sendMsix_msix (v : Nat) : (s.sendMsix v).msix = s.msix := rfl
@[simp] theorem State.sendMsix_heldCmds (v : Nat) : (s.sendMsix v).heldCmds = s.heldCmds := rfl
@[simp] theorem State.sendMsix_late (v : Nat) : (s.sendMsix v).late = s.late := rfl

/-! ### bankClear -/

@[simp] theorem State.bankClear_pending (p b : Nat) : (s.bankClear p b).pending = s.pending := rfl
@[simp] theorem State.bankClear_small (p b : Nat) : (s.bankClear p b).small = s.small := rfl
@[simp] theorem State.bankClear_freeCtr (p b : Nat) : (s.bankClear p b).freeCtr = s.freeCtr := rfl
@[simp] theorem State.bankClear_regs (p b : Nat) : (s.bankClear p b).regs = s.regs := rfl
@[simp] theorem State.bankClear_rises (p b : Nat) : (s.bankClear p b).rises = s.rises := rfl
@[simp] theorem State.bankClear_shadow (p b : Nat) : (s.bankClear p b).shadow = s.shadow := rfl
@[simp] theorem State.bankClear_shadowFirst (p b : Nat) : (s.bankClear p b).shadowFirst = s.shadowFirst := rfl
@[simp] theorem State.bankClear_tiles (p b : Nat) : (s.bankClear p b).tiles = s.tiles := rfl
@[simp] theorem State.bankClear_job (p b : Nat) : (s.bankClear p b).job = s.job := rfl
@[simp] theorem State.bankClear_retests (p b : Nat) : (s.bankClear p b).retests = s.retests := rfl
@[simp] theorem State.bankClear_training (p b : Nat) : (s.bankClear p b).training = s.training := rfl
@[simp] theorem State.bankClear_normAcc (p b : Nat) : (s.bankClear p b).normAcc = s.normAcc := rfl
@[simp] theorem State.bankClear_domSums (p b : Nat) : (s.bankClear p b).domSums = s.domSums := rfl
@[simp] theorem State.bankClear_frames (p b : Nat) : (s.bankClear p b).frames = s.frames := rfl
@[simp] theorem State.bankClear_recorder (p b : Nat) : (s.bankClear p b).recorder = s.recorder := rfl
@[simp] theorem State.bankClear_hbm (p b : Nat) : (s.bankClear p b).hbm = s.hbm := rfl
@[simp] theorem State.bankClear_hostMem (p b : Nat) : (s.bankClear p b).hostMem = s.hostMem := rfl
@[simp] theorem State.bankClear_regions (p b : Nat) : (s.bankClear p b).regions = s.regions := rfl
@[simp] theorem State.bankClear_remaps (p b : Nat) : (s.bankClear p b).remaps = s.remaps := rfl
@[simp] theorem State.bankClear_staging (p b : Nat) : (s.bankClear p b).staging = s.staging := rfl
@[simp] theorem State.bankClear_stagedNew (p b : Nat) : (s.bankClear p b).stagedNew = s.stagedNew := rfl
@[simp] theorem State.bankClear_ownerCache (p b : Nat) : (s.bankClear p b).ownerCache = s.ownerCache := rfl
@[simp] theorem State.bankClear_repair0 (p b : Nat) : (s.bankClear p b).repair0 = s.repair0 := rfl
@[simp] theorem State.bankClear_repair1 (p b : Nat) : (s.bankClear p b).repair1 = s.repair1 := rfl
@[simp] theorem State.bankClear_repairsDue (p b : Nat) : (s.bankClear p b).repairsDue = s.repairsDue := rfl
@[simp] theorem State.bankClear_petals (p b : Nat) : (s.bankClear p b).petals = s.petals := rfl
@[simp] theorem State.bankClear_taken (p b : Nat) : (s.bankClear p b).taken = s.taken := rfl
@[simp] theorem State.bankClear_completions (p b : Nat) : (s.bankClear p b).completions = s.completions := rfl
@[simp] theorem State.bankClear_wires (p b : Nat) : (s.bankClear p b).wires = s.wires := rfl
@[simp] theorem State.bankClear_lists (p b : Nat) : (s.bankClear p b).lists = s.lists := rfl
@[simp] theorem State.bankClear_grants (p b : Nat) : (s.bankClear p b).grants = s.grants := rfl
@[simp] theorem State.bankClear_slotsUsed (p b : Nat) : (s.bankClear p b).slotsUsed = s.slotsUsed := rfl
@[simp] theorem State.bankClear_served (p b : Nat) : (s.bankClear p b).served = s.served := rfl
@[simp] theorem State.bankClear_firstAt (p b : Nat) : (s.bankClear p b).firstAt = s.firstAt := rfl
@[simp] theorem State.bankClear_ports (p b : Nat) : (s.bankClear p b).ports = s.ports := rfl
@[simp] theorem State.bankClear_arrived (p b : Nat) : (s.bankClear p b).arrived = s.arrived := rfl
@[simp] theorem State.bankClear_routes (p b : Nat) : (s.bankClear p b).routes = s.routes := rfl
@[simp] theorem State.bankClear_conns (p b : Nat) : (s.bankClear p b).conns = s.conns := rfl
@[simp] theorem State.bankClear_exch (p b : Nat) : (s.bankClear p b).exch = s.exch := rfl
@[simp] theorem State.bankClear_votes (p b : Nat) : (s.bankClear p b).votes = s.votes := rfl
@[simp] theorem State.bankClear_barriers (p b : Nat) : (s.bankClear p b).barriers = s.barriers := rfl
@[simp] theorem State.bankClear_reshard (p b : Nat) : (s.bankClear p b).reshard = s.reshard := rfl
@[simp] theorem State.bankClear_colls (p b : Nat) : (s.bankClear p b).colls = s.colls := rfl
@[simp] theorem State.bankClear_layers (p b : Nat) : (s.bankClear p b).layers = s.layers := rfl
@[simp] theorem State.bankClear_snap (p b : Nat) : (s.bankClear p b).snap = s.snap := rfl
@[simp] theorem State.bankClear_flash (p b : Nat) : (s.bankClear p b).flash = s.flash := rfl
@[simp] theorem State.bankClear_jobCmds (p b : Nat) : (s.bankClear p b).jobCmds = s.jobCmds := rfl
@[simp] theorem State.bankClear_copies (p b : Nat) : (s.bankClear p b).copies = s.copies := rfl
@[simp] theorem State.bankClear_trained (p b : Nat) : (s.bankClear p b).trained = s.trained := rfl
@[simp] theorem State.bankClear_d3 (p b : Nat) : (s.bankClear p b).d3 = s.d3 := rfl
@[simp] theorem State.bankClear_mgmt (p b : Nat) : (s.bankClear p b).mgmt = s.mgmt := rfl
@[simp] theorem State.bankClear_meter (p b : Nat) : (s.bankClear p b).meter = s.meter := rfl
@[simp] theorem State.bankClear_power (p b : Nat) : (s.bankClear p b).power = s.power := rfl
@[simp] theorem State.bankClear_msix (p b : Nat) : (s.bankClear p b).msix = s.msix := rfl
@[simp] theorem State.bankClear_heldCmds (p b : Nat) : (s.bankClear p b).heldCmds = s.heldCmds := rfl
@[simp] theorem State.bankClear_late (p b : Nat) : (s.bankClear p b).late = s.late := rfl
@[simp] theorem State.bankClear_sent (p b : Nat) : (s.bankClear p b).sent = s.sent := rfl

/-! ### count -/

@[simp] theorem State.count_pending (k n : Nat) : (s.count k n).pending = s.pending := by unfold State.count; split <;> rfl
@[simp] theorem State.count_small (k n : Nat) : (s.count k n).small = s.small := by unfold State.count; split <;> rfl
@[simp] theorem State.count_freeCtr (k n : Nat) : (s.count k n).freeCtr = s.freeCtr := by unfold State.count; split <;> rfl
@[simp] theorem State.count_shadow (k n : Nat) : (s.count k n).shadow = s.shadow := by unfold State.count; split <;> rfl
@[simp] theorem State.count_shadowFirst (k n : Nat) : (s.count k n).shadowFirst = s.shadowFirst := by unfold State.count; split <;> rfl
@[simp] theorem State.count_sram (k n : Nat) : (s.count k n).sram = s.sram := by unfold State.count; split <;> rfl
@[simp] theorem State.count_lineValid (k n : Nat) : (s.count k n).lineValid = s.lineValid := by unfold State.count; split <;> rfl
@[simp] theorem State.count_tiles (k n : Nat) : (s.count k n).tiles = s.tiles := by unfold State.count; split <;> rfl
@[simp] theorem State.count_job (k n : Nat) : (s.count k n).job = s.job := by unfold State.count; split <;> rfl
@[simp] theorem State.count_retests (k n : Nat) : (s.count k n).retests = s.retests := by unfold State.count; split <;> rfl
@[simp] theorem State.count_training (k n : Nat) : (s.count k n).training = s.training := by unfold State.count; split <;> rfl
@[simp] theorem State.count_normAcc (k n : Nat) : (s.count k n).normAcc = s.normAcc := by unfold State.count; split <;> rfl
@[simp] theorem State.count_domSums (k n : Nat) : (s.count k n).domSums = s.domSums := by unfold State.count; split <;> rfl
@[simp] theorem State.count_frames (k n : Nat) : (s.count k n).frames = s.frames := by unfold State.count; split <;> rfl
@[simp] theorem State.count_recorder (k n : Nat) : (s.count k n).recorder = s.recorder := by unfold State.count; split <;> rfl
@[simp] theorem State.count_hbm (k n : Nat) : (s.count k n).hbm = s.hbm := by unfold State.count; split <;> rfl
@[simp] theorem State.count_hostMem (k n : Nat) : (s.count k n).hostMem = s.hostMem := by unfold State.count; split <;> rfl
@[simp] theorem State.count_regions (k n : Nat) : (s.count k n).regions = s.regions := by unfold State.count; split <;> rfl
@[simp] theorem State.count_remaps (k n : Nat) : (s.count k n).remaps = s.remaps := by unfold State.count; split <;> rfl
@[simp] theorem State.count_staging (k n : Nat) : (s.count k n).staging = s.staging := by unfold State.count; split <;> rfl
@[simp] theorem State.count_stagedNew (k n : Nat) : (s.count k n).stagedNew = s.stagedNew := by unfold State.count; split <;> rfl
@[simp] theorem State.count_ownerCache (k n : Nat) : (s.count k n).ownerCache = s.ownerCache := by unfold State.count; split <;> rfl
@[simp] theorem State.count_repair0 (k n : Nat) : (s.count k n).repair0 = s.repair0 := by unfold State.count; split <;> rfl
@[simp] theorem State.count_repair1 (k n : Nat) : (s.count k n).repair1 = s.repair1 := by unfold State.count; split <;> rfl
@[simp] theorem State.count_repairsDue (k n : Nat) : (s.count k n).repairsDue = s.repairsDue := by unfold State.count; split <;> rfl
@[simp] theorem State.count_petals (k n : Nat) : (s.count k n).petals = s.petals := by unfold State.count; split <;> rfl
@[simp] theorem State.count_taken (k n : Nat) : (s.count k n).taken = s.taken := by unfold State.count; split <;> rfl
@[simp] theorem State.count_completions (k n : Nat) : (s.count k n).completions = s.completions := by unfold State.count; split <;> rfl
@[simp] theorem State.count_wires (k n : Nat) : (s.count k n).wires = s.wires := by unfold State.count; split <;> rfl
@[simp] theorem State.count_lists (k n : Nat) : (s.count k n).lists = s.lists := by unfold State.count; split <;> rfl
@[simp] theorem State.count_grants (k n : Nat) : (s.count k n).grants = s.grants := by unfold State.count; split <;> rfl
@[simp] theorem State.count_slotsUsed (k n : Nat) : (s.count k n).slotsUsed = s.slotsUsed := by unfold State.count; split <;> rfl
@[simp] theorem State.count_served (k n : Nat) : (s.count k n).served = s.served := by unfold State.count; split <;> rfl
@[simp] theorem State.count_firstAt (k n : Nat) : (s.count k n).firstAt = s.firstAt := by unfold State.count; split <;> rfl
@[simp] theorem State.count_ports (k n : Nat) : (s.count k n).ports = s.ports := by unfold State.count; split <;> rfl
@[simp] theorem State.count_arrived (k n : Nat) : (s.count k n).arrived = s.arrived := by unfold State.count; split <;> rfl
@[simp] theorem State.count_routes (k n : Nat) : (s.count k n).routes = s.routes := by unfold State.count; split <;> rfl
@[simp] theorem State.count_conns (k n : Nat) : (s.count k n).conns = s.conns := by unfold State.count; split <;> rfl
@[simp] theorem State.count_exch (k n : Nat) : (s.count k n).exch = s.exch := by unfold State.count; split <;> rfl
@[simp] theorem State.count_votes (k n : Nat) : (s.count k n).votes = s.votes := by unfold State.count; split <;> rfl
@[simp] theorem State.count_barriers (k n : Nat) : (s.count k n).barriers = s.barriers := by unfold State.count; split <;> rfl
@[simp] theorem State.count_reshard (k n : Nat) : (s.count k n).reshard = s.reshard := by unfold State.count; split <;> rfl
@[simp] theorem State.count_colls (k n : Nat) : (s.count k n).colls = s.colls := by unfold State.count; split <;> rfl
@[simp] theorem State.count_layers (k n : Nat) : (s.count k n).layers = s.layers := by unfold State.count; split <;> rfl
@[simp] theorem State.count_snap (k n : Nat) : (s.count k n).snap = s.snap := by unfold State.count; split <;> rfl
@[simp] theorem State.count_flash (k n : Nat) : (s.count k n).flash = s.flash := by unfold State.count; split <;> rfl
@[simp] theorem State.count_jobCmds (k n : Nat) : (s.count k n).jobCmds = s.jobCmds := by unfold State.count; split <;> rfl
@[simp] theorem State.count_copies (k n : Nat) : (s.count k n).copies = s.copies := by unfold State.count; split <;> rfl
@[simp] theorem State.count_trained (k n : Nat) : (s.count k n).trained = s.trained := by unfold State.count; split <;> rfl
@[simp] theorem State.count_d3 (k n : Nat) : (s.count k n).d3 = s.d3 := by unfold State.count; split <;> rfl
@[simp] theorem State.count_mgmt (k n : Nat) : (s.count k n).mgmt = s.mgmt := by unfold State.count; split <;> rfl
@[simp] theorem State.count_meter (k n : Nat) : (s.count k n).meter = s.meter := by unfold State.count; split <;> rfl
@[simp] theorem State.count_power (k n : Nat) : (s.count k n).power = s.power := by unfold State.count; split <;> rfl
@[simp] theorem State.count_msix (k n : Nat) : (s.count k n).msix = s.msix := by unfold State.count; split <;> rfl
@[simp] theorem State.count_heldCmds (k n : Nat) : (s.count k n).heldCmds = s.heldCmds := by unfold State.count; split <;> rfl
@[simp] theorem State.count_late (k n : Nat) : (s.count k n).late = s.late := by unfold State.count; split <;> rfl
@[simp] theorem State.count_sent (k n : Nat) : (s.count k n).sent = s.sent := by unfold State.count; split <;> rfl

/-! ### first -/

@[simp] theorem State.first_pending (k b v : Nat) : (s.first k b v).pending = s.pending := by unfold State.first; split <;> rfl
@[simp] theorem State.first_small (k b v : Nat) : (s.first k b v).small = s.small := by unfold State.first; split <;> rfl
@[simp] theorem State.first_freeCtr (k b v : Nat) : (s.first k b v).freeCtr = s.freeCtr := by unfold State.first; split <;> rfl
@[simp] theorem State.first_rises (k b v : Nat) : (s.first k b v).rises = s.rises := by unfold State.first; split <;> rfl
@[simp] theorem State.first_shadow (k b v : Nat) : (s.first k b v).shadow = s.shadow := by unfold State.first; split <;> rfl
@[simp] theorem State.first_shadowFirst (k b v : Nat) : (s.first k b v).shadowFirst = s.shadowFirst := by unfold State.first; split <;> rfl
@[simp] theorem State.first_sram (k b v : Nat) : (s.first k b v).sram = s.sram := by unfold State.first; split <;> rfl
@[simp] theorem State.first_lineValid (k b v : Nat) : (s.first k b v).lineValid = s.lineValid := by unfold State.first; split <;> rfl
@[simp] theorem State.first_tiles (k b v : Nat) : (s.first k b v).tiles = s.tiles := by unfold State.first; split <;> rfl
@[simp] theorem State.first_job (k b v : Nat) : (s.first k b v).job = s.job := by unfold State.first; split <;> rfl
@[simp] theorem State.first_retests (k b v : Nat) : (s.first k b v).retests = s.retests := by unfold State.first; split <;> rfl
@[simp] theorem State.first_training (k b v : Nat) : (s.first k b v).training = s.training := by unfold State.first; split <;> rfl
@[simp] theorem State.first_normAcc (k b v : Nat) : (s.first k b v).normAcc = s.normAcc := by unfold State.first; split <;> rfl
@[simp] theorem State.first_domSums (k b v : Nat) : (s.first k b v).domSums = s.domSums := by unfold State.first; split <;> rfl
@[simp] theorem State.first_frames (k b v : Nat) : (s.first k b v).frames = s.frames := by unfold State.first; split <;> rfl
@[simp] theorem State.first_recorder (k b v : Nat) : (s.first k b v).recorder = s.recorder := by unfold State.first; split <;> rfl
@[simp] theorem State.first_hbm (k b v : Nat) : (s.first k b v).hbm = s.hbm := by unfold State.first; split <;> rfl
@[simp] theorem State.first_hostMem (k b v : Nat) : (s.first k b v).hostMem = s.hostMem := by unfold State.first; split <;> rfl
@[simp] theorem State.first_regions (k b v : Nat) : (s.first k b v).regions = s.regions := by unfold State.first; split <;> rfl
@[simp] theorem State.first_remaps (k b v : Nat) : (s.first k b v).remaps = s.remaps := by unfold State.first; split <;> rfl
@[simp] theorem State.first_staging (k b v : Nat) : (s.first k b v).staging = s.staging := by unfold State.first; split <;> rfl
@[simp] theorem State.first_stagedNew (k b v : Nat) : (s.first k b v).stagedNew = s.stagedNew := by unfold State.first; split <;> rfl
@[simp] theorem State.first_ownerCache (k b v : Nat) : (s.first k b v).ownerCache = s.ownerCache := by unfold State.first; split <;> rfl
@[simp] theorem State.first_repair0 (k b v : Nat) : (s.first k b v).repair0 = s.repair0 := by unfold State.first; split <;> rfl
@[simp] theorem State.first_repair1 (k b v : Nat) : (s.first k b v).repair1 = s.repair1 := by unfold State.first; split <;> rfl
@[simp] theorem State.first_repairsDue (k b v : Nat) : (s.first k b v).repairsDue = s.repairsDue := by unfold State.first; split <;> rfl
@[simp] theorem State.first_petals (k b v : Nat) : (s.first k b v).petals = s.petals := by unfold State.first; split <;> rfl
@[simp] theorem State.first_taken (k b v : Nat) : (s.first k b v).taken = s.taken := by unfold State.first; split <;> rfl
@[simp] theorem State.first_completions (k b v : Nat) : (s.first k b v).completions = s.completions := by unfold State.first; split <;> rfl
@[simp] theorem State.first_wires (k b v : Nat) : (s.first k b v).wires = s.wires := by unfold State.first; split <;> rfl
@[simp] theorem State.first_lists (k b v : Nat) : (s.first k b v).lists = s.lists := by unfold State.first; split <;> rfl
@[simp] theorem State.first_grants (k b v : Nat) : (s.first k b v).grants = s.grants := by unfold State.first; split <;> rfl
@[simp] theorem State.first_slotsUsed (k b v : Nat) : (s.first k b v).slotsUsed = s.slotsUsed := by unfold State.first; split <;> rfl
@[simp] theorem State.first_served (k b v : Nat) : (s.first k b v).served = s.served := by unfold State.first; split <;> rfl
@[simp] theorem State.first_firstAt (k b v : Nat) : (s.first k b v).firstAt = s.firstAt := by unfold State.first; split <;> rfl
@[simp] theorem State.first_ports (k b v : Nat) : (s.first k b v).ports = s.ports := by unfold State.first; split <;> rfl
@[simp] theorem State.first_arrived (k b v : Nat) : (s.first k b v).arrived = s.arrived := by unfold State.first; split <;> rfl
@[simp] theorem State.first_routes (k b v : Nat) : (s.first k b v).routes = s.routes := by unfold State.first; split <;> rfl
@[simp] theorem State.first_conns (k b v : Nat) : (s.first k b v).conns = s.conns := by unfold State.first; split <;> rfl
@[simp] theorem State.first_exch (k b v : Nat) : (s.first k b v).exch = s.exch := by unfold State.first; split <;> rfl
@[simp] theorem State.first_votes (k b v : Nat) : (s.first k b v).votes = s.votes := by unfold State.first; split <;> rfl
@[simp] theorem State.first_barriers (k b v : Nat) : (s.first k b v).barriers = s.barriers := by unfold State.first; split <;> rfl
@[simp] theorem State.first_reshard (k b v : Nat) : (s.first k b v).reshard = s.reshard := by unfold State.first; split <;> rfl
@[simp] theorem State.first_colls (k b v : Nat) : (s.first k b v).colls = s.colls := by unfold State.first; split <;> rfl
@[simp] theorem State.first_layers (k b v : Nat) : (s.first k b v).layers = s.layers := by unfold State.first; split <;> rfl
@[simp] theorem State.first_snap (k b v : Nat) : (s.first k b v).snap = s.snap := by unfold State.first; split <;> rfl
@[simp] theorem State.first_flash (k b v : Nat) : (s.first k b v).flash = s.flash := by unfold State.first; split <;> rfl
@[simp] theorem State.first_jobCmds (k b v : Nat) : (s.first k b v).jobCmds = s.jobCmds := by unfold State.first; split <;> rfl
@[simp] theorem State.first_copies (k b v : Nat) : (s.first k b v).copies = s.copies := by unfold State.first; split <;> rfl
@[simp] theorem State.first_trained (k b v : Nat) : (s.first k b v).trained = s.trained := by unfold State.first; split <;> rfl
@[simp] theorem State.first_d3 (k b v : Nat) : (s.first k b v).d3 = s.d3 := by unfold State.first; split <;> rfl
@[simp] theorem State.first_mgmt (k b v : Nat) : (s.first k b v).mgmt = s.mgmt := by unfold State.first; split <;> rfl
@[simp] theorem State.first_meter (k b v : Nat) : (s.first k b v).meter = s.meter := by unfold State.first; split <;> rfl
@[simp] theorem State.first_power (k b v : Nat) : (s.first k b v).power = s.power := by unfold State.first; split <;> rfl
@[simp] theorem State.first_msix (k b v : Nat) : (s.first k b v).msix = s.msix := by unfold State.first; split <;> rfl
@[simp] theorem State.first_heldCmds (k b v : Nat) : (s.first k b v).heldCmds = s.heldCmds := by unfold State.first; split <;> rfl
@[simp] theorem State.first_late (k b v : Nat) : (s.first k b v).late = s.late := by unfold State.first; split <;> rfl
@[simp] theorem State.first_sent (k b v : Nat) : (s.first k b v).sent = s.sent := by unfold State.first; split <;> rfl

/-! ### cause -/

@[simp] theorem State.cause_pending (i : Nat) : (s.cause i).pending = s.pending := by unfold State.cause; split; rfl; dsimp only; split <;> rfl
@[simp] theorem State.cause_small (i : Nat) : (s.cause i).small = s.small := by unfold State.cause; split; rfl; dsimp only; split <;> rfl
@[simp] theorem State.cause_freeCtr (i : Nat) : (s.cause i).freeCtr = s.freeCtr := by unfold State.cause; split; rfl; dsimp only; split <;> rfl
@[simp] theorem State.cause_rises (i : Nat) : (s.cause i).rises = s.rises := by unfold State.cause; split; rfl; dsimp only; split <;> rfl
@[simp] theorem State.cause_shadow (i : Nat) : (s.cause i).shadow = s.shadow := by unfold State.cause; split; rfl; dsimp only; split <;> rfl
@[simp] theorem State.cause_shadowFirst (i : Nat) : (s.cause i).shadowFirst = s.shadowFirst := by unfold State.cause; split; rfl; dsimp only; split <;> rfl
@[simp] theorem State.cause_sram (i : Nat) : (s.cause i).sram = s.sram := by unfold State.cause; split; rfl; dsimp only; split <;> rfl
@[simp] theorem State.cause_lineValid (i : Nat) : (s.cause i).lineValid = s.lineValid := by unfold State.cause; split; rfl; dsimp only; split <;> rfl
@[simp] theorem State.cause_tiles (i : Nat) : (s.cause i).tiles = s.tiles := by unfold State.cause; split; rfl; dsimp only; split <;> rfl
@[simp] theorem State.cause_job (i : Nat) : (s.cause i).job = s.job := by unfold State.cause; split; rfl; dsimp only; split <;> rfl
@[simp] theorem State.cause_retests (i : Nat) : (s.cause i).retests = s.retests := by unfold State.cause; split; rfl; dsimp only; split <;> rfl
@[simp] theorem State.cause_training (i : Nat) : (s.cause i).training = s.training := by unfold State.cause; split; rfl; dsimp only; split <;> rfl
@[simp] theorem State.cause_normAcc (i : Nat) : (s.cause i).normAcc = s.normAcc := by unfold State.cause; split; rfl; dsimp only; split <;> rfl
@[simp] theorem State.cause_domSums (i : Nat) : (s.cause i).domSums = s.domSums := by unfold State.cause; split; rfl; dsimp only; split <;> rfl
@[simp] theorem State.cause_frames (i : Nat) : (s.cause i).frames = s.frames := by unfold State.cause; split; rfl; dsimp only; split <;> rfl
@[simp] theorem State.cause_recorder (i : Nat) : (s.cause i).recorder = s.recorder := by unfold State.cause; split; rfl; dsimp only; split <;> rfl
@[simp] theorem State.cause_hbm (i : Nat) : (s.cause i).hbm = s.hbm := by unfold State.cause; split; rfl; dsimp only; split <;> rfl
@[simp] theorem State.cause_hostMem (i : Nat) : (s.cause i).hostMem = s.hostMem := by unfold State.cause; split; rfl; dsimp only; split <;> rfl
@[simp] theorem State.cause_regions (i : Nat) : (s.cause i).regions = s.regions := by unfold State.cause; split; rfl; dsimp only; split <;> rfl
@[simp] theorem State.cause_remaps (i : Nat) : (s.cause i).remaps = s.remaps := by unfold State.cause; split; rfl; dsimp only; split <;> rfl
@[simp] theorem State.cause_staging (i : Nat) : (s.cause i).staging = s.staging := by unfold State.cause; split; rfl; dsimp only; split <;> rfl
@[simp] theorem State.cause_stagedNew (i : Nat) : (s.cause i).stagedNew = s.stagedNew := by unfold State.cause; split; rfl; dsimp only; split <;> rfl
@[simp] theorem State.cause_ownerCache (i : Nat) : (s.cause i).ownerCache = s.ownerCache := by unfold State.cause; split; rfl; dsimp only; split <;> rfl
@[simp] theorem State.cause_repair0 (i : Nat) : (s.cause i).repair0 = s.repair0 := by unfold State.cause; split; rfl; dsimp only; split <;> rfl
@[simp] theorem State.cause_repair1 (i : Nat) : (s.cause i).repair1 = s.repair1 := by unfold State.cause; split; rfl; dsimp only; split <;> rfl
@[simp] theorem State.cause_repairsDue (i : Nat) : (s.cause i).repairsDue = s.repairsDue := by unfold State.cause; split; rfl; dsimp only; split <;> rfl
@[simp] theorem State.cause_petals (i : Nat) : (s.cause i).petals = s.petals := by unfold State.cause; split; rfl; dsimp only; split <;> rfl
@[simp] theorem State.cause_taken (i : Nat) : (s.cause i).taken = s.taken := by unfold State.cause; split; rfl; dsimp only; split <;> rfl
@[simp] theorem State.cause_completions (i : Nat) : (s.cause i).completions = s.completions := by unfold State.cause; split; rfl; dsimp only; split <;> rfl
@[simp] theorem State.cause_wires (i : Nat) : (s.cause i).wires = s.wires := by unfold State.cause; split; rfl; dsimp only; split <;> rfl
@[simp] theorem State.cause_lists (i : Nat) : (s.cause i).lists = s.lists := by unfold State.cause; split; rfl; dsimp only; split <;> rfl
@[simp] theorem State.cause_grants (i : Nat) : (s.cause i).grants = s.grants := by unfold State.cause; split; rfl; dsimp only; split <;> rfl
@[simp] theorem State.cause_slotsUsed (i : Nat) : (s.cause i).slotsUsed = s.slotsUsed := by unfold State.cause; split; rfl; dsimp only; split <;> rfl
@[simp] theorem State.cause_served (i : Nat) : (s.cause i).served = s.served := by unfold State.cause; split; rfl; dsimp only; split <;> rfl
@[simp] theorem State.cause_firstAt (i : Nat) : (s.cause i).firstAt = s.firstAt := by unfold State.cause; split; rfl; dsimp only; split <;> rfl
@[simp] theorem State.cause_ports (i : Nat) : (s.cause i).ports = s.ports := by unfold State.cause; split; rfl; dsimp only; split <;> rfl
@[simp] theorem State.cause_arrived (i : Nat) : (s.cause i).arrived = s.arrived := by unfold State.cause; split; rfl; dsimp only; split <;> rfl
@[simp] theorem State.cause_routes (i : Nat) : (s.cause i).routes = s.routes := by unfold State.cause; split; rfl; dsimp only; split <;> rfl
@[simp] theorem State.cause_conns (i : Nat) : (s.cause i).conns = s.conns := by unfold State.cause; split; rfl; dsimp only; split <;> rfl
@[simp] theorem State.cause_exch (i : Nat) : (s.cause i).exch = s.exch := by unfold State.cause; split; rfl; dsimp only; split <;> rfl
@[simp] theorem State.cause_votes (i : Nat) : (s.cause i).votes = s.votes := by unfold State.cause; split; rfl; dsimp only; split <;> rfl
@[simp] theorem State.cause_barriers (i : Nat) : (s.cause i).barriers = s.barriers := by unfold State.cause; split; rfl; dsimp only; split <;> rfl
@[simp] theorem State.cause_reshard (i : Nat) : (s.cause i).reshard = s.reshard := by unfold State.cause; split; rfl; dsimp only; split <;> rfl
@[simp] theorem State.cause_colls (i : Nat) : (s.cause i).colls = s.colls := by unfold State.cause; split; rfl; dsimp only; split <;> rfl
@[simp] theorem State.cause_layers (i : Nat) : (s.cause i).layers = s.layers := by unfold State.cause; split; rfl; dsimp only; split <;> rfl
@[simp] theorem State.cause_snap (i : Nat) : (s.cause i).snap = s.snap := by unfold State.cause; split; rfl; dsimp only; split <;> rfl
@[simp] theorem State.cause_flash (i : Nat) : (s.cause i).flash = s.flash := by unfold State.cause; split; rfl; dsimp only; split <;> rfl
@[simp] theorem State.cause_jobCmds (i : Nat) : (s.cause i).jobCmds = s.jobCmds := by unfold State.cause; split; rfl; dsimp only; split <;> rfl
@[simp] theorem State.cause_copies (i : Nat) : (s.cause i).copies = s.copies := by unfold State.cause; split; rfl; dsimp only; split <;> rfl
@[simp] theorem State.cause_trained (i : Nat) : (s.cause i).trained = s.trained := by unfold State.cause; split; rfl; dsimp only; split <;> rfl
@[simp] theorem State.cause_d3 (i : Nat) : (s.cause i).d3 = s.d3 := by unfold State.cause; split; rfl; dsimp only; split <;> rfl
@[simp] theorem State.cause_mgmt (i : Nat) : (s.cause i).mgmt = s.mgmt := by unfold State.cause; split; rfl; dsimp only; split <;> rfl
@[simp] theorem State.cause_meter (i : Nat) : (s.cause i).meter = s.meter := by unfold State.cause; split; rfl; dsimp only; split <;> rfl
@[simp] theorem State.cause_power (i : Nat) : (s.cause i).power = s.power := by unfold State.cause; split; rfl; dsimp only; split <;> rfl
@[simp] theorem State.cause_msix (i : Nat) : (s.cause i).msix = s.msix := by unfold State.cause; split; rfl; dsimp only; split <;> rfl
@[simp] theorem State.cause_heldCmds (i : Nat) : (s.cause i).heldCmds = s.heldCmds := by unfold State.cause; split; rfl; dsimp only; split <;> rfl
@[simp] theorem State.cause_late (i : Nat) : (s.cause i).late = s.late := by unfold State.cause; split; rfl; dsimp only; split <;> rfl

/-! ### markLines -/

@[simp] theorem State.markLines_pending (p a n : Nat) : (s.markLines p a n).pending = s.pending := by unfold State.markLines; split <;> rfl
@[simp] theorem State.markLines_small (p a n : Nat) : (s.markLines p a n).small = s.small := by unfold State.markLines; split <;> rfl
@[simp] theorem State.markLines_freeCtr (p a n : Nat) : (s.markLines p a n).freeCtr = s.freeCtr := by unfold State.markLines; split <;> rfl
@[simp] theorem State.markLines_regs (p a n : Nat) : (s.markLines p a n).regs = s.regs := by unfold State.markLines; split <;> rfl
@[simp] theorem State.markLines_rises (p a n : Nat) : (s.markLines p a n).rises = s.rises := by unfold State.markLines; split <;> rfl
@[simp] theorem State.markLines_shadow (p a n : Nat) : (s.markLines p a n).shadow = s.shadow := by unfold State.markLines; split <;> rfl
@[simp] theorem State.markLines_shadowFirst (p a n : Nat) : (s.markLines p a n).shadowFirst = s.shadowFirst := by unfold State.markLines; split <;> rfl
@[simp] theorem State.markLines_sram (p a n : Nat) : (s.markLines p a n).sram = s.sram := by unfold State.markLines; split <;> rfl
@[simp] theorem State.markLines_tiles (p a n : Nat) : (s.markLines p a n).tiles = s.tiles := by unfold State.markLines; split <;> rfl
@[simp] theorem State.markLines_job (p a n : Nat) : (s.markLines p a n).job = s.job := by unfold State.markLines; split <;> rfl
@[simp] theorem State.markLines_retests (p a n : Nat) : (s.markLines p a n).retests = s.retests := by unfold State.markLines; split <;> rfl
@[simp] theorem State.markLines_training (p a n : Nat) : (s.markLines p a n).training = s.training := by unfold State.markLines; split <;> rfl
@[simp] theorem State.markLines_normAcc (p a n : Nat) : (s.markLines p a n).normAcc = s.normAcc := by unfold State.markLines; split <;> rfl
@[simp] theorem State.markLines_domSums (p a n : Nat) : (s.markLines p a n).domSums = s.domSums := by unfold State.markLines; split <;> rfl
@[simp] theorem State.markLines_frames (p a n : Nat) : (s.markLines p a n).frames = s.frames := by unfold State.markLines; split <;> rfl
@[simp] theorem State.markLines_recorder (p a n : Nat) : (s.markLines p a n).recorder = s.recorder := by unfold State.markLines; split <;> rfl
@[simp] theorem State.markLines_hbm (p a n : Nat) : (s.markLines p a n).hbm = s.hbm := by unfold State.markLines; split <;> rfl
@[simp] theorem State.markLines_hostMem (p a n : Nat) : (s.markLines p a n).hostMem = s.hostMem := by unfold State.markLines; split <;> rfl
@[simp] theorem State.markLines_regions (p a n : Nat) : (s.markLines p a n).regions = s.regions := by unfold State.markLines; split <;> rfl
@[simp] theorem State.markLines_remaps (p a n : Nat) : (s.markLines p a n).remaps = s.remaps := by unfold State.markLines; split <;> rfl
@[simp] theorem State.markLines_staging (p a n : Nat) : (s.markLines p a n).staging = s.staging := by unfold State.markLines; split <;> rfl
@[simp] theorem State.markLines_stagedNew (p a n : Nat) : (s.markLines p a n).stagedNew = s.stagedNew := by unfold State.markLines; split <;> rfl
@[simp] theorem State.markLines_ownerCache (p a n : Nat) : (s.markLines p a n).ownerCache = s.ownerCache := by unfold State.markLines; split <;> rfl
@[simp] theorem State.markLines_repair0 (p a n : Nat) : (s.markLines p a n).repair0 = s.repair0 := by unfold State.markLines; split <;> rfl
@[simp] theorem State.markLines_repair1 (p a n : Nat) : (s.markLines p a n).repair1 = s.repair1 := by unfold State.markLines; split <;> rfl
@[simp] theorem State.markLines_repairsDue (p a n : Nat) : (s.markLines p a n).repairsDue = s.repairsDue := by unfold State.markLines; split <;> rfl
@[simp] theorem State.markLines_petals (p a n : Nat) : (s.markLines p a n).petals = s.petals := by unfold State.markLines; split <;> rfl
@[simp] theorem State.markLines_taken (p a n : Nat) : (s.markLines p a n).taken = s.taken := by unfold State.markLines; split <;> rfl
@[simp] theorem State.markLines_completions (p a n : Nat) : (s.markLines p a n).completions = s.completions := by unfold State.markLines; split <;> rfl
@[simp] theorem State.markLines_wires (p a n : Nat) : (s.markLines p a n).wires = s.wires := by unfold State.markLines; split <;> rfl
@[simp] theorem State.markLines_lists (p a n : Nat) : (s.markLines p a n).lists = s.lists := by unfold State.markLines; split <;> rfl
@[simp] theorem State.markLines_grants (p a n : Nat) : (s.markLines p a n).grants = s.grants := by unfold State.markLines; split <;> rfl
@[simp] theorem State.markLines_slotsUsed (p a n : Nat) : (s.markLines p a n).slotsUsed = s.slotsUsed := by unfold State.markLines; split <;> rfl
@[simp] theorem State.markLines_served (p a n : Nat) : (s.markLines p a n).served = s.served := by unfold State.markLines; split <;> rfl
@[simp] theorem State.markLines_firstAt (p a n : Nat) : (s.markLines p a n).firstAt = s.firstAt := by unfold State.markLines; split <;> rfl
@[simp] theorem State.markLines_ports (p a n : Nat) : (s.markLines p a n).ports = s.ports := by unfold State.markLines; split <;> rfl
@[simp] theorem State.markLines_arrived (p a n : Nat) : (s.markLines p a n).arrived = s.arrived := by unfold State.markLines; split <;> rfl
@[simp] theorem State.markLines_routes (p a n : Nat) : (s.markLines p a n).routes = s.routes := by unfold State.markLines; split <;> rfl
@[simp] theorem State.markLines_conns (p a n : Nat) : (s.markLines p a n).conns = s.conns := by unfold State.markLines; split <;> rfl
@[simp] theorem State.markLines_exch (p a n : Nat) : (s.markLines p a n).exch = s.exch := by unfold State.markLines; split <;> rfl
@[simp] theorem State.markLines_votes (p a n : Nat) : (s.markLines p a n).votes = s.votes := by unfold State.markLines; split <;> rfl
@[simp] theorem State.markLines_barriers (p a n : Nat) : (s.markLines p a n).barriers = s.barriers := by unfold State.markLines; split <;> rfl
@[simp] theorem State.markLines_reshard (p a n : Nat) : (s.markLines p a n).reshard = s.reshard := by unfold State.markLines; split <;> rfl
@[simp] theorem State.markLines_colls (p a n : Nat) : (s.markLines p a n).colls = s.colls := by unfold State.markLines; split <;> rfl
@[simp] theorem State.markLines_layers (p a n : Nat) : (s.markLines p a n).layers = s.layers := by unfold State.markLines; split <;> rfl
@[simp] theorem State.markLines_snap (p a n : Nat) : (s.markLines p a n).snap = s.snap := by unfold State.markLines; split <;> rfl
@[simp] theorem State.markLines_flash (p a n : Nat) : (s.markLines p a n).flash = s.flash := by unfold State.markLines; split <;> rfl
@[simp] theorem State.markLines_jobCmds (p a n : Nat) : (s.markLines p a n).jobCmds = s.jobCmds := by unfold State.markLines; split <;> rfl
@[simp] theorem State.markLines_copies (p a n : Nat) : (s.markLines p a n).copies = s.copies := by unfold State.markLines; split <;> rfl
@[simp] theorem State.markLines_trained (p a n : Nat) : (s.markLines p a n).trained = s.trained := by unfold State.markLines; split <;> rfl
@[simp] theorem State.markLines_d3 (p a n : Nat) : (s.markLines p a n).d3 = s.d3 := by unfold State.markLines; split <;> rfl
@[simp] theorem State.markLines_mgmt (p a n : Nat) : (s.markLines p a n).mgmt = s.mgmt := by unfold State.markLines; split <;> rfl
@[simp] theorem State.markLines_meter (p a n : Nat) : (s.markLines p a n).meter = s.meter := by unfold State.markLines; split <;> rfl
@[simp] theorem State.markLines_power (p a n : Nat) : (s.markLines p a n).power = s.power := by unfold State.markLines; split <;> rfl
@[simp] theorem State.markLines_msix (p a n : Nat) : (s.markLines p a n).msix = s.msix := by unfold State.markLines; split <;> rfl
@[simp] theorem State.markLines_heldCmds (p a n : Nat) : (s.markLines p a n).heldCmds = s.heldCmds := by unfold State.markLines; split <;> rfl
@[simp] theorem State.markLines_late (p a n : Nat) : (s.markLines p a n).late = s.late := by unfold State.markLines; split <;> rfl
@[simp] theorem State.markLines_sent (p a n : Nat) : (s.markLines p a n).sent = s.sent := by unfold State.markLines; split <;> rfl

/-! ### bankWrite -/

@[simp] theorem State.bankWrite_pending (p a : Nat) (bs : List Byte) : (s.bankWrite p a bs).pending = s.pending := by simp [State.bankWrite]
@[simp] theorem State.bankWrite_small (p a : Nat) (bs : List Byte) : (s.bankWrite p a bs).small = s.small := by simp [State.bankWrite]
@[simp] theorem State.bankWrite_freeCtr (p a : Nat) (bs : List Byte) : (s.bankWrite p a bs).freeCtr = s.freeCtr := by simp [State.bankWrite]
@[simp] theorem State.bankWrite_regs (p a : Nat) (bs : List Byte) : (s.bankWrite p a bs).regs = s.regs := by simp [State.bankWrite]
@[simp] theorem State.bankWrite_rises (p a : Nat) (bs : List Byte) : (s.bankWrite p a bs).rises = s.rises := by simp [State.bankWrite]
@[simp] theorem State.bankWrite_shadow (p a : Nat) (bs : List Byte) : (s.bankWrite p a bs).shadow = s.shadow := by simp [State.bankWrite]
@[simp] theorem State.bankWrite_shadowFirst (p a : Nat) (bs : List Byte) : (s.bankWrite p a bs).shadowFirst = s.shadowFirst := by simp [State.bankWrite]
@[simp] theorem State.bankWrite_tiles (p a : Nat) (bs : List Byte) : (s.bankWrite p a bs).tiles = s.tiles := by simp [State.bankWrite]
@[simp] theorem State.bankWrite_job (p a : Nat) (bs : List Byte) : (s.bankWrite p a bs).job = s.job := by simp [State.bankWrite]
@[simp] theorem State.bankWrite_retests (p a : Nat) (bs : List Byte) : (s.bankWrite p a bs).retests = s.retests := by simp [State.bankWrite]
@[simp] theorem State.bankWrite_training (p a : Nat) (bs : List Byte) : (s.bankWrite p a bs).training = s.training := by simp [State.bankWrite]
@[simp] theorem State.bankWrite_normAcc (p a : Nat) (bs : List Byte) : (s.bankWrite p a bs).normAcc = s.normAcc := by simp [State.bankWrite]
@[simp] theorem State.bankWrite_domSums (p a : Nat) (bs : List Byte) : (s.bankWrite p a bs).domSums = s.domSums := by simp [State.bankWrite]
@[simp] theorem State.bankWrite_frames (p a : Nat) (bs : List Byte) : (s.bankWrite p a bs).frames = s.frames := by simp [State.bankWrite]
@[simp] theorem State.bankWrite_recorder (p a : Nat) (bs : List Byte) : (s.bankWrite p a bs).recorder = s.recorder := by simp [State.bankWrite]
@[simp] theorem State.bankWrite_hbm (p a : Nat) (bs : List Byte) : (s.bankWrite p a bs).hbm = s.hbm := by simp [State.bankWrite]
@[simp] theorem State.bankWrite_hostMem (p a : Nat) (bs : List Byte) : (s.bankWrite p a bs).hostMem = s.hostMem := by simp [State.bankWrite]
@[simp] theorem State.bankWrite_regions (p a : Nat) (bs : List Byte) : (s.bankWrite p a bs).regions = s.regions := by simp [State.bankWrite]
@[simp] theorem State.bankWrite_remaps (p a : Nat) (bs : List Byte) : (s.bankWrite p a bs).remaps = s.remaps := by simp [State.bankWrite]
@[simp] theorem State.bankWrite_staging (p a : Nat) (bs : List Byte) : (s.bankWrite p a bs).staging = s.staging := by simp [State.bankWrite]
@[simp] theorem State.bankWrite_stagedNew (p a : Nat) (bs : List Byte) : (s.bankWrite p a bs).stagedNew = s.stagedNew := by simp [State.bankWrite]
@[simp] theorem State.bankWrite_ownerCache (p a : Nat) (bs : List Byte) : (s.bankWrite p a bs).ownerCache = s.ownerCache := by simp [State.bankWrite]
@[simp] theorem State.bankWrite_repair0 (p a : Nat) (bs : List Byte) : (s.bankWrite p a bs).repair0 = s.repair0 := by simp [State.bankWrite]
@[simp] theorem State.bankWrite_repair1 (p a : Nat) (bs : List Byte) : (s.bankWrite p a bs).repair1 = s.repair1 := by simp [State.bankWrite]
@[simp] theorem State.bankWrite_repairsDue (p a : Nat) (bs : List Byte) : (s.bankWrite p a bs).repairsDue = s.repairsDue := by simp [State.bankWrite]
@[simp] theorem State.bankWrite_petals (p a : Nat) (bs : List Byte) : (s.bankWrite p a bs).petals = s.petals := by simp [State.bankWrite]
@[simp] theorem State.bankWrite_taken (p a : Nat) (bs : List Byte) : (s.bankWrite p a bs).taken = s.taken := by simp [State.bankWrite]
@[simp] theorem State.bankWrite_completions (p a : Nat) (bs : List Byte) : (s.bankWrite p a bs).completions = s.completions := by simp [State.bankWrite]
@[simp] theorem State.bankWrite_wires (p a : Nat) (bs : List Byte) : (s.bankWrite p a bs).wires = s.wires := by simp [State.bankWrite]
@[simp] theorem State.bankWrite_lists (p a : Nat) (bs : List Byte) : (s.bankWrite p a bs).lists = s.lists := by simp [State.bankWrite]
@[simp] theorem State.bankWrite_grants (p a : Nat) (bs : List Byte) : (s.bankWrite p a bs).grants = s.grants := by simp [State.bankWrite]
@[simp] theorem State.bankWrite_slotsUsed (p a : Nat) (bs : List Byte) : (s.bankWrite p a bs).slotsUsed = s.slotsUsed := by simp [State.bankWrite]
@[simp] theorem State.bankWrite_served (p a : Nat) (bs : List Byte) : (s.bankWrite p a bs).served = s.served := by simp [State.bankWrite]
@[simp] theorem State.bankWrite_firstAt (p a : Nat) (bs : List Byte) : (s.bankWrite p a bs).firstAt = s.firstAt := by simp [State.bankWrite]
@[simp] theorem State.bankWrite_ports (p a : Nat) (bs : List Byte) : (s.bankWrite p a bs).ports = s.ports := by simp [State.bankWrite]
@[simp] theorem State.bankWrite_arrived (p a : Nat) (bs : List Byte) : (s.bankWrite p a bs).arrived = s.arrived := by simp [State.bankWrite]
@[simp] theorem State.bankWrite_routes (p a : Nat) (bs : List Byte) : (s.bankWrite p a bs).routes = s.routes := by simp [State.bankWrite]
@[simp] theorem State.bankWrite_conns (p a : Nat) (bs : List Byte) : (s.bankWrite p a bs).conns = s.conns := by simp [State.bankWrite]
@[simp] theorem State.bankWrite_exch (p a : Nat) (bs : List Byte) : (s.bankWrite p a bs).exch = s.exch := by simp [State.bankWrite]
@[simp] theorem State.bankWrite_votes (p a : Nat) (bs : List Byte) : (s.bankWrite p a bs).votes = s.votes := by simp [State.bankWrite]
@[simp] theorem State.bankWrite_barriers (p a : Nat) (bs : List Byte) : (s.bankWrite p a bs).barriers = s.barriers := by simp [State.bankWrite]
@[simp] theorem State.bankWrite_reshard (p a : Nat) (bs : List Byte) : (s.bankWrite p a bs).reshard = s.reshard := by simp [State.bankWrite]
@[simp] theorem State.bankWrite_colls (p a : Nat) (bs : List Byte) : (s.bankWrite p a bs).colls = s.colls := by simp [State.bankWrite]
@[simp] theorem State.bankWrite_layers (p a : Nat) (bs : List Byte) : (s.bankWrite p a bs).layers = s.layers := by simp [State.bankWrite]
@[simp] theorem State.bankWrite_snap (p a : Nat) (bs : List Byte) : (s.bankWrite p a bs).snap = s.snap := by simp [State.bankWrite]
@[simp] theorem State.bankWrite_flash (p a : Nat) (bs : List Byte) : (s.bankWrite p a bs).flash = s.flash := by simp [State.bankWrite]
@[simp] theorem State.bankWrite_jobCmds (p a : Nat) (bs : List Byte) : (s.bankWrite p a bs).jobCmds = s.jobCmds := by simp [State.bankWrite]
@[simp] theorem State.bankWrite_copies (p a : Nat) (bs : List Byte) : (s.bankWrite p a bs).copies = s.copies := by simp [State.bankWrite]
@[simp] theorem State.bankWrite_trained (p a : Nat) (bs : List Byte) : (s.bankWrite p a bs).trained = s.trained := by simp [State.bankWrite]
@[simp] theorem State.bankWrite_d3 (p a : Nat) (bs : List Byte) : (s.bankWrite p a bs).d3 = s.d3 := by simp [State.bankWrite]
@[simp] theorem State.bankWrite_mgmt (p a : Nat) (bs : List Byte) : (s.bankWrite p a bs).mgmt = s.mgmt := by simp [State.bankWrite]
@[simp] theorem State.bankWrite_meter (p a : Nat) (bs : List Byte) : (s.bankWrite p a bs).meter = s.meter := by simp [State.bankWrite]
@[simp] theorem State.bankWrite_power (p a : Nat) (bs : List Byte) : (s.bankWrite p a bs).power = s.power := by simp [State.bankWrite]
@[simp] theorem State.bankWrite_msix (p a : Nat) (bs : List Byte) : (s.bankWrite p a bs).msix = s.msix := by simp [State.bankWrite]
@[simp] theorem State.bankWrite_heldCmds (p a : Nat) (bs : List Byte) : (s.bankWrite p a bs).heldCmds = s.heldCmds := by simp [State.bankWrite]
@[simp] theorem State.bankWrite_late (p a : Nat) (bs : List Byte) : (s.bankWrite p a bs).late = s.late := by simp [State.bankWrite]
@[simp] theorem State.bankWrite_sent (p a : Nat) (bs : List Byte) : (s.bankWrite p a bs).sent = s.sent := by simp [State.bankWrite]

/-! ### setJobState -/

@[simp] theorem State.setJobState_pending (st : Nat) : (s.setJobState st).pending = s.pending := by unfold State.setJobState; split <;> simp
@[simp] theorem State.setJobState_small (st : Nat) : (s.setJobState st).small = s.small := by unfold State.setJobState; split <;> simp
@[simp] theorem State.setJobState_freeCtr (st : Nat) : (s.setJobState st).freeCtr = s.freeCtr := by unfold State.setJobState; split <;> simp
@[simp] theorem State.setJobState_rises (st : Nat) : (s.setJobState st).rises = s.rises := by unfold State.setJobState; split <;> simp
@[simp] theorem State.setJobState_shadow (st : Nat) : (s.setJobState st).shadow = s.shadow := by unfold State.setJobState; split <;> simp
@[simp] theorem State.setJobState_shadowFirst (st : Nat) : (s.setJobState st).shadowFirst = s.shadowFirst := by unfold State.setJobState; split <;> simp
@[simp] theorem State.setJobState_sram (st : Nat) : (s.setJobState st).sram = s.sram := by unfold State.setJobState; split <;> simp
@[simp] theorem State.setJobState_lineValid (st : Nat) : (s.setJobState st).lineValid = s.lineValid := by unfold State.setJobState; split <;> simp
@[simp] theorem State.setJobState_tiles (st : Nat) : (s.setJobState st).tiles = s.tiles := by unfold State.setJobState; split <;> simp
@[simp] theorem State.setJobState_job (st : Nat) : (s.setJobState st).job = s.job := by unfold State.setJobState; split <;> simp
@[simp] theorem State.setJobState_retests (st : Nat) : (s.setJobState st).retests = s.retests := by unfold State.setJobState; split <;> simp
@[simp] theorem State.setJobState_training (st : Nat) : (s.setJobState st).training = s.training := by unfold State.setJobState; split <;> simp
@[simp] theorem State.setJobState_normAcc (st : Nat) : (s.setJobState st).normAcc = s.normAcc := by unfold State.setJobState; split <;> simp
@[simp] theorem State.setJobState_domSums (st : Nat) : (s.setJobState st).domSums = s.domSums := by unfold State.setJobState; split <;> simp
@[simp] theorem State.setJobState_frames (st : Nat) : (s.setJobState st).frames = s.frames := by unfold State.setJobState; split <;> simp
@[simp] theorem State.setJobState_recorder (st : Nat) : (s.setJobState st).recorder = s.recorder := by unfold State.setJobState; split <;> simp
@[simp] theorem State.setJobState_hbm (st : Nat) : (s.setJobState st).hbm = s.hbm := by unfold State.setJobState; split <;> simp
@[simp] theorem State.setJobState_hostMem (st : Nat) : (s.setJobState st).hostMem = s.hostMem := by unfold State.setJobState; split <;> simp
@[simp] theorem State.setJobState_regions (st : Nat) : (s.setJobState st).regions = s.regions := by unfold State.setJobState; split <;> simp
@[simp] theorem State.setJobState_remaps (st : Nat) : (s.setJobState st).remaps = s.remaps := by unfold State.setJobState; split <;> simp
@[simp] theorem State.setJobState_staging (st : Nat) : (s.setJobState st).staging = s.staging := by unfold State.setJobState; split <;> simp
@[simp] theorem State.setJobState_stagedNew (st : Nat) : (s.setJobState st).stagedNew = s.stagedNew := by unfold State.setJobState; split <;> simp
@[simp] theorem State.setJobState_ownerCache (st : Nat) : (s.setJobState st).ownerCache = s.ownerCache := by unfold State.setJobState; split <;> simp
@[simp] theorem State.setJobState_repair0 (st : Nat) : (s.setJobState st).repair0 = s.repair0 := by unfold State.setJobState; split <;> simp
@[simp] theorem State.setJobState_repair1 (st : Nat) : (s.setJobState st).repair1 = s.repair1 := by unfold State.setJobState; split <;> simp
@[simp] theorem State.setJobState_repairsDue (st : Nat) : (s.setJobState st).repairsDue = s.repairsDue := by unfold State.setJobState; split <;> simp
@[simp] theorem State.setJobState_petals (st : Nat) : (s.setJobState st).petals = s.petals := by unfold State.setJobState; split <;> simp
@[simp] theorem State.setJobState_taken (st : Nat) : (s.setJobState st).taken = s.taken := by unfold State.setJobState; split <;> simp
@[simp] theorem State.setJobState_completions (st : Nat) : (s.setJobState st).completions = s.completions := by unfold State.setJobState; split <;> simp
@[simp] theorem State.setJobState_wires (st : Nat) : (s.setJobState st).wires = s.wires := by unfold State.setJobState; split <;> simp
@[simp] theorem State.setJobState_lists (st : Nat) : (s.setJobState st).lists = s.lists := by unfold State.setJobState; split <;> simp
@[simp] theorem State.setJobState_grants (st : Nat) : (s.setJobState st).grants = s.grants := by unfold State.setJobState; split <;> simp
@[simp] theorem State.setJobState_slotsUsed (st : Nat) : (s.setJobState st).slotsUsed = s.slotsUsed := by unfold State.setJobState; split <;> simp
@[simp] theorem State.setJobState_served (st : Nat) : (s.setJobState st).served = s.served := by unfold State.setJobState; split <;> simp
@[simp] theorem State.setJobState_firstAt (st : Nat) : (s.setJobState st).firstAt = s.firstAt := by unfold State.setJobState; split <;> simp
@[simp] theorem State.setJobState_ports (st : Nat) : (s.setJobState st).ports = s.ports := by unfold State.setJobState; split <;> simp
@[simp] theorem State.setJobState_arrived (st : Nat) : (s.setJobState st).arrived = s.arrived := by unfold State.setJobState; split <;> simp
@[simp] theorem State.setJobState_routes (st : Nat) : (s.setJobState st).routes = s.routes := by unfold State.setJobState; split <;> simp
@[simp] theorem State.setJobState_conns (st : Nat) : (s.setJobState st).conns = s.conns := by unfold State.setJobState; split <;> simp
@[simp] theorem State.setJobState_exch (st : Nat) : (s.setJobState st).exch = s.exch := by unfold State.setJobState; split <;> simp
@[simp] theorem State.setJobState_votes (st : Nat) : (s.setJobState st).votes = s.votes := by unfold State.setJobState; split <;> simp
@[simp] theorem State.setJobState_barriers (st : Nat) : (s.setJobState st).barriers = s.barriers := by unfold State.setJobState; split <;> simp
@[simp] theorem State.setJobState_reshard (st : Nat) : (s.setJobState st).reshard = s.reshard := by unfold State.setJobState; split <;> simp
@[simp] theorem State.setJobState_colls (st : Nat) : (s.setJobState st).colls = s.colls := by unfold State.setJobState; split <;> simp
@[simp] theorem State.setJobState_layers (st : Nat) : (s.setJobState st).layers = s.layers := by unfold State.setJobState; split <;> simp
@[simp] theorem State.setJobState_snap (st : Nat) : (s.setJobState st).snap = s.snap := by unfold State.setJobState; split <;> simp
@[simp] theorem State.setJobState_flash (st : Nat) : (s.setJobState st).flash = s.flash := by unfold State.setJobState; split <;> simp
@[simp] theorem State.setJobState_jobCmds (st : Nat) : (s.setJobState st).jobCmds = s.jobCmds := by unfold State.setJobState; split <;> simp
@[simp] theorem State.setJobState_copies (st : Nat) : (s.setJobState st).copies = s.copies := by unfold State.setJobState; split <;> simp
@[simp] theorem State.setJobState_trained (st : Nat) : (s.setJobState st).trained = s.trained := by unfold State.setJobState; split <;> simp
@[simp] theorem State.setJobState_d3 (st : Nat) : (s.setJobState st).d3 = s.d3 := by unfold State.setJobState; split <;> simp
@[simp] theorem State.setJobState_mgmt (st : Nat) : (s.setJobState st).mgmt = s.mgmt := by unfold State.setJobState; split <;> simp
@[simp] theorem State.setJobState_meter (st : Nat) : (s.setJobState st).meter = s.meter := by unfold State.setJobState; split <;> simp
@[simp] theorem State.setJobState_power (st : Nat) : (s.setJobState st).power = s.power := by unfold State.setJobState; split <;> simp
@[simp] theorem State.setJobState_msix (st : Nat) : (s.setJobState st).msix = s.msix := by unfold State.setJobState; split <;> simp
@[simp] theorem State.setJobState_heldCmds (st : Nat) : (s.setJobState st).heldCmds = s.heldCmds := by unfold State.setJobState; split <;> simp
@[simp] theorem State.setJobState_late (st : Nat) : (s.setJobState st).late = s.late := by unfold State.setJobState; split <;> simp

/-! ### eventRaw -/

@[simp] theorem State.eventRaw_pending (code sev src wher : Nat) (dr : Bool) (mv : Nat) (data : List Byte) : (s.eventRaw code sev src wher dr mv data).pending = s.pending := by unfold State.eventRaw; split; rfl; dsimp only; split <;> simp
@[simp] theorem State.eventRaw_small (code sev src wher : Nat) (dr : Bool) (mv : Nat) (data : List Byte) : (s.eventRaw code sev src wher dr mv data).small = s.small := by unfold State.eventRaw; split; rfl; dsimp only; split <;> simp
@[simp] theorem State.eventRaw_freeCtr (code sev src wher : Nat) (dr : Bool) (mv : Nat) (data : List Byte) : (s.eventRaw code sev src wher dr mv data).freeCtr = s.freeCtr := by unfold State.eventRaw; split; rfl; dsimp only; split <;> simp
@[simp] theorem State.eventRaw_shadow (code sev src wher : Nat) (dr : Bool) (mv : Nat) (data : List Byte) : (s.eventRaw code sev src wher dr mv data).shadow = s.shadow := by unfold State.eventRaw; split; rfl; dsimp only; split <;> simp
@[simp] theorem State.eventRaw_shadowFirst (code sev src wher : Nat) (dr : Bool) (mv : Nat) (data : List Byte) : (s.eventRaw code sev src wher dr mv data).shadowFirst = s.shadowFirst := by unfold State.eventRaw; split; rfl; dsimp only; split <;> simp
@[simp] theorem State.eventRaw_sram (code sev src wher : Nat) (dr : Bool) (mv : Nat) (data : List Byte) : (s.eventRaw code sev src wher dr mv data).sram = s.sram := by unfold State.eventRaw; split; rfl; dsimp only; split <;> simp
@[simp] theorem State.eventRaw_lineValid (code sev src wher : Nat) (dr : Bool) (mv : Nat) (data : List Byte) : (s.eventRaw code sev src wher dr mv data).lineValid = s.lineValid := by unfold State.eventRaw; split; rfl; dsimp only; split <;> simp
@[simp] theorem State.eventRaw_tiles (code sev src wher : Nat) (dr : Bool) (mv : Nat) (data : List Byte) : (s.eventRaw code sev src wher dr mv data).tiles = s.tiles := by unfold State.eventRaw; split; rfl; dsimp only; split <;> simp
@[simp] theorem State.eventRaw_job (code sev src wher : Nat) (dr : Bool) (mv : Nat) (data : List Byte) : (s.eventRaw code sev src wher dr mv data).job = s.job := by unfold State.eventRaw; split; rfl; dsimp only; split <;> simp
@[simp] theorem State.eventRaw_retests (code sev src wher : Nat) (dr : Bool) (mv : Nat) (data : List Byte) : (s.eventRaw code sev src wher dr mv data).retests = s.retests := by unfold State.eventRaw; split; rfl; dsimp only; split <;> simp
@[simp] theorem State.eventRaw_training (code sev src wher : Nat) (dr : Bool) (mv : Nat) (data : List Byte) : (s.eventRaw code sev src wher dr mv data).training = s.training := by unfold State.eventRaw; split; rfl; dsimp only; split <;> simp
@[simp] theorem State.eventRaw_normAcc (code sev src wher : Nat) (dr : Bool) (mv : Nat) (data : List Byte) : (s.eventRaw code sev src wher dr mv data).normAcc = s.normAcc := by unfold State.eventRaw; split; rfl; dsimp only; split <;> simp
@[simp] theorem State.eventRaw_domSums (code sev src wher : Nat) (dr : Bool) (mv : Nat) (data : List Byte) : (s.eventRaw code sev src wher dr mv data).domSums = s.domSums := by unfold State.eventRaw; split; rfl; dsimp only; split <;> simp
@[simp] theorem State.eventRaw_frames (code sev src wher : Nat) (dr : Bool) (mv : Nat) (data : List Byte) : (s.eventRaw code sev src wher dr mv data).frames = s.frames := by unfold State.eventRaw; split; rfl; dsimp only; split <;> simp
@[simp] theorem State.eventRaw_hbm (code sev src wher : Nat) (dr : Bool) (mv : Nat) (data : List Byte) : (s.eventRaw code sev src wher dr mv data).hbm = s.hbm := by unfold State.eventRaw; split; rfl; dsimp only; split <;> simp
@[simp] theorem State.eventRaw_hostMem (code sev src wher : Nat) (dr : Bool) (mv : Nat) (data : List Byte) : (s.eventRaw code sev src wher dr mv data).hostMem = s.hostMem := by unfold State.eventRaw; split; rfl; dsimp only; split <;> simp
@[simp] theorem State.eventRaw_regions (code sev src wher : Nat) (dr : Bool) (mv : Nat) (data : List Byte) : (s.eventRaw code sev src wher dr mv data).regions = s.regions := by unfold State.eventRaw; split; rfl; dsimp only; split <;> simp
@[simp] theorem State.eventRaw_remaps (code sev src wher : Nat) (dr : Bool) (mv : Nat) (data : List Byte) : (s.eventRaw code sev src wher dr mv data).remaps = s.remaps := by unfold State.eventRaw; split; rfl; dsimp only; split <;> simp
@[simp] theorem State.eventRaw_staging (code sev src wher : Nat) (dr : Bool) (mv : Nat) (data : List Byte) : (s.eventRaw code sev src wher dr mv data).staging = s.staging := by unfold State.eventRaw; split; rfl; dsimp only; split <;> simp
@[simp] theorem State.eventRaw_stagedNew (code sev src wher : Nat) (dr : Bool) (mv : Nat) (data : List Byte) : (s.eventRaw code sev src wher dr mv data).stagedNew = s.stagedNew := by unfold State.eventRaw; split; rfl; dsimp only; split <;> simp
@[simp] theorem State.eventRaw_ownerCache (code sev src wher : Nat) (dr : Bool) (mv : Nat) (data : List Byte) : (s.eventRaw code sev src wher dr mv data).ownerCache = s.ownerCache := by unfold State.eventRaw; split; rfl; dsimp only; split <;> simp
@[simp] theorem State.eventRaw_repair0 (code sev src wher : Nat) (dr : Bool) (mv : Nat) (data : List Byte) : (s.eventRaw code sev src wher dr mv data).repair0 = s.repair0 := by unfold State.eventRaw; split; rfl; dsimp only; split <;> simp
@[simp] theorem State.eventRaw_repair1 (code sev src wher : Nat) (dr : Bool) (mv : Nat) (data : List Byte) : (s.eventRaw code sev src wher dr mv data).repair1 = s.repair1 := by unfold State.eventRaw; split; rfl; dsimp only; split <;> simp
@[simp] theorem State.eventRaw_repairsDue (code sev src wher : Nat) (dr : Bool) (mv : Nat) (data : List Byte) : (s.eventRaw code sev src wher dr mv data).repairsDue = s.repairsDue := by unfold State.eventRaw; split; rfl; dsimp only; split <;> simp
@[simp] theorem State.eventRaw_petals (code sev src wher : Nat) (dr : Bool) (mv : Nat) (data : List Byte) : (s.eventRaw code sev src wher dr mv data).petals = s.petals := by unfold State.eventRaw; split; rfl; dsimp only; split <;> simp
@[simp] theorem State.eventRaw_taken (code sev src wher : Nat) (dr : Bool) (mv : Nat) (data : List Byte) : (s.eventRaw code sev src wher dr mv data).taken = s.taken := by unfold State.eventRaw; split; rfl; dsimp only; split <;> simp
@[simp] theorem State.eventRaw_completions (code sev src wher : Nat) (dr : Bool) (mv : Nat) (data : List Byte) : (s.eventRaw code sev src wher dr mv data).completions = s.completions := by unfold State.eventRaw; split; rfl; dsimp only; split <;> simp
@[simp] theorem State.eventRaw_wires (code sev src wher : Nat) (dr : Bool) (mv : Nat) (data : List Byte) : (s.eventRaw code sev src wher dr mv data).wires = s.wires := by unfold State.eventRaw; split; rfl; dsimp only; split <;> simp
@[simp] theorem State.eventRaw_lists (code sev src wher : Nat) (dr : Bool) (mv : Nat) (data : List Byte) : (s.eventRaw code sev src wher dr mv data).lists = s.lists := by unfold State.eventRaw; split; rfl; dsimp only; split <;> simp
@[simp] theorem State.eventRaw_grants (code sev src wher : Nat) (dr : Bool) (mv : Nat) (data : List Byte) : (s.eventRaw code sev src wher dr mv data).grants = s.grants := by unfold State.eventRaw; split; rfl; dsimp only; split <;> simp
@[simp] theorem State.eventRaw_slotsUsed (code sev src wher : Nat) (dr : Bool) (mv : Nat) (data : List Byte) : (s.eventRaw code sev src wher dr mv data).slotsUsed = s.slotsUsed := by unfold State.eventRaw; split; rfl; dsimp only; split <;> simp
@[simp] theorem State.eventRaw_served (code sev src wher : Nat) (dr : Bool) (mv : Nat) (data : List Byte) : (s.eventRaw code sev src wher dr mv data).served = s.served := by unfold State.eventRaw; split; rfl; dsimp only; split <;> simp
@[simp] theorem State.eventRaw_firstAt (code sev src wher : Nat) (dr : Bool) (mv : Nat) (data : List Byte) : (s.eventRaw code sev src wher dr mv data).firstAt = s.firstAt := by unfold State.eventRaw; split; rfl; dsimp only; split <;> simp
@[simp] theorem State.eventRaw_ports (code sev src wher : Nat) (dr : Bool) (mv : Nat) (data : List Byte) : (s.eventRaw code sev src wher dr mv data).ports = s.ports := by unfold State.eventRaw; split; rfl; dsimp only; split <;> simp
@[simp] theorem State.eventRaw_arrived (code sev src wher : Nat) (dr : Bool) (mv : Nat) (data : List Byte) : (s.eventRaw code sev src wher dr mv data).arrived = s.arrived := by unfold State.eventRaw; split; rfl; dsimp only; split <;> simp
@[simp] theorem State.eventRaw_routes (code sev src wher : Nat) (dr : Bool) (mv : Nat) (data : List Byte) : (s.eventRaw code sev src wher dr mv data).routes = s.routes := by unfold State.eventRaw; split; rfl; dsimp only; split <;> simp
@[simp] theorem State.eventRaw_conns (code sev src wher : Nat) (dr : Bool) (mv : Nat) (data : List Byte) : (s.eventRaw code sev src wher dr mv data).conns = s.conns := by unfold State.eventRaw; split; rfl; dsimp only; split <;> simp
@[simp] theorem State.eventRaw_exch (code sev src wher : Nat) (dr : Bool) (mv : Nat) (data : List Byte) : (s.eventRaw code sev src wher dr mv data).exch = s.exch := by unfold State.eventRaw; split; rfl; dsimp only; split <;> simp
@[simp] theorem State.eventRaw_votes (code sev src wher : Nat) (dr : Bool) (mv : Nat) (data : List Byte) : (s.eventRaw code sev src wher dr mv data).votes = s.votes := by unfold State.eventRaw; split; rfl; dsimp only; split <;> simp
@[simp] theorem State.eventRaw_barriers (code sev src wher : Nat) (dr : Bool) (mv : Nat) (data : List Byte) : (s.eventRaw code sev src wher dr mv data).barriers = s.barriers := by unfold State.eventRaw; split; rfl; dsimp only; split <;> simp
@[simp] theorem State.eventRaw_reshard (code sev src wher : Nat) (dr : Bool) (mv : Nat) (data : List Byte) : (s.eventRaw code sev src wher dr mv data).reshard = s.reshard := by unfold State.eventRaw; split; rfl; dsimp only; split <;> simp
@[simp] theorem State.eventRaw_colls (code sev src wher : Nat) (dr : Bool) (mv : Nat) (data : List Byte) : (s.eventRaw code sev src wher dr mv data).colls = s.colls := by unfold State.eventRaw; split; rfl; dsimp only; split <;> simp
@[simp] theorem State.eventRaw_layers (code sev src wher : Nat) (dr : Bool) (mv : Nat) (data : List Byte) : (s.eventRaw code sev src wher dr mv data).layers = s.layers := by unfold State.eventRaw; split; rfl; dsimp only; split <;> simp
@[simp] theorem State.eventRaw_snap (code sev src wher : Nat) (dr : Bool) (mv : Nat) (data : List Byte) : (s.eventRaw code sev src wher dr mv data).snap = s.snap := by unfold State.eventRaw; split; rfl; dsimp only; split <;> simp
@[simp] theorem State.eventRaw_flash (code sev src wher : Nat) (dr : Bool) (mv : Nat) (data : List Byte) : (s.eventRaw code sev src wher dr mv data).flash = s.flash := by unfold State.eventRaw; split; rfl; dsimp only; split <;> simp
@[simp] theorem State.eventRaw_jobCmds (code sev src wher : Nat) (dr : Bool) (mv : Nat) (data : List Byte) : (s.eventRaw code sev src wher dr mv data).jobCmds = s.jobCmds := by unfold State.eventRaw; split; rfl; dsimp only; split <;> simp
@[simp] theorem State.eventRaw_copies (code sev src wher : Nat) (dr : Bool) (mv : Nat) (data : List Byte) : (s.eventRaw code sev src wher dr mv data).copies = s.copies := by unfold State.eventRaw; split; rfl; dsimp only; split <;> simp
@[simp] theorem State.eventRaw_trained (code sev src wher : Nat) (dr : Bool) (mv : Nat) (data : List Byte) : (s.eventRaw code sev src wher dr mv data).trained = s.trained := by unfold State.eventRaw; split; rfl; dsimp only; split <;> simp
@[simp] theorem State.eventRaw_d3 (code sev src wher : Nat) (dr : Bool) (mv : Nat) (data : List Byte) : (s.eventRaw code sev src wher dr mv data).d3 = s.d3 := by unfold State.eventRaw; split; rfl; dsimp only; split <;> simp
@[simp] theorem State.eventRaw_mgmt (code sev src wher : Nat) (dr : Bool) (mv : Nat) (data : List Byte) : (s.eventRaw code sev src wher dr mv data).mgmt = s.mgmt := by unfold State.eventRaw; split; rfl; dsimp only; split <;> simp
@[simp] theorem State.eventRaw_meter (code sev src wher : Nat) (dr : Bool) (mv : Nat) (data : List Byte) : (s.eventRaw code sev src wher dr mv data).meter = s.meter := by unfold State.eventRaw; split; rfl; dsimp only; split <;> simp
@[simp] theorem State.eventRaw_power (code sev src wher : Nat) (dr : Bool) (mv : Nat) (data : List Byte) : (s.eventRaw code sev src wher dr mv data).power = s.power := by unfold State.eventRaw; split; rfl; dsimp only; split <;> simp
@[simp] theorem State.eventRaw_msix (code sev src wher : Nat) (dr : Bool) (mv : Nat) (data : List Byte) : (s.eventRaw code sev src wher dr mv data).msix = s.msix := by unfold State.eventRaw; split; rfl; dsimp only; split <;> simp
@[simp] theorem State.eventRaw_heldCmds (code sev src wher : Nat) (dr : Bool) (mv : Nat) (data : List Byte) : (s.eventRaw code sev src wher dr mv data).heldCmds = s.heldCmds := by unfold State.eventRaw; split; rfl; dsimp only; split <;> simp
@[simp] theorem State.eventRaw_late (code sev src wher : Nat) (dr : Bool) (mv : Nat) (data : List Byte) : (s.eventRaw code sev src wher dr mv data).late = s.late := by unfold State.eventRaw; split; rfl; dsimp only; split <;> simp

/-! ### event -/

@[simp] theorem State.event_pending (code sev src wher : Nat) (items : List EvtItem) : (s.event code sev src wher items).pending = s.pending := by simp [State.event]
@[simp] theorem State.event_small (code sev src wher : Nat) (items : List EvtItem) : (s.event code sev src wher items).small = s.small := by simp [State.event]
@[simp] theorem State.event_freeCtr (code sev src wher : Nat) (items : List EvtItem) : (s.event code sev src wher items).freeCtr = s.freeCtr := by simp [State.event]
@[simp] theorem State.event_shadow (code sev src wher : Nat) (items : List EvtItem) : (s.event code sev src wher items).shadow = s.shadow := by simp [State.event]
@[simp] theorem State.event_shadowFirst (code sev src wher : Nat) (items : List EvtItem) : (s.event code sev src wher items).shadowFirst = s.shadowFirst := by simp [State.event]
@[simp] theorem State.event_sram (code sev src wher : Nat) (items : List EvtItem) : (s.event code sev src wher items).sram = s.sram := by simp [State.event]
@[simp] theorem State.event_lineValid (code sev src wher : Nat) (items : List EvtItem) : (s.event code sev src wher items).lineValid = s.lineValid := by simp [State.event]
@[simp] theorem State.event_tiles (code sev src wher : Nat) (items : List EvtItem) : (s.event code sev src wher items).tiles = s.tiles := by simp [State.event]
@[simp] theorem State.event_job (code sev src wher : Nat) (items : List EvtItem) : (s.event code sev src wher items).job = s.job := by simp [State.event]
@[simp] theorem State.event_retests (code sev src wher : Nat) (items : List EvtItem) : (s.event code sev src wher items).retests = s.retests := by simp [State.event]
@[simp] theorem State.event_training (code sev src wher : Nat) (items : List EvtItem) : (s.event code sev src wher items).training = s.training := by simp [State.event]
@[simp] theorem State.event_normAcc (code sev src wher : Nat) (items : List EvtItem) : (s.event code sev src wher items).normAcc = s.normAcc := by simp [State.event]
@[simp] theorem State.event_domSums (code sev src wher : Nat) (items : List EvtItem) : (s.event code sev src wher items).domSums = s.domSums := by simp [State.event]
@[simp] theorem State.event_frames (code sev src wher : Nat) (items : List EvtItem) : (s.event code sev src wher items).frames = s.frames := by simp [State.event]
@[simp] theorem State.event_hbm (code sev src wher : Nat) (items : List EvtItem) : (s.event code sev src wher items).hbm = s.hbm := by simp [State.event]
@[simp] theorem State.event_hostMem (code sev src wher : Nat) (items : List EvtItem) : (s.event code sev src wher items).hostMem = s.hostMem := by simp [State.event]
@[simp] theorem State.event_regions (code sev src wher : Nat) (items : List EvtItem) : (s.event code sev src wher items).regions = s.regions := by simp [State.event]
@[simp] theorem State.event_remaps (code sev src wher : Nat) (items : List EvtItem) : (s.event code sev src wher items).remaps = s.remaps := by simp [State.event]
@[simp] theorem State.event_staging (code sev src wher : Nat) (items : List EvtItem) : (s.event code sev src wher items).staging = s.staging := by simp [State.event]
@[simp] theorem State.event_stagedNew (code sev src wher : Nat) (items : List EvtItem) : (s.event code sev src wher items).stagedNew = s.stagedNew := by simp [State.event]
@[simp] theorem State.event_ownerCache (code sev src wher : Nat) (items : List EvtItem) : (s.event code sev src wher items).ownerCache = s.ownerCache := by simp [State.event]
@[simp] theorem State.event_repair0 (code sev src wher : Nat) (items : List EvtItem) : (s.event code sev src wher items).repair0 = s.repair0 := by simp [State.event]
@[simp] theorem State.event_repair1 (code sev src wher : Nat) (items : List EvtItem) : (s.event code sev src wher items).repair1 = s.repair1 := by simp [State.event]
@[simp] theorem State.event_repairsDue (code sev src wher : Nat) (items : List EvtItem) : (s.event code sev src wher items).repairsDue = s.repairsDue := by simp [State.event]
@[simp] theorem State.event_petals (code sev src wher : Nat) (items : List EvtItem) : (s.event code sev src wher items).petals = s.petals := by simp [State.event]
@[simp] theorem State.event_taken (code sev src wher : Nat) (items : List EvtItem) : (s.event code sev src wher items).taken = s.taken := by simp [State.event]
@[simp] theorem State.event_completions (code sev src wher : Nat) (items : List EvtItem) : (s.event code sev src wher items).completions = s.completions := by simp [State.event]
@[simp] theorem State.event_wires (code sev src wher : Nat) (items : List EvtItem) : (s.event code sev src wher items).wires = s.wires := by simp [State.event]
@[simp] theorem State.event_lists (code sev src wher : Nat) (items : List EvtItem) : (s.event code sev src wher items).lists = s.lists := by simp [State.event]
@[simp] theorem State.event_grants (code sev src wher : Nat) (items : List EvtItem) : (s.event code sev src wher items).grants = s.grants := by simp [State.event]
@[simp] theorem State.event_slotsUsed (code sev src wher : Nat) (items : List EvtItem) : (s.event code sev src wher items).slotsUsed = s.slotsUsed := by simp [State.event]
@[simp] theorem State.event_served (code sev src wher : Nat) (items : List EvtItem) : (s.event code sev src wher items).served = s.served := by simp [State.event]
@[simp] theorem State.event_firstAt (code sev src wher : Nat) (items : List EvtItem) : (s.event code sev src wher items).firstAt = s.firstAt := by simp [State.event]
@[simp] theorem State.event_ports (code sev src wher : Nat) (items : List EvtItem) : (s.event code sev src wher items).ports = s.ports := by simp [State.event]
@[simp] theorem State.event_arrived (code sev src wher : Nat) (items : List EvtItem) : (s.event code sev src wher items).arrived = s.arrived := by simp [State.event]
@[simp] theorem State.event_routes (code sev src wher : Nat) (items : List EvtItem) : (s.event code sev src wher items).routes = s.routes := by simp [State.event]
@[simp] theorem State.event_conns (code sev src wher : Nat) (items : List EvtItem) : (s.event code sev src wher items).conns = s.conns := by simp [State.event]
@[simp] theorem State.event_exch (code sev src wher : Nat) (items : List EvtItem) : (s.event code sev src wher items).exch = s.exch := by simp [State.event]
@[simp] theorem State.event_votes (code sev src wher : Nat) (items : List EvtItem) : (s.event code sev src wher items).votes = s.votes := by simp [State.event]
@[simp] theorem State.event_barriers (code sev src wher : Nat) (items : List EvtItem) : (s.event code sev src wher items).barriers = s.barriers := by simp [State.event]
@[simp] theorem State.event_reshard (code sev src wher : Nat) (items : List EvtItem) : (s.event code sev src wher items).reshard = s.reshard := by simp [State.event]
@[simp] theorem State.event_colls (code sev src wher : Nat) (items : List EvtItem) : (s.event code sev src wher items).colls = s.colls := by simp [State.event]
@[simp] theorem State.event_layers (code sev src wher : Nat) (items : List EvtItem) : (s.event code sev src wher items).layers = s.layers := by simp [State.event]
@[simp] theorem State.event_snap (code sev src wher : Nat) (items : List EvtItem) : (s.event code sev src wher items).snap = s.snap := by simp [State.event]
@[simp] theorem State.event_flash (code sev src wher : Nat) (items : List EvtItem) : (s.event code sev src wher items).flash = s.flash := by simp [State.event]
@[simp] theorem State.event_jobCmds (code sev src wher : Nat) (items : List EvtItem) : (s.event code sev src wher items).jobCmds = s.jobCmds := by simp [State.event]
@[simp] theorem State.event_copies (code sev src wher : Nat) (items : List EvtItem) : (s.event code sev src wher items).copies = s.copies := by simp [State.event]
@[simp] theorem State.event_trained (code sev src wher : Nat) (items : List EvtItem) : (s.event code sev src wher items).trained = s.trained := by simp [State.event]
@[simp] theorem State.event_d3 (code sev src wher : Nat) (items : List EvtItem) : (s.event code sev src wher items).d3 = s.d3 := by simp [State.event]
@[simp] theorem State.event_mgmt (code sev src wher : Nat) (items : List EvtItem) : (s.event code sev src wher items).mgmt = s.mgmt := by simp [State.event]
@[simp] theorem State.event_meter (code sev src wher : Nat) (items : List EvtItem) : (s.event code sev src wher items).meter = s.meter := by simp [State.event]
@[simp] theorem State.event_power (code sev src wher : Nat) (items : List EvtItem) : (s.event code sev src wher items).power = s.power := by simp [State.event]
@[simp] theorem State.event_msix (code sev src wher : Nat) (items : List EvtItem) : (s.event code sev src wher items).msix = s.msix := by simp [State.event]
@[simp] theorem State.event_heldCmds (code sev src wher : Nat) (items : List EvtItem) : (s.event code sev src wher items).heldCmds = s.heldCmds := by simp [State.event]
@[simp] theorem State.event_late (code sev src wher : Nat) (items : List EvtItem) : (s.event code sev src wher items).late = s.late := by simp [State.event]

/-! ### Reading back -/

theorem State.reg_setReg (k v j : Nat) : (s.setReg k v).reg j = if j = k then v % 2 ^ 64 else s.reg j := by
  unfold State.reg State.setReg
  simp only [Sparse.get_set]
  split <;> simp [W64.of]

@[simp] theorem State.reg_setReg_self (k v : Nat) : (s.setReg k v).reg k = v % 2 ^ 64 := by simp [State.reg_setReg]

@[simp] theorem State.reg_setReg_other (k v j : Nat) (h : j ≠ k) : (s.setReg k v).reg j = s.reg j := by simp [State.reg_setReg, h]

theorem State.reg_lt (k : Nat) : s.reg k < 2 ^ 64 := (Sparse.get Reg.reset s.regs k).isLt

theorem State.reg_setFld (k hi lo v j : Nat) : (s.setFld k hi lo v).reg j = if j = k then setBits (s.reg k) hi lo v % 2 ^ 64 else s.reg j := by
  unfold State.setFld
  exact s.reg_setReg k _ j

@[simp] theorem State.reg_setFld_other (k hi lo v j : Nat) (h : j ≠ k) : (s.setFld k hi lo v).reg j = s.reg j := by
  simp [State.reg_setFld, h]

theorem State.reg_resetRegs (p : Nat → Bool) (j : Nat) : (s.resetRegs p).reg j = if p j then (Reg.reset j).toNat else s.reg j := by
  unfold State.reg State.resetRegs
  simp only [Sparse.get_clearIf]
  split <;> rfl

@[simp] theorem State.reg_count_other (k n j : Nat) (h : j ≠ k) : (s.count k n).reg j = s.reg j := by
  unfold State.count
  split
  · rfl
  · simp only [State.reg]
    rw [Sparse.get_set_other _ _ _ _ _ h]

@[simp] theorem State.reg_first_other (k b v j : Nat) (h : j ≠ k) : (s.first k b v).reg j = s.reg j := by
  unfold State.first
  split
  · rfl
  · exact s.reg_setReg_other k v j h

@[simp] theorem State.reg_cause_other (i j : Nat) (h : j ≠ Reg.hqIntCause) : (s.cause i).reg j = s.reg j := by
  unfold State.cause
  split
  · rfl
  · dsimp only
    split <;> exact s.reg_setReg_other _ _ _ h

theorem State.tile_setTile (p : Nat) (t : TileState) (x : Nat) : (s.setTile p t).tile x = if x = p then t else s.tile x := by
  unfold State.tile State.setTile
  simp only [Sparse.get_set]

@[simp] theorem State.tile_setTile_self (p : Nat) (t : TileState) : (s.setTile p t).tile p = t := by simp [State.tile_setTile]

@[simp] theorem State.tile_modTile_self (p : Nat) (f : TileState → TileState) : (s.modTile p f).tile p = f (s.tile p) := by
  simp [State.modTile]

@[simp] theorem State.tile_modTile_other (p x : Nat) (f : TileState → TileState) (h : x ≠ p) : (s.modTile p f).tile x = s.tile x := by
  simp [State.modTile, State.tile_setTile, h]

/-! ### Banks -/

/-- What a write of a bank can change: the bytes it covers, below the end of the tile. -/
theorem State.byte_bankWrite (p a : Nat) (bs : List Byte) (x : Nat) : Mem.byte (s.bankWrite p a bs).sram x =
    if sramKey p a ≤ x ∧ x < sramKey p a + min bs.length (2 ^ 21 - a) then (bs.take (min bs.length (2 ^ 21 - a))).getD (x - sramKey p a) 0
    else Mem.byte s.sram x := by
  have h : (s.bankWrite p a bs).sram = Mem.write s.sram (sramKey p a) (bs.take (min bs.length (2 ^ 21 - a))) := by
    simp [State.bankWrite, State.markLines]
    split <;> rfl
  rw [h, Mem.byte_write]
  simp [List.length_take]

/-- A write that fits the tile reads back whole. -/
theorem State.bankRead_bankWrite_self (p a : Nat) (bs : List Byte) (h : a + bs.length ≤ 2 ^ 21) :
    (s.bankWrite p a bs).bankRead p a bs.length = bs := by
  have hm : min bs.length (2 ^ 21 - a) = bs.length := by omega
  have hs : (s.bankWrite p a bs).sram = Mem.write s.sram (sramKey p a) bs := by
    simp only [State.bankWrite, hm, List.take_length]
    simp [State.markLines]
    split <;> rfl
  unfold State.bankRead
  rw [hs]
  exact Mem.read_write_self _ _ _

/-! ### Records and causes -/

/-- An event record changes no register but EVT_COUNT[1] and HQ_INT_CAUSE. -/
theorem State.reg_eventRaw_other (code sev src wher : Nat) (dr : Bool) (mv : Nat) (data : List Byte) (j : Nat) (h1 : j ≠ Reg.evtCount 1)
    (h2 : j ≠ Reg.hqIntCause) : (s.eventRaw code sev src wher dr mv data).reg j = s.reg j := by
  unfold State.eventRaw
  split
  · rfl
  · dsimp only
    split
    · rw [State.reg_cause_other _ _ _ h2, State.reg_count_other _ _ _ _ h1]
      rfl
    · rw [State.reg_count_other _ _ _ _ h1]
      rfl

end Sys2Proof.Machine
end

