-- ==== Sys2Proof/Laws/Ops.lean ====
section
/-! SUPPORT. What the shared operations can change, said once: each is an equation that writes its answer as the state it started from with
named fields replaced, so that every other field is seen to stand. -/

namespace Sys2Proof.Machine

/-- A fold of steps that keep a reflexive and transitive relation keeps it. -/
theorem foldl_keeps {β : Type} (R : State → State → Prop) (hr : ∀ s, R s s) (ht : ∀ s t u, R s t → R t u → R s u)
    (f : State → β → State) (hf : ∀ s x, R s (f s x)) (l : List β) (s : State) : R s (l.foldl f s) := by
  induction l generalizing s with
  | nil => exact hr s
  | cons x l ih => exact ht _ _ _ (hf s x) (ih (f s x))

/-! ### Counting, records and causes -/

/-- A count changes registers and rises alone. -/
theorem State.count_frame (s : State) (k n : Nat) : s.count k n = { s with regs := (s.count k n).regs, rises := (s.count k n).rises } := by
  unfold State.count
  split <;> rfl

/-- A cause changes registers and what is sent alone. -/
theorem State.cause_frame (s : State) (i : Nat) : s.cause i = { s with regs := (s.cause i).regs, sent := (s.cause i).sent } := by
  unfold State.cause
  split
  · rfl
  · dsimp only
    split <;> rfl

/-- `t` is `s` but for registers, rises, the recorder and what is sent. -/
def recordsOnly (s t : State) : Prop := t = { s with regs := t.regs, rises := t.rises, recorder := t.recorder, sent := t.sent }

theorem recordsOnly_refl (s : State) : recordsOnly s s := rfl

theorem recordsOnly_trans (s t u : State) (h : recordsOnly s t) (k : recordsOnly t u) : recordsOnly s u := by
  unfold recordsOnly at *
  rw [k, h]

theorem State.count_records (s : State) (k n : Nat) : recordsOnly s (s.count k n) := by
  unfold recordsOnly
  rw [s.count_frame k n]

theorem State.cause_records (s : State) (i : Nat) : recordsOnly s (s.cause i) := by
  unfold recordsOnly
  rw [s.cause_frame i]

theorem State.setReg_records (s : State) (k v : Nat) : recordsOnly s (s.setReg k v) := rfl

/-- An event record changes registers, rises, the recorder and what is sent alone. -/
theorem State.eventRaw_frame (s : State) (code sev src wher : Nat) (dr : Bool) (mv : Nat) (data : List Byte) :
    recordsOnly s (s.eventRaw code sev src wher dr mv data) := by
  unfold State.eventRaw
  split
  · rfl
  · dsimp only
    have h0 : ∀ q : Recorder, recordsOnly s { s with recorder := q } := fun _ => rfl
    split
    · exact recordsOnly_trans _ _ _ (recordsOnly_trans _ _ _ (h0 _) (State.count_records _ _ _)) (State.cause_records _ _)
    · exact recordsOnly_trans _ _ _ (h0 _) (State.count_records _ _ _)

/-! ### Completions (R477, R478) -/

/-- `t` is `s` but for registers, rises, the commands taken and the completions that are due. -/
def completionsOnly (s t : State) : Prop := t = { s with regs := t.regs, rises := t.rises, taken := t.taken, completions := t.completions }

theorem completionsOnly_refl (s : State) : completionsOnly s s := rfl

theorem completionsOnly_trans (s t u : State) (h : completionsOnly s t) (k : completionsOnly t u) : completionsOnly s u := by
  unfold completionsOnly at *
  rw [k, h]

/-- A completion becomes due: it is the last, and it is counted. -/
theorem State.complete_frame (s : State) (c : Completion) :
    completionsOnly s (s.complete c) ∧ (s.complete c).completions = s.completions ++ [c] ∧ (s.complete c).taken = s.taken := by
  unfold State.complete completionsOnly
  refine ⟨?_, by simp, by simp⟩
  rw [State.count_frame]

/-- The end of a command changes registers, rises, the commands taken and the completions alone. -/
theorem State.finish_frame (s : State) (r seq status r0 r1 : Nat) : completionsOnly s (s.finish r seq status r0 r1) := by
  unfold State.finish
  split
  · rfl
  · dsimp only
    have h0 : ∀ l c, completionsOnly s ((s.setTaken r l).complete c) := fun l c =>
      completionsOnly_trans s (s.setTaken r l) _ rfl (State.complete_frame _ _).1
    exact completionsOnly_trans _ _ _ (h0 _ _)
      (foldl_keeps completionsOnly completionsOnly_refl completionsOnly_trans _ (fun s x => (State.complete_frame s _).1) _ _)

/-- The end of a command for which no repeat waits: one completion, with the head the command was taken at. -/
theorem State.finish_completions (s : State) (r seq status r0 r1 : Nat) (t : Taken)
    (h : (s.takenOf r).find? (fun t => t.seq == seq) = some t) (hr : t.repeats = []) :
    (s.finish r seq status r0 r1).completions = s.completions ++ [⟨r, seq, status, false, t.head, r0, r1⟩] := by
  unfold State.finish
  simp only [h, hr, List.foldl_nil]
  exact (State.complete_frame _ _).2.1

/-! ### Memory -/

/-- A write of a device address changes HBM and host memory alone. -/
theorem State.devWrite_frame (s : State) (a : Nat) (bs : List Byte) :
    s.devWrite a bs = { s with hbm := (s.devWrite a bs).hbm, hostMem := (s.devWrite a bs).hostMem } := by
  unfold State.devWrite
  split <;> rfl

/-- A write of an HBM address changes the bytes it covers alone. -/
theorem State.byte_devWrite (s : State) (a : Nat) (bs : List Byte) (h : isHostAddr a = false) (x : Nat) :
    Mem.byte (s.devWrite a bs).hbm x = if a ≤ x ∧ x < a + bs.length then bs.getD (x - a) 0 else Mem.byte s.hbm x := by
  unfold State.devWrite
  simp only [h, Bool.false_eq_true, if_false]
  exact Mem.byte_write _ _ _ _

/-- Reading back what was written at an HBM address. -/
theorem State.devRead_devWrite_self (s : State) (a : Nat) (bs : List Byte) (h : isHostAddr a = false) :
    (s.devWrite a bs).devRead a bs.length = bs := by
  unfold State.devWrite State.devRead
  simp only [h, Bool.false_eq_true, if_false]
  exact Mem.read_write_self _ _ _

/-- `t` is `s` but for registers and rises. -/
def countsOnly (s t : State) : Prop := t = { s with regs := t.regs, rises := t.rises }

theorem countsOnly_refl (s : State) : countsOnly s s := rfl

theorem countsOnly_trans (s t u : State) (h : countsOnly s t) (k : countsOnly t u) : countsOnly s u := by
  unfold countsOnly at *
  rw [k, h]

/-- Accesses to remapped rows are only counted. -/
theorem State.countRemaps_frame (s : State) (r : AddrRun) : countsOnly s (s.countRemaps r) :=
  foldl_keeps countsOnly countsOnly_refl countsOnly_trans _ (fun s _ => State.count_frame s _ _) _ _

/-- Reads that meet no faulty atom only count accesses to remapped rows. -/
theorem State.hbmAccess_nil_frame (s : State) (runs : List AddrRun) : countsOnly s (s.hbmAccess [] runs) :=
  foldl_keeps countsOnly countsOnly_refl countsOnly_trans _ (fun s r => State.countRemaps_frame s r) _ _

/-- Without a faulty atom HBM is delivered as it stands. -/
@[simp] theorem State.delivered_nil (s : State) : s.delivered [] = s := rfl

/-- Touching a range ends self-refresh alone: registers. -/
theorem State.hbmTouch_frame (s : State) (a n : Nat) : countsOnly s (s.hbmTouch a n) :=
  foldl_keeps countsOnly countsOnly_refl countsOnly_trans _ (fun s i => by
    unfold countsOnly
    split <;> rfl) _ _

/-- The atoms of a run are only counted. -/
theorem State.countAtoms_frame (s : State) (a n : Nat) : countsOnly s (s.countAtoms a n) :=
  foldl_keeps countsOnly countsOnly_refl countsOnly_trans _ (fun s _ => State.count_frame s _ _) _ _

/-! ### Sequencers and tiles -/

/-- A word that starts moves its tile's sequencer and the offset alone. -/
theorem State.start_frame (s : State) (t : Nat) (ok : Nat → Bool) (w i : Nat) (u : State) (h : s.start t ok = some (w, i, u)) :
    u = { s with regs := u.regs, tiles := u.tiles } := by
  unfold State.start at h
  split at h
  · split at h
    · cases h
    · split at h
      · cases h
        rfl
      · cases h
  · cases h

end Sys2Proof.Machine
end

