-- ==== Sys2Proof/Laws/Memory.lean ====
section
/-! SUPPORT. Laws of the copy between byte memories, and which memories the bank and device operations leave canonical. -/

namespace Sys2Proof.Machine

/-- A fold of single writes keeps the canonical form. -/
theorem Mem.wf_foldl_set {β : Type} (l : List β) (at_ : β → Nat) (val : β → Byte) (m : Mem) (h : Memory.wf m = true) :
    Memory.wf (l.foldl (fun m e => Mem.set m (at_ e) (val e)) m) = true := by
  induction l generalizing m with
  | nil => exact h
  | cons e l ih => exact ih _ (Mem.wf_set m _ _ h)

/-- A copy keeps the canonical form of its destination. -/
theorem Mem.wf_copyTo (m : Mem) (a n : Nat) (dst : Mem) (b : Nat) (h : Memory.wf dst = true) : Memory.wf (Mem.copyTo m a n dst b) = true :=
  Mem.wf_foldl_set _ _ _ _ (Mem.wf_zero dst b (b + n) h)

/-- Below its lowest key a table lists nothing. -/
theorem Sparse.get_below {α : Type} [DecidableEq α] (d : Nat → α) (m : Sparse α) (b k : Nat) (hm : Sparse.wfFrom d b m = true) (hk : k < b) :
    Sparse.get d m k = d k := by
  induction m generalizing b with
  | nil => rfl
  | cons e m ih =>
    obtain ⟨j, v⟩ := e
    simp only [Sparse.wfFrom, Bool.and_eq_true, decide_eq_true_eq] at hm
    simp only [Sparse.get]
    rw [if_neg (by omega)]
    exact ih (j + 1) hm.2.2 (by omega)

/-- What the writes of a copy leave at an address: the listed byte that goes there, else what was there. -/
theorem Mem.byte_moved (l : Mem) (lo a n b : Nat) (hl : Sparse.wfFrom Mem.dflt lo l = true) (hr : ∀ e ∈ l, a ≤ e.1 ∧ e.1 < a + n) (m : Mem) (x : Nat) :
    Mem.byte (l.foldl (fun d e => Mem.set d (b + (e.1 - a)) e.2) m) x =
      if b ≤ x ∧ Sparse.get Mem.dflt l (a + (x - b)) ≠ 0 then Sparse.get Mem.dflt l (a + (x - b)) else Mem.byte m x := by
  induction l generalizing m lo with
  | nil => simp [Sparse.get, Mem.dflt]
  | cons e l ih =>
    obtain ⟨k, v⟩ := e
    simp only [Sparse.wfFrom, Bool.and_eq_true, decide_eq_true_eq] at hl
    have hk := hr (k, v) (by simp)
    simp only [List.foldl_cons]
    rw [ih (k + 1) hl.2.2 (fun e he => hr e (List.mem_cons_of_mem _ he)), Mem.byte_set]
    have hget (i : Nat) : Sparse.get Mem.dflt ((k, v) :: l) i = if i = k then v else Sparse.get Mem.dflt l i := rfl
    by_cases hx : x = b + (k - a)
    · subst hx
      have hak : a + (k - a) = k := by omega
      have hv : v ≠ 0 := hl.2.1
      have h0 : Sparse.get Mem.dflt l k = 0 := Sparse.get_below Mem.dflt l (k + 1) k hl.2.2 (by omega)
      have h1 : Sparse.get Mem.dflt ((k, v) :: l) k = v := by rw [hget, if_pos rfl]
      simp only [Nat.add_sub_cancel_left, hak, h0, h1, ne_eq, not_true_eq_false, and_false, if_false, if_true, Nat.le_add_right, true_and]
      rw [if_pos hv]
    · by_cases hb : b ≤ x
      · have h1 : Sparse.get Mem.dflt ((k, v) :: l) (a + (x - b)) = Sparse.get Mem.dflt l (a + (x - b)) := by
          rw [hget, if_neg (by omega)]
        simp [hx, h1]
      · simp [hx, hb]

/-- A copy puts the bytes of its source at its destination, and leaves every other byte. -/
theorem Mem.byte_copyTo (m : Mem) (a n : Nat) (dst : Mem) (b x : Nat) (hm : Memory.wf m = true) :
    Mem.byte (Mem.copyTo m a n dst b) x = if b ≤ x ∧ x < b + n then Mem.byte m (a + (x - b)) else Mem.byte dst x := by
  have hr : ∀ e ∈ m.filter (fun e => decide (a ≤ e.1) && decide (e.1 < a + n)), a ≤ e.1 ∧ e.1 < a + n := by
    intro e he
    simpa using (List.mem_filter.mp he).2
  unfold Mem.copyTo
  rw [Mem.byte_moved _ 0 a n b (Sparse.wf_filter Mem.dflt m _ hm) hr, Mem.byte_zero]
  have hg : Sparse.get Mem.dflt (m.filter (fun e => decide (a ≤ e.1) && decide (e.1 < a + n))) (a + (x - b)) =
      if a + (x - b) < a + n then Mem.byte m (a + (x - b)) else 0 := by
    rw [Sparse.get_filter Mem.dflt m (fun i => decide (a ≤ i) && decide (i < a + n))]
    by_cases h : a + (x - b) < a + n
    · rw [if_pos h, if_pos (by simp; omega)]; rfl
    · rw [if_neg h, if_neg (by simp; omega)]; rfl
  rw [hg]
  by_cases hb : b ≤ x
  · by_cases hn : x < b + n
    · rw [if_pos (by omega : a + (x - b) < a + n)]
      simp only [hb, hn, true_and, and_self, if_true]
      split
      · rfl
      · rename_i h0
        exact (Classical.not_not.mp h0).symm
    · rw [if_neg (by omega : ¬ a + (x - b) < a + n)]
      simp [hn]
  · simp [hb]

/-- A copy read back whole. -/
theorem Mem.read_copyTo_self (m : Mem) (a n : Nat) (dst : Mem) (b : Nat) (hm : Memory.wf m = true) :
    Mem.read (Mem.copyTo m a n dst b) b n = Mem.read m a n := by
  have h : ∀ k, k ≤ n → Mem.read (Mem.copyTo m a n dst b) (b + (n - k)) k = Mem.read m (a + (n - k)) k := by
    intro k
    induction k with
    | zero => exact fun _ => rfl
    | succ k ih =>
      intro hk
      have e1 : b + (n - (k + 1)) + 1 = b + (n - k) := by omega
      have e2 : a + (n - (k + 1)) + 1 = a + (n - k) := by omega
      simp only [Mem.read]
      rw [e1, e2, ih (by omega), Mem.byte_copyTo m a n dst b _ hm, if_pos (by omega)]
      congr 2
      omega
  simpa using h n (Nat.le_refl n)

/-! ### Operations that keep every table canonical -/

/-- The six memories of a state, that it is canonical by. -/
theorem State.memWf_iff (s : State) : s.memWf = true ↔ Memory.wf s.sram = true ∧ Memory.wf s.hbm = true ∧ Memory.wf s.hostMem = true
    ∧ Memory.wf s.flash = true ∧ Memory.wf s.msix = true ∧ Memory.wf s.mgmt.mboxBuf = true := by
  simp [State.memWf]

theorem State.setReg_canonical (s : State) (k v : Nat) (h : s.Canonical) : (s.setReg k v).Canonical :=
  ⟨h.1, Sparse.wf_set Reg.reset s.regs k _ h.2⟩

theorem State.setFld_canonical (s : State) (k hi lo v : Nat) (h : s.Canonical) : (s.setFld k hi lo v).Canonical :=
  s.setReg_canonical k _ h

theorem State.resetRegs_canonical (s : State) (p : Nat → Bool) (h : s.Canonical) : (s.resetRegs p).Canonical :=
  ⟨h.1, Sparse.wf_clearIf Reg.reset s.regs p h.2⟩

theorem State.count_canonical (s : State) (k n : Nat) (h : s.Canonical) : (s.count k n).Canonical := by
  unfold State.count
  split
  · exact h
  · exact ⟨h.1, Sparse.wf_set Reg.reset s.regs k _ h.2⟩

theorem State.cause_canonical (s : State) (i : Nat) (h : s.Canonical) : (s.cause i).Canonical := by
  unfold State.cause
  split
  · exact h
  · dsimp only
    split
    · exact State.setReg_canonical s _ _ h
    · exact State.setReg_canonical s _ _ h

theorem State.markLines_memWf (s : State) (p a n : Nat) : (s.markLines p a n).memWf = s.memWf ∧ (s.markLines p a n).regs = s.regs := by
  unfold State.markLines
  split <;> exact ⟨rfl, rfl⟩

theorem State.bankWrite_canonical (s : State) (p a : Nat) (bs : List Byte) (h : s.Canonical) : (s.bankWrite p a bs).Canonical := by
  have hm := (State.memWf_iff s).mp h.1
  unfold State.bankWrite
  refine ⟨?_, ?_⟩
  · rw [(State.markLines_memWf _ p a _).1, State.memWf_iff]
    exact ⟨Mem.wf_write _ _ _ hm.1, hm.2⟩
  · unfold State.regsWf
    rw [(State.markLines_memWf _ p a _).2]
    exact h.2

theorem State.bankClear_canonical (s : State) (p b : Nat) (h : s.Canonical) : (s.bankClear p b).Canonical := by
  have hm := (State.memWf_iff s).mp h.1
  exact ⟨(State.memWf_iff _).mpr ⟨Mem.wf_zero _ _ _ hm.1, hm.2⟩, h.2⟩

theorem State.devWrite_canonical (s : State) (a : Nat) (bs : List Byte) (h : s.Canonical) : (s.devWrite a bs).Canonical := by
  have hm := (State.memWf_iff s).mp h.1
  unfold State.devWrite
  split
  · exact ⟨(State.memWf_iff _).mpr ⟨hm.1, hm.2.1, Mem.wf_write _ _ _ hm.2.2.1, hm.2.2.2⟩, h.2⟩
  · exact ⟨(State.memWf_iff _).mpr ⟨hm.1, Mem.wf_write _ _ _ hm.2.1, hm.2.2⟩, h.2⟩

/-- A fold of steps that keep a state canonical keeps it canonical. -/
theorem foldl_canonical {β : Type} (f : State → β → State) (hf : ∀ s x, s.Canonical → (f s x).Canonical) (l : List β) (s : State)
    (h : s.Canonical) : (l.foldl f s).Canonical := by
  induction l generalizing s with
  | nil => exact h
  | cons x l ih => exact ih _ (hf s x h)

end Sys2Proof.Machine
end

