-- ==== Sys2Proof/Laws/Canonical.lean ====
section
/-! SUPPORT. The shared operations keep every table canonical, said once for each: counters, first records, events, errors, completions,
accesses to banks and HBM, and the start of a word. -/

namespace Sys2Proof.Machine

theorem State.modTile_canonical (s : State) (p : Nat) (f : TileState → TileState) (h : s.Canonical) : (s.modTile p f).Canonical := h

theorem State.countS_canonical (s : State) (b : Bool) (k n : Nat) (h : s.Canonical) : (s.countS b k n).Canonical := by
  unfold State.countS
  split
  · unfold State.countShadow
    split <;> exact h
  · exact s.count_canonical k n h

theorem State.first_canonical (s : State) (k valid v : Nat) (h : s.Canonical) : (s.first k valid v).Canonical := by
  unfold State.first
  split
  · exact h
  · exact s.setReg_canonical k v h

theorem State.firstS_canonical (s : State) (b : Bool) (k valid v : Nat) (h : s.Canonical) : (s.firstS b k valid v).Canonical := by
  unfold State.firstS
  split
  · split <;> exact h
  · exact s.first_canonical k valid v h

theorem State.eventRaw_canonical (s : State) (code sev src wher : Nat) (dr : Bool) (mv : Nat) (data : List Byte) (h : s.Canonical) :
    (s.eventRaw code sev src wher dr mv data).Canonical := by
  unfold State.eventRaw
  split
  · exact h
  · dsimp only
    have h1 : ∀ (q : Recorder) (k n : Nat), (({ s with recorder := q } : State).count k n).Canonical := fun q k n =>
      State.count_canonical _ k n h
    split
    · exact State.cause_canonical _ _ (h1 _ _ _)
    · exact h1 _ _ _

theorem State.event_canonical (s : State) (code sev src wher : Nat) (items : List EvtItem) (h : s.Canonical) :
    (s.event code sev src wher items).Canonical := s.eventRaw_canonical _ _ _ _ _ _ _ h

theorem State.eventAt_canonical (s : State) (mv code sev src wher : Nat) (items : List EvtItem) (h : s.Canonical) :
    (s.eventAt mv code sev src wher items).Canonical := s.eventRaw_canonical _ _ _ _ _ _ _ h

theorem State.setJobState_canonical (s : State) (st : Nat) (h : s.Canonical) : (s.setJobState st).Canonical := by
  unfold State.setJobState
  split
  · exact h
  · exact State.cause_canonical _ _ (s.setFld_canonical _ _ _ _ h)

theorem State.snapAbandon_canonical (s : State) (h : s.Canonical) : s.snapAbandon.Canonical := by
  unfold State.snapAbandon
  split
  · refine State.event_canonical _ _ _ _ _ _ (State.count_canonical _ _ _ (State.setFld_canonical _ _ _ _ _ (State.setFld_canonical _ _ _ _ _ ?_)))
    exact h
  · exact h

theorem State.withJob_canonical (s : State) (j : JobState) (h : s.Canonical) : State.Canonical { s with job := j } := h

theorem State.reportAt_canonical (s : State) (sev code die y physX loc src wher : Nat) (h : s.Canonical) :
    (s.reportAt sev code die y physX loc src wher).Canonical := by
  unfold State.reportAt
  have h1 := State.snapAbandon_canonical _ (s.event_canonical code sev src wher [] h)
  generalize (s.event code sev src wher []).snapAbandon = s1 at h1 ⊢
  refine State.withJob_canonical _ _ ?_
  split
  · exact State.setReg_canonical _ _ _ h1
  · exact h1

theorem State.tileError_canonical (s : State) (p code loc : Nat) (h : s.Canonical) : (s.tileError p code loc).Canonical :=
  s.reportAt_canonical _ _ _ _ _ _ _ _ h

theorem State.complete_canonical (s : State) (c : Completion) (h : s.Canonical) : (s.complete c).Canonical :=
  State.count_canonical _ _ _ h

theorem State.finish_canonical (s : State) (r seq status r0 r1 : Nat) (h : s.Canonical) : (s.finish r seq status r0 r1).Canonical := by
  unfold State.finish
  split
  · exact h
  · exact foldl_canonical _ (fun t x ht => t.complete_canonical _ ht) _ _ (State.complete_canonical _ _ h)

theorem State.endJob_canonical (s : State) (status r0 r1 : Nat) (h : s.Canonical) : (s.endJob status r0 r1).Canonical := by
  unfold State.endJob
  split
  · exact h
  · exact State.finish_canonical _ _ _ _ _ _ h

/-! ### Banks -/

theorem State.eccFirst_canonical (s : State) (p code : Nat) (f : BankFlip) (h : s.Canonical) : (s.eccFirst p code f).Canonical := by
  unfold State.eccFirst
  dsimp only
  split
  · exact h
  · exact s.setReg_canonical _ _ h

theorem State.correctFlip_canonical (s : State) (p : Nat) (f : BankFlip) (h : s.Canonical) : (s.correctFlip p f).Canonical :=
  State.eccFirst_canonical _ p _ f (s.count_canonical _ _ h)

theorem State.spoilFlip_canonical (s : State) (p : Nat) (f : BankFlip) (h : s.Canonical) : (s.spoilFlip p f).Canonical := by
  have h1 := s.count_canonical (Reg.tlBankCount p (4 + f.bank % 4)) 1 h
  have hm := (State.memWf_iff _).mp h1.1
  exact ⟨(State.memWf_iff _).mpr ⟨Mem.wf_write _ _ _ hm.1, hm.2⟩, h1.2⟩

/-! ### HBM -/

theorem State.hbmFirst_canonical (s : State) (code a sym : Nat) (scrub : Bool) (h : s.Canonical) : (s.hbmFirst code a sym scrub).Canonical := by
  unfold State.hbmFirst
  dsimp only
  split
  · exact h
  · exact s.setReg_canonical _ _ h

theorem State.atomFault_canonical (s : State) (sev : Nat) (scrub : Bool) (x : AtomHit) (h : s.Canonical) : (s.atomFault sev scrub x).Canonical := by
  unfold State.atomFault
  have bad : ∀ t : State, t.Canonical → (((t.count (Reg.hbmCount (stackOf x.addr) 2) 1).hbmFirst 0x0919 x.addr 0x7F scrub).reportAt sev 0x0919
      (stackOf x.addr / 4) 0 0 (stackOf x.addr + x.addr / 64 * 2 ^ 24) srcHbm (stackOf x.addr)).Canonical := fun t ht =>
    State.reportAt_canonical _ _ _ _ _ _ _ _ _ (State.hbmFirst_canonical _ _ _ _ _ (t.count_canonical _ _ ht))
  dsimp only
  split
  · exact State.hbmFirst_canonical _ _ _ _ _ (s.count_canonical _ _ h)
  · exact s.count_canonical _ _ h
  · exact bad _ h
  · exact s.count_canonical _ _ h
  · exact bad _ (s.count_canonical _ _ h)

theorem State.countRemaps_canonical (s : State) (r : AddrRun) (h : s.Canonical) : (s.countRemaps r).Canonical :=
  foldl_canonical _ (fun t _ ht => t.count_canonical _ _ ht) _ _ h

theorem State.hbmAccess_canonical (s : State) (env : MemEnv) (runs : List AddrRun) (h : s.Canonical) : (s.hbmAccess env runs).Canonical :=
  foldl_canonical _ (fun t r ht => t.countRemaps_canonical r ht) _ _ (foldl_canonical _ (fun t x ht => t.atomFault_canonical _ _ x ht) _ _ h)

theorem State.hbmTouch_canonical (s : State) (a n : Nat) (h : s.Canonical) : (s.hbmTouch a n).Canonical := by
  refine foldl_canonical _ (fun t i ht => ?_) _ _ h
  split
  · exact t.setFld_canonical _ _ _ _ ht
  · exact ht

theorem State.delivered_canonical (s : State) (env : MemEnv) (h : s.Canonical) : (s.delivered env).Canonical := by
  have hm := (State.memWf_iff s).mp h.1
  have hf : ∀ (l : List AtomHit) (m : Mem), Memory.wf m = true →
      Memory.wf (l.foldl (fun m (x : AtomHit) => Mem.zero m (x.addr / 64 * 64) (x.addr / 64 * 64 + 64)) m) = true := by
    intro l
    induction l with
    | nil => exact fun m hm => hm
    | cons x l ih => exact fun m hm => ih _ (Mem.wf_zero _ _ _ hm)
  exact ⟨(State.memWf_iff _).mpr ⟨hm.1, hf _ _ hm.2.1, hm.2.2⟩, h.2⟩

/-! ### The start of a word -/

theorem State.start_canonical (s : State) (t : Nat) (ok : Nat → Bool) (w i : Nat) (u : State) (h : s.Canonical)
    (hs : s.start t ok = some (w, i, u)) : u.Canonical := by
  unfold State.start at hs
  split at hs
  · split at hs
    · cases hs
    · split at hs
      · cases hs
        exact s.setFld_canonical _ _ _ _ h
      · cases hs
  · cases hs

end Sys2Proof.Machine
end

