-- ==== Sys2Proof/WellFormed.lean ====
section
/-! DEFINITION. Well-formed commands: operands that the unit concerned can be given. The finite types of Syntax bound tiles, dies, stacks,
ports and rings; here are the bounds of the other operands. A meaning does not depend on them: outside them it acts as its rules say. -/

namespace Sys2Proof

/-- A place in a tile bank: bank, line, codeword of eight bytes, bit of the 72-bit codeword (R163, R179). -/
def BankFlip.wf (f : BankFlip) : Bool := decide (f.bank < 4) && (decide (f.line < 8192) && (decide (f.word < 8) && decide (f.bit < 72)))

/-- Requesters of a read port are numbered 0 to 5, those of a write port 0 to 4 (R171, R172). -/
def Clash.wf (c : Clash) : Bool := decide (c.bank < 4) && c.who.all (fun w => decide (w < if c.write then 5 else 6))

/-- An accumulator of a 64 × 64 set and an FP32 pattern (R75). -/
def ArrayHit.wf (h : ArrayHit) : Bool := decide (h.m < 64) && (decide (h.n < 64) && decide (h.value < 2 ^ 32))

def OpEnv.wf (e : OpEnv) : Bool := e.flips.all BankFlip.wf && (e.clashes.all Clash.wf && e.hits.all ArrayHit.wf)

/-- A symbol of an atom's code word lies in 0 to 67; an interface transfer is retried one to four times (R257). -/
def AtomFault.wf : AtomFault → Bool
  | .corrected x => decide (x < 68)
  | .onDie => true
  | .uncorrectable => true
  | .retried n => decide (1 ≤ n) && decide (n ≤ 4)
  | .transferFailed => true

/-- An atom lies on a multiple of 64 in the device address space of HBM (R251). -/
def AtomHit.wf (h : AtomHit) : Bool := decide (h.addr % 64 = 0) && (decide (h.addr < 2 ^ 40) && h.fault.wf)

/-- A router of the device, one of its nine input ports, one of the four codewords of a row, each of 256 bits and ten check bits (R184, R185,
R207). -/
def NetHit.wf (h : NetHit) : Bool := decide (h.router < 1024) && (decide (h.port < 9) && (decide (h.word < 4) && decide (h.bit < 266)))

/-- Edge ports present rows of 128 bytes (R185). -/
def NetEnv.wf (e : NetEnv) : Bool :=
  e.edges.all (fun r => decide (5 ≤ r.1) && (decide (r.1 < 9) && decide (r.2.length = 128))) && (e.hits.all NetHit.wf && e.bank.wf)

def TileEnv.wf (e : TileEnv) : Bool := decide (e.tile < 1024) && e.env.wf

def Publisher.wf : Publisher → Bool
  | .tile _ _ _ => true
  | .edge _ _ _ row => decide (row.length = 128)

/-- An MCTP request holds at least its header (R488). -/
def MgmtReq.wf : MgmtReq → Bool
  | .mctp bytes => decide (8 ≤ bytes.length)
  | .mailbox => true

def PowerOn.wf (x : PowerOn) : Bool := decide (x.badCopies < 4) && decide (x.mv < 2 ^ 16)

/-- The 23 sensors of MGT_TEMP (R530). -/
def Sensors.wf (x : Sensors) : Bool :=
  decide (x.temps.length = 23) && x.temps.all (fun t => match t with
    | none => true
    | some v => decide (v < 2 ^ 16))

/-- A well-formed command. -/
def Instr.wf : Instr → Bool
  | .tick => true
  | .scaleTick => true
  | .lossScaleUpdate => true
  | .stepLimitStop => true
  | .mma _ env => env.wf
  | .distAbs _ env => env.wf
  | .distSq _ env => env.wf
  | .minplus _ env => env.wf
  | .arrayLate _ => true
  | .drain _ env => env.wf
  | .knCopy _ env => env.wf
  | .knAccumulate _ env => env.wf
  | .knExpand _ env => env.wf
  | .knPlan _ env => env.wf
  | .knSegment _ env => env.wf
  | .knPrune _ env => env.wf
  | .knCompress _ env => env.wf
  | .knMergeAcc _ env => env.wf
  | .knMergeSeg _ env => env.wf
  | .knightLate _ => true
  | .vecAdd _ env => env.wf
  | .vecSub _ env => env.wf
  | .vecMul _ env => env.wf
  | .vecFma _ env => env.wf
  | .vecAxpy _ env => env.wf
  | .vecMax _ env => env.wf
  | .vecMin _ env => env.wf
  | .vecCvt _ env => env.wf
  | .vecExp _ env => env.wf
  | .vecRecip _ env => env.wf
  | .vecRsqrt _ env => env.wf
  | .vecQuant _ env => env.wf
  | .vecDequant _ env => env.wf
  | .vecQcal _ env => env.wf
  | .vecTopk _ env => env.wf
  | .vecTopkExit _ env => env.wf
  | .vecNorm _ env => env.wf
  | .vecOptim _ env => env.wf
  | .vecReduceForward _ env => env.wf
  | .vecReduceFinal _ env => env.wf
  | .vecReducePublish _ env => env.wf
  | .vecReduceWiden _ env => env.wf
  | .dmaIn _ env => env.wf
  | .dmaOut _ env => env.wf
  | .dmaLate _ => true
  | .dmaOutComplete _ _ env mem => env.wf && mem.all AtomHit.wf
  | .transferLanded _ _ env mem => env.wf && mem.all AtomHit.wf
  | .send _ => true
  | .recv _ => true
  | .claim _ => true
  | .bankGive _ => true
  | .bankWakeDone _ _ => true
  | .commit _ => true
  | .discard _ => true
  | .slotStatic _ _ _ env => env.wf
  | .slotAdd _ _ _ env => env.wf
  | .slotReturn _ _ _ hits => hits.all NetHit.wf
  | .listOpen _ l => decide (l < 64)
  | .listClose _ l => decide (l < 64)
  | .keeperClaim _ _ _ hits => hits.all NetHit.wf
  | .keeperPublish src hits => src.wf && hits.all NetHit.wf
  | .workItemReceive _ hits => hits.all NetHit.wf
  | .knightItem _ env => env.wf
  | .denseItem _ env => env.wf
  | .vectorItem _ env => env.wf
  | .framePush _ f => decide (f < 4096)
  | .frameOffload _ f => decide (f < 4096)
  | .offloadComplete _ f mem => decide (f < 4096) && mem.all AtomHit.wf
  | .framePrefetch _ f => decide (f < 4096)
  | .prefetchComplete _ f mem => decide (f < 4096) && mem.all AtomHit.wf
  | .framePop _ f => decide (f < 4096)
  | .voteFormation => true
  | .voteFinal => true
  | .decisionFormation _ => true
  | .decisionFinal => true
  | .expertDispatch l mem => decide (l < 64) && mem.all AtomHit.wf
  | .expertReturn l mem => decide (l < 64) && mem.all AtomHit.wf
  | .expertCombine l mem => decide (l < 64) && mem.all AtomHit.wf
  | .reduceStagingCopy c mem => decide (c < 256) && mem.all AtomHit.wf
  | .collectiveStage c mem => decide (c < 256) && mem.all AtomHit.wf
  | .reshardFence => true
  | .snapshotCapture mem banks => mem.all AtomHit.wf && banks.all TileEnv.wf
  | .snapshotCaptureDone => true
  | .snapshotPartnerSecured => true
  | .snapshotFlashSecured _ => true
  | .selfTest _ => true
  | .selfTestVerdict _ _ _ => true
  | .eccRetest _ _ => true
  | .repairRecordWrite => true
  | .hbmRefresh _ _ => true
  | .hbmPatrolScrub hit => hit.wf
  | .hbmSelfRefresh _ => true
  | .hbmRepairGo _ value _ => decide (value < 2 ^ 64)
  | .hbmRepairDone _ => true
  | .petalDispatch env => env.wf
  | .gatherPool _ _ mem => mem.all AtomHit.wf
  | .scatterAdd _ _ mem => mem.all AtomHit.wf
  | .sparseOptim _ _ mem => mem.all AtomHit.wf
  | .petalCompress _ mem => mem.all AtomHit.wf
  | .decompress _ mem => mem.all AtomHit.wf
  | .petalFill _ mem => mem.all AtomHit.wf
  | .petalCopy _ mem => mem.all AtomHit.wf
  | .petalComplete _ => true
  | .ownerStagingDrain => true
  | .hbmOwnRead mem => mem.all AtomHit.wf
  | .hbmOwnWrite => true
  | .emptyFillDone => true
  | .portSignalDetect _ => true
  | .portTrained _ lanes => decide (lanes < 256)
  | .portTrainingTimeout _ => true
  | .portTrainingRetry _ => true
  | .linkProbe _ n => decide (n < 2 ^ 32)
  | .linkEcho _ _ => true
  | .linkIdent _ _ => true
  | .linkRetrain _ => true
  | .linkCredit _ _ => true
  | .linkNack _ seq => decide (seq < 4096)
  | .nackRepeat _ => true
  | .markerReceive _ _ => true
  | .linkMarkerLost _ => true
  | .flitReceive _ damage bytes => decide (bytes.length = 256) && damage.all (fun q => decide (q.1 < 256) && q.2 != 0)
      && decide ((damage.map (fun q => q.1)).Nodup)
  | .msgForward _ => true
  | .msgWrite _ => true
  | .msgReadReq _ mem => mem.all AtomHit.wf
  | .msgReadResp _ => true
  | .msgReduce _ => true
  | .msgDispatch _ => true
  | .msgAnswer _ => true
  | .msgVote _ => true
  | .msgBarrier _ => true
  | .msgSnapshot _ => true
  | .msgAck _ => true
  | .ackSend c => decide (c < 8192)
  | .xportResend c due => decide (c < 8192) && due.all (fun q => decide (q < 2 ^ 32))
  | .frakelCountReport _ => true
  | .nop _ => true
  | .load _ => true
  | .loadCheckOnly _ => true
  | .unload _ => true
  | .start _ => true
  | .stop _ => true
  | .register _ => true
  | .unregister _ => true
  | .petal _ => true
  | .memcopy _ => true
  | .reshard _ => true
  | .flashRead _ => true
  | .returnSlot _ => true
  | .restore _ => true
  | .completionPost _ => true
  | .sqDoorbell _ value _ => decide (value < 2 ^ 32)
  | .cqDoorbell _ value => decide (value < 2 ^ 32)
  | .ringCtlWrite _ _ value => decide (value < 2 ^ 32)
  | .intCauseClear value _ => decide (value < 2 ^ 32)
  | .ioDieReset => true
  | .dieReset => true
  | .fundamentalReset _ gen width => decide (gen ≤ 6) && decide (width ≤ 16)
  | .flr => true
  | .d3hotEntry => true
  | .d0Return => true
  | .hostPoisonedWrite => true
  | .hostReadFault _ => true
  | .bar0FaultAccess addr bytes => decide (addr < 2 ^ 26) && decide (bytes ≤ 4096)
  | .bar2Read addr bytes mem => decide (addr < 2 ^ 40) && (decide (bytes ≤ 4096) && mem.all AtomHit.wf)
  | .bar2Write addr data mem => decide (addr < 2 ^ 40) && (decide (data.length ≤ 4096) && mem.all AtomHit.wf)
  | .hostCountReport => true
  | .powerOn x => x.wf
  | .perstDeassert gen width => decide (gen ≤ 6) && decide (width ≤ 16)
  | .hbmInitDone _ => true
  | .getIdentity q => q.wf
  | .getCert q => q.wf
  | .attest q => q.wf
  | .fwBegin q => q.wf
  | .fwData q => q.wf
  | .fwEnd q => q.wf
  | .fwActivate q => q.wf
  | .fwConfirm q => q.wf
  | .fwReject q => q.wf
  | .fwSessionTimeout => true
  | .fwTrialTimer _ => true
  | .fwWatchdog _ => true
  | .servicePauseEnd _ => true
  | .evtPost q => q.wf
  | .cfgGet q => q.wf
  | .cfgSet q => q.wf
  | .cfgDelete q => q.wf
  | .settingsCompact => true
  | .mtrRead q => q.wf
  | .timeGet q => q.wf
  | .timeSet q => q.wf
  | .setEndpointId inst op eid => decide (inst < 32) && (decide (op < 4) && decide (eid < 256))
  | .getEndpointId inst => decide (inst < 32)
  | .getMctpVersionSupport inst => decide (inst < 32)
  | .getMessageTypeSupport inst => decide (inst < 32)
  | .mboxGo => true
  | .mgtTimeWrite value => decide (value < 2 ^ 64)
  | .evtSelWrite value _ => decide (value < 2 ^ 64)
  | .eventFlashDrain => true
  | .evtDropReport => true
  | .meterSample _ _ => true
  | .meterSecond => true
  | .meterWorkMessage _ => true
  | .meterLinkTimeout => true
  | .meterTamper => true
  | .meterSelfcheckFail => true
  | .inputVoltageChange _ => true
  | .inputMarginTimeout => true
  | .inputRestored _ => true
  | .powerPeak => true
  | .powerFast _ => true
  | .powerSlow _ => true
  | .powerRaise => true
  | .clockReducedNotice => true
  | .sensorPoll x => x.wf
  | .thermalTrip => true
  | .tripRecovery _ => true
  | .refclkCheck _ _ => true
  | .tlArrRepairWrite _ value => decide (value < 2 ^ 32)
  | .dieRowRepairWrite _ _ value => decide (value < 2 ^ 32)
  | .tlBankOwnWrite _ _ value => decide (value < 2 ^ 32)
  | .tlQntWrite _ off value => decide (off < 0x4000) && decide (value < 2 ^ 32)
  | .qntCalReset _ => true
  | .netStepLimitWrite value => decide (value < 2 ^ 64)
  | .hbmCastleSizeWrite _ value => decide (value < 2 ^ 32)
  | .frkAddrWrite _ value => decide (value < 2 ^ 32)
  | .xepochWrite value => decide (value < 2 ^ 32)
  | .frkRouteRead => true
  | .frkRouteWrite => true
  | .portRetrain _ => true
  | .netRepairRead => true
  | .netRepairRemove => true
  | .snapNow => true
  | .castleClear => true
  | .counterClear addr value _ => decide (addr < 2 ^ 26) && decide (value < 2 ^ 32)
  | .registerWrite addr wide value => decide (addr < 2 ^ 26) && decide (value < 2 ^ (if wide then 64 else 32))
  | .flitBoundary _ => true
  | .memcopyComplete _ mem => mem.all AtomHit.wf
  | .flashReadComplete _ => true

end Sys2Proof
end

