-- ==== Sys2Proof/Tests/Slice0.lean ====
section
/-! SUPPORT. Tests of the model: ill-formed commands are refused, single commands do on small states what the spec's rules say, and every
hypothesis of a statement is met by a state written here. Each test's expected value comes from the rule its comment names. -/

namespace Sys2Proof.Tests

set_option Elab.async false

open Sys2Proof Sys2Proof.Machine

/-! ### Well-formedness: an ill-formed command for each check -/

/-- A tile operation whose environment is ill-formed in one way each. -/
def illEnvs : List OpEnv :=
  [⟨[⟨4, 0, 0, 0, false⟩], [], [], false⟩, ⟨[⟨0, 8192, 0, 0, false⟩], [], [], false⟩, ⟨[⟨0, 0, 8, 0, false⟩], [], [], false⟩,
   ⟨[⟨0, 0, 0, 72, false⟩], [], [], false⟩, ⟨[], [⟨4, false, [0], 0⟩], [], false⟩, ⟨[], [⟨0, false, [6], 0⟩], [], false⟩,
   ⟨[], [⟨0, true, [5], 0⟩], [], false⟩, ⟨[], [], [⟨64, 0, 0⟩], false⟩, ⟨[], [], [⟨0, 64, 0⟩], false⟩, ⟨[], [], [⟨0, 0, 2 ^ 32⟩], false⟩]

/-- HBM accesses that are ill-formed in one way each. -/
def illAtoms : List AtomHit :=
  [⟨32, .onDie⟩, ⟨2 ^ 40, .onDie⟩, ⟨0, .corrected 68⟩, ⟨0, .retried 0⟩, ⟨0, .retried 5⟩]

/-- Rows on the network that are ill-formed in one way each. -/
def illRows : List NetHit := [⟨1024, 0, 0, 0, false⟩, ⟨0, 9, 0, 0, false⟩, ⟨0, 0, 4, 0, false⟩, ⟨0, 0, 0, 266, false⟩]

/-- Commands that are ill-formed in one way each. -/
def illFormed : List Instr :=
  illEnvs.map (Instr.mma 0) ++ (illAtoms.map Instr.hbmPatrolScrub ++ illRows.map (fun h => Instr.workItemReceive 0 [h])) ++
  [.slotStatic 0 0 0 ⟨[(4, [])], [], ⟨[], [], [], false⟩⟩, .slotStatic 0 0 0 ⟨[(9, [])], [], ⟨[], [], [], false⟩⟩,
   .slotStatic 0 0 0 ⟨[(5, [])], [], ⟨[], [], [], false⟩⟩, .keeperPublish (.edge 0 0 0 []) [], .snapshotCapture [] [⟨1024, ⟨[], [], [], false⟩⟩],
   .getIdentity (.mctp []), .powerOn ⟨none, true, true, true, true, [], 4, 48000⟩, .powerOn ⟨none, true, true, true, true, [], 0, 2 ^ 16⟩,
   .sensorPoll ⟨[], none⟩, .sensorPoll ⟨List.replicate 23 (some (2 ^ 16)), none⟩] ++
  [.listOpen 0 64, .listClose 0 64, .framePush 0 4096, .frameOffload 0 4096, .offloadComplete 0 4096 [], .framePrefetch 0 4096,
   .prefetchComplete 0 4096 [], .framePop 0 4096, .expertDispatch 64 [], .expertReturn 64 [], .expertCombine 64 [], .reduceStagingCopy 256 [],
   .collectiveStage 256 [], .hbmRepairGo 0 (2 ^ 64) true, .portTrained 0 256, .linkProbe 0 (2 ^ 32), .linkNack 0 4096, .flitReceive 0 [] [],
   .ackSend 8192, .xportResend 8192 [], .sqDoorbell 0 (2 ^ 32) [], .cqDoorbell 0 (2 ^ 32), .ringCtlWrite true 0 (2 ^ 32), .intCauseClear (2 ^ 32) [],
   .fundamentalReset true 7 16, .fundamentalReset true 6 17, .bar0FaultAccess (2 ^ 26) 4, .bar0FaultAccess 0 4097, .bar2Read (2 ^ 40) 4 [],
   .bar2Read 0 4097 [], .bar2Write (2 ^ 40) [] [], .bar2Write 0 (List.replicate 4097 0) [], .perstDeassert 7 16, .perstDeassert 6 17] ++
  [.setEndpointId 32 0 8, .setEndpointId 0 4 8, .setEndpointId 0 0 256, .getEndpointId 32, .getMctpVersionSupport 32, .getMessageTypeSupport 32,
   .mgtTimeWrite (2 ^ 64), .evtSelWrite (2 ^ 64) [], .tlArrRepairWrite (.tile 0) (2 ^ 32), .dieRowRepairWrite 0 0 (2 ^ 32),
   .tlBankOwnWrite (.tile 0) 0 (2 ^ 32), .tlQntWrite (.tile 0) 0x4000 0, .tlQntWrite (.tile 0) 0 (2 ^ 32), .netStepLimitWrite (2 ^ 64),
   .hbmCastleSizeWrite 0 (2 ^ 32), .frkAddrWrite true (2 ^ 32), .xepochWrite (2 ^ 32), .counterClear (2 ^ 26) 0 [], .counterClear 0 (2 ^ 32) [],
   .registerWrite (2 ^ 26) false 0, .registerWrite 0 false (2 ^ 32), .registerWrite 0 true (2 ^ 64)]

theorem test_ill_formed_refused : illFormed.all (fun c => !c.wf) = true := by decide +kernel

theorem test_well_formed : [Instr.tick, .mma 0 ⟨[⟨3, 8191, 7, 71, true⟩], [⟨3, false, [5], 9⟩, ⟨0, true, [4], 0⟩], [⟨63, 63, 2 ^ 32 - 1⟩], false⟩,
    .hbmPatrolScrub ⟨64, .corrected 67⟩, .listOpen 3 63].all Instr.wf = true := by decide +kernel

/-- The table gives no row bits: a word spells no command. -/
theorem test_no_bits : decodeTableWord 32 5 = none ∧ State.reset.withFetchWord 32 5 = State.reset := by decide +kernel

/-! ### Small states -/

/-- Little-endian fields: width in bytes, value. -/
def bytesOf (l : List (Nat × Nat)) : List Byte := l.flatMap (fun q => leBytes q.1 q.2)

/-- A word from fields: lowest bit, value. -/
def wordOf (l : List (Nat × Nat)) : Nat := (l.map (fun q => q.2 * 2 ^ q.1)).foldl (· + ·) 0

/-- A state with these registers. -/
def withRegs (s : State) (l : List (Nat × Nat)) : State := l.foldl (fun s q => s.setReg q.1 q.2) s

/-- A running job whose image holds these sections, each covering every tile. -/
def jobOf (secs : List (Nat × List Byte)) (regs : List (Nat × Nat)) : State :=
  withRegs { State.reset with job := { JobState.reset with image := some ⟨1, 9, 0, 0, secs.map (fun q => ⟨0, q.1, 0, 0xFF, 0xFF, 0xFF, q.2⟩)⟩ } }
    ((Reg.netJobState, jobRUNNING) :: regs)

/-- A BODY section of one word and the end marker. -/
def bodyOf (w : Nat) : Nat × List Byte := (secBODY, bytesOf [(4, 2), (12, 0), (16, w), (16, 0)])

/-- Nothing goes wrong. -/
def calm : OpEnv := ⟨[], [], [], false⟩

/-- A running job whose tiles start one word, the banks of tile 0 in one owner state. -/
def wordJob (w own : Nat) (secs : List (Nat × List Byte)) : State :=
  jobOf (bodyOf w :: secs) [(Reg.tlBankOwn 0 0, own), (Reg.tlBankOwn 0 1, own), (Reg.tlBankOwn 0 2, own), (Reg.tlBankOwn 0 3, own)]

/-- What holds of the word that tile 0 starts, and of the state in which it has started. -/
def started (s : State) (ok : Nat → Bool) (p : Nat → State → Bool) : Bool :=
  match s.start 0 ok with
  | none => false
  | some (w, _, u) => p w u

/-- A command answers a state of which `p` holds. -/
def gives (c : Instr) (s : State) (p : State → Bool) : Bool :=
  match exec c s with
  | .next u => p u
  | _ => false

/-- No bank stands in the way of an operation's lines. -/
def freeLines (v : State) (u : BankUnit) (reads writes : List LineRun) : Bool :=
  (v.blockedReads 0 u false reads ++ v.blockedWrites 0 u false writes).isEmpty

/-- FP32 patterns of 1, 2, 3. -/
def one32 : Nat := 0x3F800000
def two32 : Nat := 0x40000000
def three32 : Nat := 0x40400000

/-! ### The whole block -/

/-- Hypotheses of StepRunsTheFrontCommand: a command waits; none does, with the controller running and not, and with stacks in training. -/
theorem witness_queue : { State.reset with pending := [.snapNow] }.pending = .snapNow :: [] ∧ State.reset.pending = []
    ∧ State.reset.mgmt.running = false ∧ { State.reset with mgmt := { Mgmt.reset with running := true } }.mgmt.running = true
    ∧ (withRegs State.reset [(Reg.hqDevStatus, 0x20)]).fld Reg.hqDevStatus 7 4 = 2 := by decide +kernel

theorem test_step_takes_the_front : (match step { State.reset with pending := [.snapNow, .tick] } with
  | .next u => u.snap.now && u.pending == [.tick]
  | _ => false) = true := by decide +kernel

theorem test_idle : (match step State.reset with
  | .next u => u == State.reset
  | _ => false) = true := by decide +kernel

/-- Hypotheses of EveryStepGoesOnAndKeepsTablesCanonical and CommandsKeepQueueOrderAndMove. -/
theorem witness_canonical_step : State.reset.Canonical ∧ gives .snapNow State.reset (fun u => changesMove .snapNow == false && u.memWf) = true :=
  ⟨⟨by decide +kernel, by decide +kernel⟩, by decide +kernel⟩

/-- R68: a counter stops at its all-ones value. -/
theorem test_counter_saturates :
    (withRegs State.reset [(Reg.netResCount 0, 2 ^ 32 - 2)]).count (Reg.netResCount 0) 3 |>.reg (Reg.netResCount 0) |> (· == 2 ^ 32 - 1) := by decide +kernel

/-- Hypotheses of SequencersStartWordsInOrder: a word that starts, one of another kind that does not. -/
theorem witness_sequencer : started (wordJob 1 0 []) (fun w => wOpcode w == 1) (fun w u => w == 1 && (u.tile 0).next == 1) = true
    ∧ ((wordJob 1 0 []).start 0 (fun w => wOpcode w == 2)).isNone = true ∧ gives (.distAbs 0 calm) (wordJob 1 0 []) (· == wordJob 1 0 []) = true := by
  decide +kernel

/-! ### The engines of the tile -/

/-- An array word of one chunk in FP32: M = N = 64, A at line 0, B at line 8192 (bank 1), CLEAR. -/
def arrayWord (op : Nat) : Nat := wordOf [(0, op), (63, 8192), (79, 1), (80, 64), (87, 64), (94, 1)]

/-- A holds 1 at row 0, column 0; B holds 3 at row 0, column 0. -/
def arrayJob (op : Nat) : State := ((wordJob (arrayWord op) ownFEEDER []).bankWrite 0 0 (leBytes 4 one32)).bankWrite 0 (2 ^ 19) (leBytes 4 three32)

/-- Hypotheses of ArrayOperationsAccumulate, for each operation, at the greatest M and N. -/
theorem witness_array : arrayCommands.all (fun q => started (arrayJob q.1) (fun w => wOpcode w == q.1) (fun w _ =>
    let f := arrWord w
    f.m == 64 && (f.n == 64 && (f.kc == 1 && (f.set == 0 && f.clear))))
      && (!(arrayJob q.1).job.err && started (wordJob q.1 ownFEEDER []) (fun w => wOpcode w == q.1) (fun w _ => (arrWord w).m == 0))) = true
    ∧ quiet calm := by
  constructor
  · decide +kernel
  · exact ⟨rfl, rfl, rfl, rfl⟩

/-- R105: after an uncorrectable error of the move its word starts no operation. -/
theorem test_array_after_error : arrayCommands.all (fun q => gives (q.2 0 calm) { arrayJob q.1 with job := { (arrayJob q.1).job with err := true } } (fun u =>
    (u.tile 0).accAt 0 0 0 == 0 && (u.tile 0).next == 1)) = true := by decide +kernel

/-- R83, R86, R87: 0 + 1 × 3, 0 + |1 − 3|, 0 + (1 − 3)², and MINPLUS of rows with one element that differs from 0. -/
theorem test_array : [(1, three32), (2, two32), (3, 0x40800000), (4, 0)].all (fun q =>
    let w := wordOf [(0, q.1), (63, 8192), (79, 1), (80, 1), (87, 1), (94, 1)]
    let s := ((wordJob w ownFEEDER []).bankWrite 0 0 (leBytes 4 one32)).bankWrite 0 (2 ^ 19) (leBytes 4 three32)
    let c := if q.1 = 1 then Instr.mma 0 calm else if q.1 = 2 then .distAbs 0 calm else if q.1 = 3 then .distSq 0 calm else .minplus 0 calm
    gives c s (fun u => (u.tile 0).accAt 0 0 0 == q.2)) = true := by decide +kernel

/-- Hypotheses of LateOperationsAreUncorrectableErrors: each note, in a running job; and none. -/
theorem witness_late : [(Instr.arrayLate 0, { TileState.reset with lateArray := 2 }), (.knightLate 0, { TileState.reset with lateKnight := 1 }),
    (.dmaLate 0, { TileState.reset with lateDma := 1 })].all (fun q =>
      let s := (jobOf [] []).setTile 0 q.2
      gives q.1 s (fun u => u.job.err && u.job.tests.length == 1) && gives q.1 (jobOf [] []) (· == jobOf [] [])) = true := by decide +kernel

/-- A DRAIN of one row of N = 64 from set 0 to line 8192 as FP32, with scale 1, bias 1 and no bound. -/
def drainJob : State :=
  ((wordJob (wordOf [(0, 5), (48, 8192), (85, 1)]) ownVECTOR [(secPARAMS, List.replicate 64 0 ++ bytesOf [(1, 0), (1, 0), (1, 0), (1, 1), (1, 2)]),
    (secCONSTANTS, bytesOf [(4, 3), (4, one32), (4, 0xFF800000), (4, 0x7F800000)])]).setTile 0 { TileState.reset with set0 := ⟨1, 64, false, false⟩ }).modTile 0
    (fun t => t.setAcc 0 0 63 two32)

/-- Hypotheses of DrainWritesItsRows, at N = 64, and of its clause for a word that runs nothing; R60: the element of column 63 stands at its place. -/
theorem witness_drain : started drainJob (fun w => wOpcode w == 5) (fun w v =>
      let f := drainWord w
      decide (0 < f.m) && (!drainJob.job.err && (decide (((v.tile 0).accSet f.set).heldN ≤ 64) && (decide (64 * f.dstLine + f.m * pitch f.fmt ≤ 2 ^ 21)
        && (List.range f.m).all (fun k => v.writeOkAt 0 (bankOf (64 * (f.dstLine + k * pitchLines f.fmt))) .drain (wPre w) (wOffset w + f.beat * k + 9)))))) = true
    ∧ gives (.drain 0 calm) drainJob (fun u => leNat (u.bankRead 0 (2 ^ 19 + 4 * 63) 4) == three32) = true
    ∧ started (wordJob 5 ownVECTOR []) (fun w => wOpcode w == 5) (fun w _ => (drainWord w).m == 0) = true := by decide +kernel

/-- A Knight word of one block with its record: KC, M, N; ROWPTR, INDEX, VALUE, SRC, DST and AUX in bank 0; NNZ_MAX, S_ROWS, NR, L = 1. -/
def knightJob (op mode bits : Nat) : State :=
  wordJob (wordOf [(0, op), (48, mode), (52, 1), (62, bits)]) ownKNIGHT
    [(secPARAMS, List.replicate 64 0 ++ bytesOf [(1, 0), (1, 1), (1, 1), (1, 1), (2, 0), (2, 64), (2, 128), (2, 192), (2, 256), (2, 320), (4, 1), (4, 1), (2, 1),
      (2, 1), (2, 0)])]

/-- Hypotheses of KnightOperationsActAsTheirModeSays, for each mode, and of KnightPlansPathsAndCutsRows. -/
theorem witness_knight : knightCommands.all (fun q =>
    started (knightJob q.1 q.2.1 0) (fun w => wOpcode w == q.1 && bits w 51 48 == q.2.1) (fun w v =>
      let f := knWord w (v.param 0 (bits w 78 71))
      let e := v.view 0 .knight f.pre
      freeLines v .knight (e.knRuns 0 q.1 f) (e.knWrites 0 q.1 f)
        && (!f.isDyn q.1 && (!f.idle q.1 && (f.kc == 1 && (decide (64 * f.aux + 8 ≤ 2 ^ 21) && (v.writeOkAt 0 (bankOf (64 * f.aux)) .knight f.pre v.offset
        && (f.sRows == 1 && (f.l == 1 && (decide (f.vfmt ≤ 6) && (v.writeOkAt 0 (bankOf (64 * f.dst)) .knight f.pre v.offset
        && decide (f.m ≤ 64 ∧ ((v.tile 0).accSet f.buf).heldN ≤ 64)))))))))))) = true := by decide +kernel

/-- Its other clauses: a DYNAMIC ACCUMULATE, and for each mode a word whose record holds zeros alone. -/
theorem witness_knight_other : started (knightJob 0x10 1 2) (fun w => wOpcode w == 0x10 && bits w 51 48 == 1) (fun w v =>
      (knWord w (v.param 0 (bits w 78 71))).isDyn 0x10) = true
    ∧ knightCommands.all (fun q => started (wordJob (wordOf [(0, q.1), (48, q.2.1)]) ownKNIGHT []) (fun w => wOpcode w == q.1 && bits w 51 48 == q.2.1)
      (fun w v => let f := knWord w (v.param 0 (bits w 78 71)); !f.isDyn q.1 && f.idle q.1)) = true := by decide +kernel

/-- R139 and R133: KN_PLAN of a block without non-zeros leaves its bit 0; a row of 4,097 non-zeros is cut into 4,096 and 1. -/
theorem test_knight : gives (.knPlan 0 calm) (knightJob 0x12 0 0) (fun u => leNat (u.bankRead 0 (64 * 320) 8) == 0 && u.lineIsValid 0 320) = true
    ∧ (knItems 5 7 [(100, 4097)]).map (fun b => (leAt b 4 4, leAt b 8 2)) = [(100, 4096), (4196, 1)] := by decide +kernel

/-- A vector word of one FP32 row: sources at bytes 0 and 256, destination at byte 512. -/
def vectorJob (op : Nat) (const : Nat) (secs : List (Nat × List Byte)) : State :=
  ((wordJob (wordOf [(0, op), (69, 4), (84, 512), (105, 1), (118, const)]) ownVECTOR secs).bankWrite 0 0 (leBytes 4 one32)).bankWrite 0 256 (leBytes 4 two32)

/-- Hypotheses of VectorElementRowsAreWritten, for each operation. -/
theorem witness_vector : elementCommands.all (fun q =>
    started (vectorJob q.1 0 []) (fun w => wOpcode w == q.1) (fun w s0 =>
      let f := vecWord w
      let v := s0.view 0 .vector f.pre
      freeLines s0 .vector (s0.vecReads 0 q.1 f) (s0.vecWrites 0 q.1 f)
        && (f.rows == 1 && (s0.writeOkAt 0 (bankOf f.dst) .vector f.pre s0.offset && decide (f.dst + pitch (v.vecOutFmt 0 q.1 f) ≤ 2 ^ 21))))
      && started (wordJob q.1 ownVECTOR []) (fun w => wOpcode w == q.1) (fun w _ => (vecWord w).rows == 0)) = true := by decide +kernel

/-- R116: 1 − 2 in element 0. -/
theorem test_vector : gives (.vecSub 0 calm) (vectorJob 0x21 0 []) (fun u => leNat (u.bankRead 0 512 4) == 0xBF800000) = true := by decide +kernel

/-- A TOPK_OPS section of one record: mode, gate, E = 1. -/
def topkOf (mode : Nat) : Nat × List Byte := (0x40, bytesOf [(8, 1), (1, mode), (1, 0), (2, 1)])

/-- A REDUCE_OPS section of one record: mode, wire format 3 (E4M3), output FP32. -/
def reduceOf (mode : Nat) : Nat × List Byte := (0x61, bytesOf [(8, 1), (1, mode), (1, 3), (5, 0)])

/-- Hypotheses of VectorSpecialOperationsComplete, for each of its words, with a row and with ROWS 0. -/
theorem witness_vector_special :
    [0x32, 0x39, 0x3A].all (fun op => started (vectorJob op 0 []) (fun w => wOpcode w == op) (fun w _ => (vecWord w).rows == 1)
      && started (wordJob op ownVECTOR []) (fun w => wOpcode w == op) (fun w _ => (vecWord w).rows == 0)) = true
    ∧ [0, 2].all (fun m =>
      let s := vectorJob 0x38 0 [topkOf m]
      let word := fun (s : State) (w : Nat) => wOpcode w == 0x38 && ((s.topkRec 0 (bits w 125 118)).mode == 2) == (m == 2)
      started s (word s) (fun w v =>
        let f := vecWord w
        v.writeOkAt 0 (bankOf f.dst) .vector false v.offset && (!f.pre && (f.rows / (s.topkRec 0 f.const).h == 1 && decide (f.dst + 16 ≤ 2 ^ 21))))
      && (let z := wordJob 0x38 ownVECTOR [topkOf m]
          started z (word z) (fun w _ => (vecWord w).rows == 0))) = true := by decide +kernel

/-- Hypotheses of ReduceOperationsComplete, for each mode, and of its second clause. -/
theorem witness_reduce : reduceCommands.all (fun q => started (vectorJob 0x3B 0 [reduceOf q.1])
      (fun w => wOpcode w == 0x3B && ((vectorJob 0x3B 0 [reduceOf q.1]).redRec 0 (bits w 125 118)).mode == q.1) (fun w _ => (vecWord w).rows == 1)) = true
    ∧ started (vectorJob 0x3B 0 [reduceOf 1]) (fun w => wOpcode w == 0x3B) (fun w v =>
      let f := vecWord w
      v.writeOkAt 0 (bankOf f.dst) .vector false v.offset && decide (f.dst + 64 ≤ 2 ^ 21)) = true := by decide +kernel

/-- R415: within its bounds a scale exponent rises at once to its NEED and falls by one step when values were lost below. -/
theorem test_next_exponent : [nextExp false 0 3 5, nextExp false 1 5 3, nextExp false 0 5 3, nextExp true 1 5 3, nextExp false 1 (-126) (-127)] = [5, 4, 5, 5, -126] := by
  decide +kernel

/-- R340: the choice records of VEC_TOPK and R413: NEED of {448} is 0, of {449} 1, of nothing −127 (E4M3: fmax = 448). -/
theorem test_need : [needOf 3 [.int 448], needOf 3 [.int 449], needOf 3 [.int 0], needOf 4 [.int 57344], needOf 3 [.int 448, .nan]] = [0, 1, -127, 0, 0] := by
  decide +kernel

/-- Hypotheses of NeedIsTheSmallestExponent: both formats; no finite non-zero value, and one. -/
theorem witness_need : (∀ x ∈ [Num.int 0], x.isFin = true → x.isZero = true) ∧ (∃ x ∈ [Num.int 7], x.isFin = true ∧ x.isZero = false) := by decide +kernel

/-! ### The tick -/

/-- A job of steps of one move, of which move 0 of 512 cycles has run to its end; `m` moves to a step. -/
def tickJob (m : Nat) (secs : List (Nat × List Byte)) (regs : List (Nat × Nat)) : State :=
  jobOf secs ([(Reg.netStepMoves, m), (Reg.netMoveCtl, 9), (Reg.netMoveOffset, 511)] ++ regs)

/-- A transfer of tile 0 due at the tick that ends move 0 has not landed. -/
def holdJob (secs : List (Nat × List Byte)) (regs : List (Nat × Nat)) : State :=
  (tickJob 4 secs regs).setTile 0 { TileState.reset with dma := [⟨0, 0, 1, false, 0, 0, [], false, false, []⟩] }

/-- The same with an error of R40 met. -/
def failed (s : State) : State := { s with job := { s.job with err := true } }

/-- Hypotheses of TicksEndTheMove, with and without the step limit at this tick. -/
theorem witness_tick : [tickJob 4 [] [], tickJob 1 [] [(Reg.netStepLimit, 1)]].map (fun s => let v := s.atEnd
      (s.lastCycle && (v.tickReady && !v.job.err), v.limitNow)) = [(true, false), (true, true)]
    ∧ noStopAsked (tickJob 4 [] []).atEnd ∧ (State.lastCycle State.reset) = false := by
  unfold noStopAsked
  decide +kernel

/-- Hypotheses of HeldTicksChangeOnlyCounts, and R31: the hold counts against LANDING. -/
theorem witness_hold : (let s := holdJob [] []
     let v := s.atEnd
     s.lastCycle && (!v.tickReady && (!v.job.err && (v.reshard.isNone
       && gives .tick s (fun u => u.move == 0 && (u.held && (u.reg (Reg.netHoldCause 1) == 1 && u.reg (Reg.netHoldCause 0) == 0))))))) = true := by decide +kernel

/-- A move that has come to its last cycle with a word not started, an error met. -/
def stuckJob : State := failed (withRegs (wordJob 1 0 []) [(Reg.netStepMoves, 4), (Reg.netMoveCtl, 9), (Reg.netMoveOffset, 511)])

/-- Hypotheses of ErrorsStopTheJobAtTheTick: at a tick that can occur, and in a move that can no longer end. -/
theorem witness_error_stop : (let s := failed (tickJob 4 [] []); s.lastCycle && (s.atEnd.job.err && s.atEnd.tickReady)) = true
    ∧ (stuckJob.lastCycle && (stuckJob.atEnd.job.err && (!stuckJob.atEnd.tickReady && stuckJob.atEnd.prevented))) = true := by decide +kernel

/-- Hypotheses of ScaleTicksAdaptEverySlot: no SEQUENCE section names another tick; slot 2 of tile 0 is of the training class; and a tick that is none. -/
theorem witness_scale_tick : (let s := tickJob 4 [] [(Reg.tlQntSlotCtl 0 2, 1)]
    let v := s.atEnd
    s.lastCycle && (v.tickReady && (v.scaleTickNow && (!v.job.scaleDone && v.physTiles.any (fun p => slotTraining (v.reg (Reg.tlQntSlotCtl p 2))))))) = true
    ∧ (let s := tickJob 4 [(secSEQUENCE, bytesOf [(8, 0), (4, 3)])] []
       s.lastCycle && (s.atEnd.tickReady && !s.atEnd.scaleTickNow)) = true := by
  decide +kernel

/-- R124: a slot that saturated takes the next greater exponent when its limit allows. -/
theorem test_scale_rule : scaleRule 3 1 0 4 (.int 500) (.int 448) = 4 ∧ scaleRule 3 0 0 4 (.int 448) (.int 448) = 3 := by decide +kernel

/-- Hypotheses of TheLossScaleFollowsTheVote, for a false vote and a true one. -/
theorem witness_loss_scale : [0, 2].all (fun v =>
    let s := tickJob 1 [(0x32, bytesOf [(4, 0), (4, 5), (4, 0)])] [(Reg.netVoteStatus, v)]
    let v1 := s.atEnd
    s.lastCycle && (v1.tickReady && (v1.stepEnds && (!v1.trainSec.isEmpty && (!v1.job.lossDone && isBit (v1.reg Reg.netVoteStatus) 1 == (v == 2)))))) = true
    ∧ (let s := tickJob 4 [] []
       s.lastCycle && (s.atEnd.tickReady && !s.atEnd.stepEnds)) = true := by decide +kernel

/-! ### Banks -/

/-- A BANK_GIVE of bank 1 to KNIGHT. -/
def giveJob : State := wordJob (wordOf [(0, 0x48), (48, 1), (50, ownKNIGHT)]) ownRETAINED []

/-- Hypotheses of BanksAreHandedOver; R173: a bank that leaves RETAINED wakes. -/
theorem witness_banks : started giveJob (fun w => wOpcode w == 0x48) (fun w _ => giveJob.bankState 0 (bits w 49 48) != ownSPEC) = true
    ∧ (let s := withRegs giveJob [(Reg.tlBankOwn 0 1, ownSPEC)]
       started s (fun w => wOpcode w == 0x48) (fun w _ => s.bankState 0 (bits w 49 48) == ownSPEC)) = true
    ∧ gives (.bankGive 0) giveJob (fun u => u.bankState 0 1 == ownKNIGHT && u.bankWaking 0 1) = true
    ∧ State.reset.idleJob = true ∧ (withRegs State.reset [(Reg.hqDevStatus, 0x51)]).diesUp = true := by decide +kernel

/-- Tile 0 has come to its COMMIT and DISCARD words; domain 3, whose group holds it, has decided. -/
def premoveJob (status : Nat) : State :=
  jobOf [(secBODY, bytesOf [(4, 3), (12, 0), (16, wordOf [(0, 0x49), (48, ownVECTOR)]), (16, wordOf [(0, 0x4A), (48, ownDMA)]), (16, 0)]),
      (0x42, bytesOf [(8, 1), (1, 3), (1, 0), (2, 1), (4, 0)]), (secGROUPS, bytesOf [(8, 1), (2, 1), (2, 1), (2, 0)])]
    [(Reg.netStepMoves, 4), (Reg.netMoveNumber, 1), (Reg.netMoveCtl, 9), (Reg.netMoveOffset, 511), (Reg.netDecStatus 3, status), (Reg.tlBankOwn 0 0, ownSPEC)]

/-- Hypotheses of PremovesAreCommittedOrDiscarded for both decisions; R176: the bank takes the target of its word. -/
theorem witness_premove : [(12, true, ownVECTOR), (4, false, ownDMA)].all (fun q =>
    let s := premoveJob q.1
    let v := s.atEnd.scaleFirst
    s.lastCycle && (s.atEnd.tickReady && (!s.atEnd.job.err && ((s.atEnd.resolution 0).isSome && ((v.resolution 0).isSome && ((match v.premoveDomain 0 with
      | some r => r.domain == 3
      | none => false) && (isBit (v.reg (Reg.netDecStatus 3)) 2 && (isBit (v.reg (Reg.netDecStatus 3)) 3 == q.2.1
    && gives (if q.2.1 then .commit 0 else .discard 0) s (fun u => u.bankState 0 0 == q.2.2))))))))) = true
    ∧ (withRegs (wordJob 1 0 []) [(Reg.netMoveCtl, 9)]).lastCycle = false := by decide +kernel

/-! ### DMA, network, work lists, frames -/

/-- A stack with one frame of 64 bytes: ring of 4,096 bytes at 8192, host region 1, when it pushes and pops. -/
def stackSec (policy high push pop : Nat) : Nat × List Byte :=
  (0x30, bytesOf [(8, 8192), (8, 4096), (8, high), (8, 0), (1, 1), (1, 0), (30, 1), (8, 0), (4, 64), (4, policy), (4, push), (4, pop), (8, 256)])

/-- A COPY of 16 FP32 elements between device address `dev` and byte 64 of bank 0. -/
def copyDesc (out : Bool) (dev : Nat) : List Byte :=
  padTo 128 (bytesOf [(1, 0), (1, 0), (1, if out then 2 else 1), (5, 1), (8, if out then 64 else dev), (8, if out then dev else 64), (16, 16), (24, 0), (8, 64), (8, 64)])

/-- A DMA word of `n` descriptors at line 0, due in the next move, in a move of no push or pop. -/
def dmaJob (op n : Nat) (desc : List Byte) : State :=
  (wordJob (wordOf [(0, op), (63, n), (71, 1)]) ownDMA [stackSec 1 64 7 8, (secLANDINGS, bytesOf [(8, 1), (2, 1), (2, 1)])]).bankWrite 0 0 desc

/-- Hypotheses of DmaWordsOpenTransfers in both directions: no descriptor; one of zeros, which passes; one of kind 3, which fails with 0x0101;
one that meets the ring. -/
theorem witness_dma_issue : [(false, 0x40), (true, 0x41)].all (fun q =>
    started (dmaJob q.2 0 []) (fun w => wOpcode w == q.2) (fun w _ => bits w 70 63 == 0)
    && [([], none, none), ([(3 : Byte)], some (0, 0x0101), none), (copyDesc q.1 8192, none, some (0, 0))].all (fun d =>
    started (dmaJob q.2 1 d.1) (fun w => wOpcode w == (if q.1 then 0x41 else 0x40)) (fun w v =>
      let l := if q.1 then (0, 0) else v.landing 0 (bits w 90 79)
      bits w 70 63 == 1 && ((v.blockedReads 0 .dma false [⟨bits w 62 48, 2 * bits w 70 63⟩]).isEmpty
        && (v.chainFault 0 q.1 (64 * l.1) (64 * l.1 + 64 * l.2) (dmaDescs v 0 w) == d.2.1 && (d.2.1.isSome || v.stackFault q.1 (dmaDescs v 0 w) == d.2.2)))))) = true := by
  decide +kernel

/-- Tile 0 has this open transfer. -/
def xferJob (x : DmaXfer) : State :=
  { (wordJob 0 ownDMA []).setTile 0 { TileState.reset with dma := [x] } with hbm := Mem.write [] 4096 (leBytes 4 one32) }

/-- Hypotheses of TransfersEnd: a DMA_IN of one run; a DMA_OUT of one run whose source has not been read, and one whose source has. R184: the bytes
stand at their destination. -/
theorem witness_transfers :
    (let x : DmaXfer := ⟨0, 0, 1, false, 1, 1, [copyDesc false 4096], false, false, []⟩
     let s := xferJob x
     let d := descOf (copyDesc false 4096)
     (s.tile (s.phys 0)).dma[0]? == some x && (s.xferReady 0 0 x && ((s.xferPetals 0 x).isEmpty && (x.moving == [d] && (!d.dstDev && (d.kind == 0
       && (d.levels == 1 && (d.fmt != 6 && (d.srcDev && (!isHostAddr d.src && (oneBank d.dst d.run && (decide (d.dst < 2 ^ 21)
     && (s.writeOkAt 0 (bankOf d.dst) .dma false s.offset
     && gives (.transferLanded 0 0 calm []) s (fun u => leNat (u.bankRead 0 64 4) == one32)))))))))))))) = true
    ∧ [false, true].all (fun read =>
     let x : DmaXfer := ⟨0, 0, 1, true, 0, 0, [copyDesc true 4096], read, false, []⟩
     let s := (xferJob x).bankWrite 0 64 (leBytes 4 two32)
     let d := descOf (copyDesc true 4096)
     s.xferReady 0 0 x && ((s.xferPetals 0 x).isEmpty && (x.moving == [d] && (d.dstDev && (!d.srcDev && (d.kind == 0 && (d.levels == 1 && (d.fmt != 6
       && (!isHostAddr d.dst && (oneBank d.src d.run && (decide (d.src < 2 ^ 21) && (s.readOkAt 0 (bankOf d.src) .dma false s.offset
       && (!s.isLate 0 d.src d.run
     && (gives (.transferLanded 0 0 calm []) s (fun u => (u.tile 0).dma.any (fun y => y.landed && !y.acked))
     && gives (.dmaOutComplete 0 0 calm []) s (fun u => (u.tile 0).dma.any (fun y => y.acked) && (read || Mem.le u.hbm 4096 4 == two32)))))))))))))))) = true := by
  decide +kernel

/-- Hypotheses of NetworkWordsOpenTheirRows, for each word. -/
theorem witness_network_words : [0x42, 0x43, 0x44].all (fun op => started (wordJob op ownDMA []) (fun w => wOpcode w == op) (fun _ _ => true)) = true := by
  decide +kernel

/-- A slot entry of one slot: output, first and second input, kind, cycle, route 0. -/
def slotBytes (out inp in2 kind cyc : Nat) : List Byte := bytesOf [(1, out + 16 * inp), (1, in2 + 16 * kind), (2, 0), (4, cyc), (2, 1), (2, 1), (4, 0)]

/-- Every router has these slot entries; die 0 keeps list 3, CLAIM_AHEAD 2, capacity 4, open from cycle 9 to cycle 12 of move 0, of the group of
tile `t`. -/
def slotJob (entries : List (List Byte)) (t : Nat) (secs : List (Nat × List Byte)) : State :=
  jobOf ([(secSLOTS, leBytes 16 entries.length ++ entries.flatten), (secROUTES, bytesOf [(8, 0), (1, 1)]),
      (secLISTS, bytesOf [(8, 1), (1, 3), (1, 1), (2, 2), (4, 4), (4, 0), (4, 9), (4, 0), (4, 12)]), (secGROUPS, bytesOf [(8, 1), (2, 1), (2, 1), (2, t)])] ++ secs)
    [(Reg.tlBankOwn 18 0, ownDMA), (Reg.tlBankOwn 18 1, ownDMA), (Reg.tlBankOwn 4 0, ownDMA), (Reg.tlBankOwn 4 1, ownDMA)]

/-- A row of FP32 ones. -/
def oneRow : NetRow := ⟨0, (List.range 32).flatMap (fun _ => leBytes 4 one32), false⟩

/-- Rows at input ports 3 and 4 of router 17 in cycle 5. -/
def withRows (s : State) : State := { s with wires := [⟨17, 3, 5, oneRow⟩, ⟨17, 4, 5, oneRow⟩] }

/-- Hypotheses of SlotsForwardTheirRows: to the next router, to LOCAL, an addition, and a RETURN slot; R191: the row stands at the router above two
cycles later; R190: a slot is used once. -/
theorem witness_slots : (let s := withRows (slotJob [slotBytes 1 3 0 0 5] 17 [])
     (match s.slotDue 17 0 0 [0] with
       | some (x, c) => x.inp == 3 && (x.out == 1 && (c == 5 && ((onWire s.wires 17 3 5).isSome && hop 17 1 == some (33, 3, 2))))
       | none => false) && gives (.slotStatic 17 0 0 ⟨[], [], calm⟩) s (fun u => u.wires == [⟨17, 4, 5, oneRow⟩, ⟨33, 3, 7, oneRow⟩]
         && (u.slotDue 17 0 0 [0]).isNone)) = true
    ∧ (let s := (withRows (slotJob [slotBytes 0 3 0 0 5] 17 [])).modTile 18 (fun t => { t with recvs := [⟨0, 0, 1, 0, 0, 0⟩] })
       (match s.slotDue 17 0 0 [0] with
         | some (x, c) => x.out == 0 && (c == 5 && (s.phys 17 == 18 && ((s.useSlot 17 0 0 5).writeOkAt 18 0 .dma false (s.useSlot 17 0 0 5).offset
           && oneRow.bytes.length == 128)))
         | none => false) && gives (.slotStatic 17 0 0 ⟨[], [], calm⟩) s (fun u => u.bankRead 18 0 128 == oneRow.bytes)) = true
    ∧ (let s := withRows (slotJob [slotBytes 1 3 4 1 5] 17 [])
       match s.slotDue 17 0 0 [1] with
         | some (x, c) => x.in2 == 4 && (x.inp == 3 && (x.out == 1 && (c == 5 && (onWire s.wires 17 4 5).isSome)))
         | none => false) = true
    ∧ (match (slotJob [slotBytes 1 0 0 2 5] 17 []).slotDue 17 0 0 [2] with
         | some (x, _) => x.inp == 0
         | none => false) = true := by decide +kernel

/-- Tile 4, above a keeper port of die 0 (XH0), with CLAIM, GRANT, PUBLISH and DEAL slots of its own; list 3 holds items, the tile has a window on
it and an item to publish. -/
def listJob (isOpen : Bool) (items : List (List Byte)) (engine : Nat) (item : List Byte) : State :=
  let s := (slotJob [slotBytes 5 0 0 3 5, slotBytes 0 5 0 4 11, slotBytes 5 0 0 5 7, slotBytes 0 5 0 6 13] 4 []).setList 0 3 ⟨isOpen, false, items⟩
  s.modTile 4 (fun t => { t with window := some ⟨3, 0, 99, 0, engine, 0⟩, publish := [⟨0, 3, [1]⟩], items := if item.isEmpty then [] else [⟨3, item⟩] })

/-- A row that is presented at I/O-die port 8 of die 0's lower edge and goes west to the keeper port of tile 4. -/
def edgeJob (isOpen : Bool) : State :=
  (slotJob [slotBytes 4 5 0 5 5, slotBytes 4 2 0 5 7, slotBytes 4 2 0 5 9, slotBytes 4 2 0 5 11, slotBytes 5 2 0 5 13] 4 []).setList 0 3 ⟨isOpen, false, []⟩

/-- What holds of the row that tile 4 presents in the slot of an entry, and of the keeper's turn. -/
def presents (s : State) (e kind : Nat) (p : SentRow → Slot → Bool) : Bool :=
  match s.rowSent 4 e 0 kind with
  | none => false
  | some (s1, r, last, n) => (s1.keeperTurn 0 (last.cyc + 2) n).isSome && (tDie last.t == 0 && p r last)

/-- Hypotheses of KeepersServeTheirLists: opening and closing with its DEAL slot; R203: the item left is dealt. -/
theorem witness_keepers : (let s := listJob false [] 0 []
     let c := listJob true [[7]] 0 []
     (s.listRec 0 3).any (fun r => s.stepMove == r.openMove && (decide (s.offset ≤ r.openOff) && (s.stepMove == r.closeMove && decide (s.offset ≤ r.closeOff))))
     && (s.running && (!s.held && (!(s.list 0 3).isOpen && ((c.list 0 3).isOpen && (c.groupTiles 1 == [4] && ((c.dealCycles 0 4 12).length == 1
       && (gives (.listOpen 0 3) s (fun u => (u.list 0 3).isOpen)
       && gives (.listClose 0 3) c (fun u => u.grants == [⟨15, 4, 3, 3, [[7]]⟩] && !(u.list 0 3).isOpen))))))))) = true := by decide +kernel

/-- Its hypotheses for a claim; R201: an open list gives its oldest item, EMPTY or CLOSED else. -/
theorem witness_claims : [(listJob true [[7]] 0 [], 0), (listJob true [] 0 [], 1), (listJob false [] 0 [], 2)].all (fun q =>
      presents q.1 0 3 (fun r last => r.list == 3 && (q.1.grantDue last == some 13
        && gives (.keeperClaim 4 0 0 []) q.1 (fun u => u.grants.map (fun g => (g.due, g.status)) == [(13, q.2)])))) = true := by decide +kernel

/-- Its hypotheses for PUBLISH rows: of a tile, and of an edge port to an open list and to a closed one. -/
theorem witness_publishes : presents (listJob true [[7]] 0 []) 2 5 (fun r _ => r.list == 3 && (r.items == [[1]]
      && gives (.keeperPublish (.tile 4 2 0) []) (listJob true [[7]] 0 []) (fun u => (u.list 0 3).items == [[7], [1]]))) = true
    ∧ [true, false].all (fun o =>
       let s := edgeJob o
       let row := padTo 128 [1, 3]
       (match s.slotDue 8 0 0 [5] with
         | some (x, c) =>
           let last := s.wayEnd s.plan 4096 ⟨8, 0, 0, x, c⟩
           last.t == 4 && (last.cyc == 13 && ((keeperPort last.t last.x.out).any (fun n => (s.keeperTurn 0 (last.cyc + 2) n).isSome) && openPort 8 x.inp))
         | none => false) && (leAt row 1 1 == 3 && ((rowItems row).length == 1 && gives (.keeperPublish (.edge 8 0 0 row) []) s (fun u =>
           (u.list 0 3).items.length == b2n o && u.reg (Reg.dieNetCount 0 4) == 1 - b2n o)))) = true := by decide +kernel

/-- Hypotheses of RowsReachTheirTiles: a GRANT row; a header row and a row of a result. -/
theorem witness_rows : (let s := { slotJob [] 17 [] with grants := [⟨9, 17, 3, 0, [[7]]⟩] }
     s.running && (!s.held && (decide (s.offset ≤ 9) && gives (.workItemReceive 0 []) s (fun u => (u.tile 18).items == [⟨3, [7]⟩])))) = true
    ∧ [true, false].all (fun h =>
      let s := (slotJob [slotBytes 1 0 0 2 5] 17 [(0x43, bytesOf [(8, 1), (1, 3), (1, 1)])]).modTile 18 (fun t => { t with returns := [⟨3, 128, [5], h⟩] })
      match s.slotDue 17 0 0 [2] with
      | none => false
      | some (y, c) =>
        let w := s.wayEnd s.plan 4096 ⟨17, 0, 0, y, c⟩
        y.inp == 0 && (h || (s.listDie 17 3 == some 0 && ((s.listOwner 0 3) == some 17 && (!(byteRun 128 1).crosses
          && (s.useSlot 17 0 0 c).writeOkAt 18 (bankOf 128) .dma false (w.cyc + 2)))))) = true := by decide +kernel

/-- Items, all of one element or row: Knight, DENSE with FP32 output, VECTOR. -/
def knightItemBytes (n : Nat) : List Byte := bytesOf [(8, 0), (2, n), (3, 0), (1, 1), (2, 0)]
def denseItemBytes (m : Nat) : List Byte := bytesOf [(6, 0), (1, m), (1, 1), (1, 1), (1, 0x11), (4, 0), (1, 2), (1, 0)]
def vectorItemBytes (rows : Nat) : List Byte := bytesOf [(6, 0), (1, 0x20), (1, rows), (6, 0), (1, 3), (1, 0)]
/-- None of their fields at 14 and 15 has this value. -/
def badItemBytes : List Byte := bytesOf [(14, 0), (2, 7)]

/-- Hypotheses of ItemsReturnTheirRows: items of each engine, with and without elements, and one that is not valid. -/
theorem witness_items : [(0, knightItemBytes 1), (0, knightItemBytes 0), (0, badItemBytes), (2, denseItemBytes 1), (2, denseItemBytes 0), (2, badItemBytes),
      (1, vectorItemBytes 1), (1, vectorItemBytes 0), (1, badItemBytes)].all (fun q =>
      match (listJob true [] q.1 q.2).headItem 4 q.1 with
        | some (_, x, b, rest) => x.list == 3 && (b.bytes == q.2 && rest.isEmpty)
        | none => false) = true
    ∧ knightOk (knightItemBytes 1) = true ∧ knightOk (knightItemBytes 0) = true ∧ knightOk badItemBytes = false
    ∧ denseOk (denseItemBytes 1) = true ∧ denseOk (denseItemBytes 0) = true ∧ denseOk badItemBytes = false ∧ (denseDrain (denseItemBytes 1)).fmt ≠ 7
    ∧ (let w := arrWord (denseMma 0 (denseItemBytes 1))
       (arrRunsA w [true] ++ arrRunsB w [true]).any LineRun.crosses = false)
    ∧ (itemRuns 0x20 (itemVec (vectorItemBytes 1))).any LineRun.crosses = false
    ∧ [vectorItemBytes 1, vectorItemBytes 0].all (fun b => (listJob true [] 1 b).vectorOk 4 b) = true
    ∧ (listJob true [] 1 badItemBytes).vectorOk 4 badItemBytes = false
    ∧ (match (listJob true [] 0 (knightItemBytes 1)).headItem 4 0 with
       | some (s0, x, _, _) => ((s0.view 4 .knight false).segRuns 4 (knWord ((s0.body 4 s0.plan).getD (s0.tile 4).dynOp 0) (s0.param 4 x.param)) 0 1).any LineRun.crosses
         == false
       | none => false) = true := by decide +kernel

/-- A stack of die 0 with one frame of 64 bytes that is pushed and popped in move 0, the frame in this state; ring at 8192, host region 1. -/
def frameJob (policy : Nat) (x : Frame) (high : Nat) : State :=
  ({ jobOf [stackSec policy high 0 0] [] with
    regions := [(1, ⟨2 ^ 20, 4096⟩)], hbm := Mem.write [] 8192 [9, 8, 7] }).setFrame 0 0 x

/-- Hypotheses of FramesMoveBetweenTheirStates, for each of its six commands; R314: the states the frame passes through. -/
theorem witness_frames : [(Instr.framePush 0 0, frameJob 0 Frame.reset 64, 1), (.frameOffload 0 0, frameJob 1 ⟨2, false, true, false⟩ 0, 3),
      (.offloadComplete 0 0 [], frameJob 1 ⟨3, false, true, false⟩ 0, 4), (.framePrefetch 0 0, frameJob 1 ⟨4, false, true, true⟩ 0, 5),
      (.prefetchComplete 0 0 [], frameJob 1 ⟨5, false, true, false⟩ 0, 2), (.prefetchComplete 0 0 [], frameJob 1 ⟨5, false, true, true⟩ 0, 6),
      (.framePop 0 0, frameJob 0 ⟨2, false, true, false⟩ 64, 6)].all (fun q => gives q.1 q.2.1 (fun u => (u.frame 0 0).st == q.2.2)) = true
    ∧ (let s := frameJob 1 ⟨2, false, true, false⟩ 0
       s.stackRuns && (s.markNeeds 0 0 && (isHostAddr (s.frameHost 0 0) && (!isHostAddr (s.ringBase 0) && s.rangeFree 0 0)))) = true
    ∧ gives (.offloadComplete 0 0 []) (frameJob 1 ⟨3, false, true, false⟩ 0) (fun u => Mem.read u.hostMem (2 ^ 20 + 256) 3 == [9, 8, 7]) = true := by decide +kernel

/-! ### Votes, decisions, experts, collectives -/

/-- Hypotheses of VotesAreFormedAndMadeFinal: a formation in the vote move of a device that is alone; a landed exchange. -/
theorem witness_votes : (let s := jobOf [(0x32, bytesOf [(4, 1), (12, 0)])] []
     s.running && (!s.job.err && (!s.trainSec.isEmpty && (s.stepMove == s.voteMove && (!s.training.formed && (!s.job.mustRestore
       && (List.range 4).all (fun i => s.axisLen i == 1))))))) = true
    ∧ (jobOf [(0x32, bytesOf [(4, 1), (12, 0)])] []).votersDone = true
    ∧ gives .voteFinal { jobOf [] [] with exch := some ⟨0, 0, 4, false, true, true, [], []⟩ } (fun u => u.exch.isNone && u.fld Reg.netVoteStatus 1 0 == 3) = true
    ∧ gives .voteFinal { jobOf [] [] with exch := some ⟨0, 0, 4, false, true, false, [], []⟩ } (fun u => u.fld Reg.netVoteStatus 1 0 == 1) = true := by
  decide +kernel

/-- A job with decision domain 3: scope, CONTINUE_MIN 2; two survivors counted. -/
def domainJob (scope : Nat) : State :=
  { jobOf [(0x42, bytesOf [(8, 1), (1, 3), (1, scope), (2, 1), (4, 0), (4, 9), (4, 2)])] [] with domSums := [(3, 2)] }

/-- Hypotheses of DecisionsFollowTheSurvivorSum; R358: CONTINUE_MIN survivors say COMMIT. -/
theorem witness_decision : [0, 1].all (fun scope =>
      let s := domainJob scope
      (s.domains.find? (fun r => r.domain == 3)).any (fun r => r.scope == scope && (s.stepMove == r.formMove && decide (s.offset ≤ r.formOff)))
        && (s.running && bits (s.reg (Reg.netDecStatus 3)) 2 1 == 0)) = true
    ∧ gives (.decisionFormation 3) (domainJob 0) (fun u => u.reg (Reg.netDecStatus 3) == 2 * 2 ^ 32 + 12) = true
    ∧ gives .decisionFinal { domainJob 1 with exch := some ⟨4, 0, 4, false, true, true, [(3, 1)], []⟩ } (fun u => u.reg (Reg.netDecStatus 3) == 2 ^ 32 + 4) = true := by
  decide +kernel

/-- Connections to this device itself, one on each virtual channel. -/
def selfConns : Nat × List Byte := (0x50, bytesOf ((8, 4) :: (List.range 4).flatMap (fun v => [(2, v), (2, v), (4, 0), (2, 1), (2, 1), (4, 1)])))

/-- An EXPERTS section: layer 5 of one expert owned here, two sources, QUOTA 2, rows of 64 bytes, four elements in FP32; queues from
65536, answer regions from 131072. -/
def expertSec : Nat × List Byte :=
  (0x41, bytesOf [(8, 1), (1, 5), (1, 1), (2, 1), (2, 2), (2, 2), (2, 0), (1, 0), (1, 0), (2, 64), (2, 4), (4, 1), (4, 0), (4, 0), (1, 0), (1, 0), (2, 0),
    (8, 4096), (8, 8192), (8, 0), (8, 196608), (8, 12288), (24, 0), (8, 0), (8, 65536), (16, 131072)])

/-- A choice of expert 0 by token 0 with weight 1. -/
def expertJob (x : LayerState) : State :=
  { (jobOf [expertSec, selfConns] []).setLayer 5 x with hbm := Mem.write [] 4096 (bytesOf [(4, 0), (2, 0), (2, 0xFFFF), (4, one32)]) }

/-- Hypotheses of ExpertLayersRunTheirPhases, for each phase; R347: the choice is accepted. -/
theorem witness_experts : (let s := expertJob LayerState.reset
     s.xfersRun && (s.running && (!(s.layer 5).dispatched && (s.layerRec 5).any (fun r => r.dispatchMove == 0 && (!s.writesOpen r.choices 16 0
       && (!s.writesOpen r.tokensAddr 128 0 && !isHostAddr r.output)))))) = true
    ∧ gives (.expertDispatch 5 []) (expertJob LayerState.reset) (fun u => (u.layer 5).slots == [(0, 0, 0, 1)]) = true
    ∧ (let s := expertJob { LayerState.reset with dispatched := true }
       (s.layerRec 5).any (fun r => r.returnMove == 0 && (!s.writesOpen (s.expertMap r 0).2.2 (r.sources * r.areg) 0 && (s.answersLanded r && s.ownsExpert r 0)))) = true
    ∧ gives (.expertReturn 5 []) (expertJob { LayerState.reset with dispatched := true }) (fun u => (u.layer 5).returned) = true
    ∧ gives (.expertCombine 5 []) (expertJob { LayerState.reset with dispatched := true, slots := [(0, 0, 0, 1)] }) (fun u => (u.layer 5).combined) = true := by
  decide +kernel

/-- A COLLECTIVES section of collective 2: its kind and blocks. -/
def collSection (kind blocks : Nat) : Nat × List Byte :=
  (0x60, bytesOf [(6, 0), (2, 1), (24, 0), (1, 2), (1, kind), (1, 0), (1, 0), (1, 3), (3, 0), (2, 2), (1, 2), (1, 1), (4, 1), (4, 7), (4, blocks), (4, 1), (4, 0),
    (8, 65536), (8, 131072), (8, 196608), (8, 262144), (8, 0), (8, 65536)])

/-- Tensor 7 with one owner-table entry. -/
def tensorSection : Nat × List Byte := (0x10, bytesOf [(8, 1), (4, 7), (4, 0), (8, 1)])

/-- Collective 2 over an axis of two devices: its kind, one block; tensor 7 with one owner-table entry, whose owner this is. -/
def collJob (kind owner : Nat) (more : List (Nat × List Byte)) (regs : List (Nat × Nat)) : State :=
  { jobOf ([collSection kind 1, tensorSection, selfConns] ++ more)
      ([(Reg.frkAxes, 0x02010101), (Reg.netStepMoves, 4)] ++ regs) with
    hbm := Mem.write [] (State.reset.ownerAddr 0 0) (leBytes 8 (2 ^ 63 + owner * 2 ^ 31)) }

/-- Hypotheses of CollectivesRunTheirStages: the copy; a stage; the fence. -/
theorem witness_collectives : (let s := collJob 0 0 [] []
     (s.collRec 2).any (fun r => s.xfersRun && (r.kind == 0 && (r.copyMove == 0 && (r.startMove == 1 && (!(s.coll 2).copied
       && (!s.writesOpen r.source (r.blocks * s.axisLen r.axis * (2048 * fmtW r.localFmt)) 0 && !isHostAddr r.local_))))))) = true
    ∧ (let s := collJob 0 0 [] [(Reg.netMoveNumber, 1)]
       (s.collRec 2).any (fun r => (s.connRec r.conn).isSome && (s.axisLen r.axis == 2 && (decide (s.stageMove r 0 ≤ s.move)
         && !s.writesOpen r.send 2112 (s.stageMove r 0))))) = true
    ∧ (let s := { tickJob 1 [selfConns] [(Reg.frkAxes, 0x02010101)] with reshard := some ⟨0, 1, 9, [], 1, 0, false, []⟩ }
       s.lastCycle && (s.reshardDue && ((s.conditions s.landed).all (fun c => c) && s.axisLen 0 == 2))) = true := by decide +kernel

/-! ### Messages -/

/-- A message of this device to itself has arrived: its type, virtual channel, ADDR, TAG, payload. -/
def arriving (s : State) (typ vc addr tag : Nat) (payload : List Byte) : State :=
  { s with arrived := [⟨8, vc, 0, 1, s.msgBytes typ vc 0 0 addr tag payload⟩] }

/-- It is admitted. -/
def admitted (s : State) (typ : Nat) (region : State → List Byte → Bool) (p : State → List Byte → Bool) : Bool :=
  match s.accept 0 typ region with
  | (u, some b) => p u b
  | _ => false

/-- Hypotheses of AdmittedMessagesPassTheChecks and of MessagesLandTheirData, for each message; a corrupted one is not admitted. -/
theorem witness_data_messages : admitted (arriving (jobOf [selfConns] []) 3 3 4096 0 [1, 2]) 3 State.jobRange (fun _ b => mAddr b == 4096) = true
    ∧ gives (.msgReadResp 0) (arriving (jobOf [selfConns] []) 3 3 4096 0 [1, 2]) (fun u => Mem.read u.hbm 4096 2 == [1, 2]) = true
    ∧ (let s := arriving (jobOf [selfConns] []) 3 3 4096 0 [1, 2]
       admitted { s with arrived := s.arrived.map (fun m => { m with bytes := m.bytes.set 33 3 }) } 3 State.jobRange (fun _ _ => true)) = false
    ∧ admitted (arriving (collJob 1 (2 ^ 15) [] []) 1 2 131072 2 [1]) 1 State.jobRange (fun u b => (u.collRec (leAt b 28 2)).any (fun r => r.kind == 1
        && (r.recv == mAddr b && (u.blockOwner r 0).any (fun o => coord o.1 r.axis == 1 && (coord u.ownAddr r.axis == 0 && u.axisLen r.axis == 2))))) = true
    ∧ admitted (arriving (collJob 0 0 [] []) 4 1 131072 0 [1]) 4 State.jobRange (fun u b => (u.recvSlot (mAddr b)).any (fun q => q.2.2.2
        && (leAt b 28 1 == u.layoutEpoch && (decide (leAt b 29 1 % 16 < 8) && u.slotCarries q.1 q.2.1 q.2.2.1 (leAt b 30 2))))) = true
    ∧ (let s := expertJob { LayerState.reset with queues := { Landings.reset with heads := [(esKey 0 0, ⟨true, 0, 0, 2, 2⟩)] } }
       admitted (arriving s 5 2 65600 (5 * 256) [1]) 5 State.jobRange (fun u b => (u.layerRec (leAt b 29 1)).any (fun r =>
        leAt b 28 1 == u.expGen && ((u.queueRegion r (mAddr b)).any (fun q => q == (0, 0, 65536)) && ((u.layer 5).queues.pieces.isEmpty
        && ((u.layer 5).queues.fate r.rowBytes ⟨esKey 0 0, 65536⟩ (u.lowerQueues r 0 0) ⟨mSrc b, mAddr b, mPayload b⟩ == .rows
        && decide (mAddr b + 1 ≤ 65536 + 64 + 2 * r.rowBytes))))))) = true
    ∧ admitted (arriving (expertJob LayerState.reset) 5 2 65536 (5 * 256) (padTo 64 (bytesOf [(2, 1), (1, 0), (1, 5), (2, 0), (2, 0)]) ++ [1])) 5 State.jobRange
        (fun u b => (u.layerRec (leAt b 29 1)).any (fun r => (u.queueRegion r (mAddr b)).any (fun q => q == (0, 0, 65536)) && (leAt (mPayload b) 2 1 == u.expGen
        && (leAt (mPayload b) 3 1 == 5 && (decide (leAt (mPayload b) 0 2 ≤ r.quota) && decide ((mPayload b).length ≤ 64 + r.rowBytes)))))) = true
    ∧ (let s := expertJob { LayerState.reset with answers := { Landings.reset with heads := [(0, ⟨true, 0, 0, 1, 1⟩)] } }
       admitted (arriving s 6 2 196672 (5 * 256) [1]) 6 State.jobRange (fun u b => (u.layerRec (leAt b 29 1)).any (fun r =>
        leAt b 28 1 == u.expGen && (decide (r.answers ≤ mAddr b) && ((mAddr b - r.answers) / r.areg == 0 && (decide (0 < r.e) && ((u.layer 5).answers.pieces.isEmpty
        && ((u.layer 5).answers.fate r.ansBytes ⟨0, r.answers⟩ (u.lowerAnswers r 0) ⟨mSrc b, mAddr b, mPayload b⟩ == .rows
        && decide (mAddr b + 1 ≤ r.answers + 64 + r.ansBytes))))))))) = true := by decide +kernel

/-- A device that keeps its own snapshots, with 1 GiB of castle on each die. -/
def castleJob (regs : List (Nat × Nat)) : State :=
  jobOf [(0x70, bytesOf [(4, 0), (4, 0), (2, 2), (2, 2)]), selfConns] ((List.range 4).map (fun d => (Reg.hbmCastleSize d, 1)) ++ regs)

/-- Its hypotheses for a SNAPSHOT. -/
theorem witness_snapshot_message : (let s := castleJob []
     admitted (arriving s 9 2 (s.slotBase 0 2) 1 [1]) 9 castleRange (fun u b => !u.secureSec.isEmpty && (mSrc b == leAt u.secureSec 4 4 % 2 ^ 20
       && (!isBit (leAt u.secureSec 4 4) 31 && (!isHostAddr (mAddr b) && u.inSlot (1 + leAt b 28 4 % 2) (mAddr b) (mLen b)))))) = true := by decide +kernel

/-- A payload of 16 or 1,296 bytes. -/
def payload (n : Nat) (l : List (Nat × Nat)) : List Byte := padTo n (bytesOf l)

/-- Hypotheses of MessagesDriveTheFabric, for each message but the VOTE. -/
theorem witness_other_messages :
    (let s := arriving (jobOf [selfConns] []) 2 2 4096 0 (payload 16 [(8, 8192), (4, 64)])
     admitted s 2 (fun s b => let n := leAt (mPayload b) 8 4; s.inJob (mAddr b) n && s.inJob (leAt (mPayload b) 0 8) n) (fun u b => (u.connTo (mSrc b) 3).isSome)) = true
    ∧ admitted (arriving (jobOf [selfConns] []) 8 0 0 0 (payload 16 [(4, 9)])) 8 (fun _ _ => true) (fun u _ => u.reshard.isNone) = true
    ∧ (let s := (arriving (jobOf [selfConns] []) 10 3 0 0 (payload 32 [(4, 1)])).setConn 0 { ConnState.reset with unacked := [⟨0, 1, 0, 0, []⟩] }
       s.arrived.any (fun m => let b := m.bytes
         mTarget b == s.ownAddr && (!isBit (mRoute b) 4 && (msgCrcOk b && (mTyp b == 10 && (msgFormatOk b && (leAt b 11 1 == s.fld Reg.frkXportCtl 31 24
           && (s.connTo (mSrc b) (leAt (mPayload b) 16 1)).any (fun r => (s.conn r.conn).held.isEmpty)))))))
       && gives (.msgAck 0) s (fun u => (u.conn 0).unacked.isEmpty)) = true
    ∧ (let s := withRegs (jobOf [] []) [(Reg.frkAxes, 0x02010101), (Reg.frkPortCtl 0, 1), (Reg.frkPortStatus 0, portACTIVE)]
       let m : NetMsg := ⟨8, 2, 0, 1, s.msgBytes 1 2 (2 ^ 15) 0 4096 0 [1]⟩
       !isBit (mRoute m.bytes) 4 && (s.firstAxis (mDst m.bytes) == some 0 && (mDir m.bytes 0 == 0 && (s.portSt 0 == portACTIVE
         && gives (.msgForward 0) { s with arrived := [m] } (fun u => u.arrived.isEmpty && (u.port 0).queue.length == 1))))) = true := by decide +kernel

set_option maxRecDepth 100000 in
/-- Hypotheses of MessagesDriveTheFabric for a VOTE: of a step that is neither the present nor the next one, and of the next. -/
theorem witness_vote_message : [1, 7].all (fun step => admitted (arriving (jobOf [selfConns] []) 7 0 0 0 (payload 1296 [(8, step)])) 7 (fun _ _ => true) (fun u b =>
    leAt (mPayload b) 0 8 == step && (u.stepNumber == 0 && u.exch.isNone))) = true := by decide +kernel

/-- Hypotheses of ConnectionsAcknowledgeAndResend. -/
theorem witness_connections : (let s := (jobOf [selfConns] []).setConn 2 { ConnState.reset with pendingAck := 1, unacked := [⟨0, 1, 0, 0, []⟩] }
     (s.connRec 2).any (fun r => r.conn == 2) && (gives (.ackSend 2) s (fun u => (u.conn 2).pendingAck == 0)
       && (gives (.xportResend 2 [0]) s (fun u => (u.conn 2).retries == 1 && u.reg (Reg.frkMsgCount 1) == 1)
       && gives (.xportResend 2 [5]) s (· == s)))) = true
    ∧ gives (.frakelCountReport (some 3)) ((jobOf [] []).count (Reg.frkPortCount 3 2) 5) (fun u => u.rise (Reg.frkPortCount 3 2) == 0 && u.recorder.queue.length == 1)
      = true := by decide +kernel

/-! ### Ports -/

/-- A device of an axis of two, with port 0 in a state. -/
def portJob (st : Nat) (x : PortState) : State :=
  { withRegs State.reset [(Reg.frkAxes, 0x02010101), (Reg.frkAddr, 2 ^ 31), (Reg.frkPortCtl 0, 1), (Reg.frkPortStatus 0, st)] with ports := if x = PortState.reset then [] else [(0, x)] }

/-- An identity that matches port 0: the peer's port 1, the same axes, coordinate 1. -/
def goodIdent : List Byte := bytesOf [(8, 77), (4, 2 ^ 31 + 2 ^ 15), (4, 0x02010101), (2, 1), (2, 0)]

/-- Hypotheses of PortsTrainIdentifyAndRetrain, for each command, and R386 and R387: the states a port passes through. -/
theorem witness_ports : [(Instr.portSignalDetect 0, portJob portDOWN .reset, portTRAINING), (.portTrained 0 255, portJob portTRAINING .reset, portIDENT),
      (.portTrainingTimeout 0, portJob portTRAINING .reset, portDOWN), (.portTrainingTimeout 0, portJob portIDENT .reset, portDOWN),
      (.portRetrain 0, portJob portIDENT .reset, portTRAINING), (.portTrainingRetry 0, portJob portDOWN { PortState.reset with retry := true }, portTRAINING),
      (.linkProbe 0 5, portJob portIDENT .reset, portIDENT), (.linkEcho 0 256, portJob portIDENT .reset, portIDENT),
      (.linkIdent 0 goodIdent, portJob portIDENT .reset, portACTIVE), (.linkIdent 0 (goodIdent.set 8 1), portJob portIDENT .reset, portMISWIRED),
      (.linkRetrain 0, portJob portACTIVE .reset, portTRAINING), (.linkMarkerLost 0, portJob portACTIVE .reset, portTRAINING),
      (.portRetrain 0, portJob portACTIVE .reset, portTRAINING), (.portRetrain 0, portJob portFAILED .reset, portTRAINING),
      (.portRetrain 0, portJob portMISWIRED .reset, portTRAINING)].all (fun q => gives q.1 q.2.1 (fun u => u.portSt 0 == q.2.2)) = true
    ∧ (portJob portTRAINING .reset).widthOf 0 255 = 2 ∧ (portJob portDOWN .reset).mgmt.fclkBad = false ∧ ((portJob portDOWN .reset).port 0).retry = false
    ∧ isBit (identOf goodIdent).addr 31 = true ∧ isBit ((portJob portIDENT .reset).reg Reg.frkAddr) 31 = true
    ∧ (portJob portIDENT .reset).fld (Reg.frkPortStatus 0) 31 16 ≤ 256 ∧ isBit ((portJob portIDENT .reset).reg (Reg.frkPortPeer 0)) 31 = false
    ∧ gives (.portRetrain 0) (portJob portACTIVE { PortState.reset with replay := [⟨9, 8, []⟩] }) (fun u => (u.port 0).replay == [⟨9, 0, []⟩]) = true := by
  decide +kernel

/-- A sequenced flit of one whole message: kind 4, SEQ 0. -/
def goodFlit : List Byte :=
  let b := leBytes 4 4 ++ List.replicate 240 (7 : Byte)
  b ++ (leBytes 4 (crc32c b) ++ List.replicate 8 0)

set_option maxRecDepth 100000 in
/-- Hypotheses of FlitsAreSentInOrderAndAcceptedInSequence, for each command; R376: a flit in sequence is accepted, a corrupted one is not. -/
theorem witness_flits : crc32c (goodFlit.take 244) = leAt goodFlit 244 4 ∧ bits (leAt goodFlit 0 4) 2 0 = 4 ∧ bits (leAt goodFlit 0 4) 18 7 = 0 ∧ goodFlit.length = 256
    ∧ [([], 0), ([((4 : Nat), (9 : Byte)), (6, 1), (5, 2)], 3)].all (fun q => [0, 1].all (fun c => decide ((damageOf q.1 c).length ≤ 2))
      && gives (.flitReceive 0 q.1 goodFlit) (portJob portACTIVE .reset) (fun u => (u.port 0).rxNext == 1 && (u.arrived.length == 1
        && u.reg (Reg.frkPortCount 0 2) == q.2))) = true
    ∧ crc32c ((goodFlit.set 9 8).take 244) ≠ leAt (goodFlit.set 9 8) 244 4
    ∧ gives (.flitReceive 0 [] (goodFlit.set 9 8)) (portJob portACTIVE .reset) (fun u => (u.port 0).rxNext == 0 && (u.port 0).nack == some 0) = true
    ∧ gives (.linkNack 0 9) (portJob portACTIVE { PortState.reset with replay := [⟨9, 7, []⟩] }) (fun u => (u.port 0).resend == some 0) = true
    ∧ gives (.linkNack 0 9) (portJob portACTIVE { PortState.reset with replay := [⟨9, 8, []⟩] }) (fun u => u.portSt 0 == portTRAINING) = true
    ∧ gives (.nackRepeat 0) (portJob portACTIVE { PortState.reset with nack := some 0 }) (fun u => (u.port 0).linkQ.length == 1) = true
    ∧ [Instr.linkCredit 0 (leBytes 64 5), .markerReceive 0 (leBytes 64 5)].all (fun c => gives c (portJob portACTIVE .reset) (fun u =>
        Sparse.get (fun _ => 0) (u.port 0).peerFreed 0 == 5)) = true
    ∧ (portJob portIDENT .reset).portSt 0 = portIDENT ∧ ((portJob portACTIVE .reset).port 0).resend = none := by decide +kernel

/-- R373: a port in IDENT sends a flit at each flit boundary. -/
theorem test_flit_boundary : gives (.flitBoundary 0) (portJob portIDENT { PortState.reset with linkQ := [linkBytes 2 (leBytes 4 0)] }) (fun u =>
    u.sent.length == 1 && u.reg (Reg.frkPortCount 0 0) == 1) = true := by decide +kernel

/-! ### HBM and the Petal units -/

/-- Hypotheses of StacksAreRefreshedScrubbedAndRepaired, for each clause; R260: a repair is refused with 0x040E where it may not run. -/
theorem witness_stacks : (withRegs State.reset [(Reg.hbmScrubStatus, 1)]).fld Reg.hbmScrubStatus 0 0 = 1 ∧ State.reset.installed 0 1 = true
    ∧ State.reset.jobState = jobEMPTY ∧ State.reset.repairable = true ∧ (jobOf [] []).repairable = false
    ∧ gives (.hbmRepairGo 3 (2 ^ 32) true) State.reset (fun u => isBit (u.reg (Reg.hbmRepair 3)) 38 && u.repairsDue.length == 1) = true
    ∧ gives (.hbmRepairGo 3 (2 ^ 32) true) (jobOf [] []) (fun u => u.fld (Reg.hbmRepair 3) 63 48 == 0x040E) = true
    ∧ gives (.hbmRepairDone 3) (withRegs State.reset [(Reg.hbmRepair 3, 2 ^ 38)]) (fun u => !isBit (u.reg (Reg.hbmRepair 3)) 38) = true := by decide +kernel

/-- Hypotheses of TheOwnerTableIsReadAndWritten: the two states that allow a write, one that does not, a staged write. -/
theorem witness_owner_table : [jobLOADED, jobSTOPPED].all (fun st => gives .hbmOwnWrite (withRegs State.reset [(Reg.netJobState, st), (Reg.hbmOwnIndex, 5), (Reg.hbmOwnData, 99)])
      (fun u => u.ownerEntry 0 5 == 99 && (u.ownerEntry 3 5 == 99 && u.fld Reg.hbmOwnCmd 31 16 == 0))) = true
    ∧ gives .hbmOwnWrite (jobOf [] []) (fun u => u.fld Reg.hbmOwnCmd 31 16 == 0x040C) = true
    ∧ [([], []), ([(2, 99#64)], [⟨0, .onDie⟩])].all (fun (q : List (Nat × W64) × MemEnv) => gives (.hbmOwnRead q.2)
        { withRegs State.reset [(Reg.hbmOwnIndex, 2)] with staging := q.1 } (fun u => u.reg Reg.hbmOwnData == if q.1.isEmpty then 0 else 99)) = true
    ∧ gives .ownerStagingDrain { State.reset with staging := [(5, 99)] } (fun u => u.ownerEntry 2 5 == 99 && u.staging.isEmpty) = true := by decide +kernel

/-- A host command of the Petal units. -/
def petal (stage : Nat) (cmd : List (Nat × Nat)) : PetalCmd := ⟨padTo 64 (bytesOf cmd), true, 0, 0, 0, 0, false, 0, 0, 7, 65536, 0, [], [], stage⟩

/-- A device that is ready, all Petal units up, with one command. -/
def petalJob (q : PetalCmd) : State :=
  { withRegs State.reset ((List.range 16).map (fun k => (Reg.petStatus k, 2))) with petals := [q] }

/-- FILL of one atom at 4096 with 5. -/
def fillCmd : List (Nat × Nat) := [(1, 6), (7, 0), (4, 1), (4, 0), (8, 4096), (8, 5)]
def fillBytes : List Byte := padTo 64 (bytesOf fillCmd)

/-- A SCATTER_ADD that tile 0's DMA_OUT carries, its gradient rows from line 0 on. -/
def tileGrads : PetalCmd :=
  ⟨padTo 64 (bytesOf [(1, 2), (4, 0), (1, 6), (2, 0), (4, 1), (4, 4), (8, 4096), (8, 8192), (8, 12288), (8, 64), (4, 1), (4, 1)]), false, 0, 0, 0, 0, true, 1, 0, 0, 0, 64,
    [], [], 0⟩

/-- Hypotheses of PetalCommandsAreDispatchedAndCompleted: a good command, one whose OP is reserved, one carried out. -/
theorem witness_petal_dispatch : (petalJob (petal 0 fillCmd)).petalCode (petal 0 fillCmd) = 0 ∧ (petalJob (petal 0 [(1, 9)])).petalCode (petal 0 [(1, 9)]) = 0x0401
    ∧ (petalOf (petal 0 [(1, 9)]).cmd).home < 16 ∧ (petalOf (petal 2 fillCmd).cmd).stacks.all (fun j => decide (j < 16)) = true
    ∧ gives (.petalDispatch calm) (petalJob (petal 0 fillCmd)) (fun u => u.petals.map (fun q => q.stage) == [1]) = true
    ∧ gives (.petalDispatch calm) (petalJob (petal 0 [(1, 9)])) (fun u => u.petals.isEmpty) = true
    ∧ (let s := petalJob (petal 0 fillCmd)
       !s.petalHeldBack (petal 0 fillCmd) && (s.petalRoom (petalOf fillBytes) && !{ s with petals := List.replicate 64 (petal 1 fillCmd) }.petalRoom (petalOf fillBytes)))
      = true
    ∧ (let q := tileGrads
       let s := { jobOf [] [] with petals := [q], late := [(lineKey 0 0, true)] }
       s.xfersRun && (s.petalHeldBack q && gives (.petalDispatch calm) s (· == s))) = true
    ∧ gives (.petalComplete 0) (petalJob (petal 2 fillCmd)) (fun u => u.petals.isEmpty) = true := by decide +kernel

/-- Hypotheses of PetalOperationsAreCarriedOut: a queued command of each operation may run; R270: FILL repeats its pattern. -/
theorem witness_petal : [1, 2, 3, 4, 5, 6, 7].all (fun op =>
      let q := petal 1 [(1, op), (4, 0), (1, 6), (2, 0), (4, 1), (4, 4), (8, 4096), (8, 8192), (8, 12288), (8, 0), (4, 1), (4, 1)]
      let c := petalOf q.cmd
      (petalJob q).petalReady 0 op q && (!c.gate && (!c.void && (decide (c.dim * fmtW c.fmtT ≤ 2 ^ c.se) && (decide (c.fmtT ≤ 4) && (c.a0 % 64 == 0 && decide (6 ≤ c.se))))))) = true
    ∧ gives (.petalFill 0 []) (petalJob (petal 1 fillCmd)) (fun u => Mem.le u.hbm 4096 8 == 5 && Mem.le u.hbm 4152 8 == 5) = true
    ∧ gives (.petalCopy 0 []) { petalJob (petal 1 [(1, 7), (7, 0), (4, 1), (4, 0), (8, 4096), (8, 8192)]) with hbm := Mem.write [] 4096 [3] } (fun u => Mem.le u.hbm 8192 1 == 3)
      = true := by decide +kernel

/-! ### The host interface -/

/-- A device that is ready; ring 0 is enabled, 16 entries at 4096, its CQ at 8192; host region 1 spans 64 KiB from 2^20. -/
def hostJob (regs : List (Nat × Nat)) : State :=
  { withRegs State.reset ([(Reg.hqDevStatus, 0x51), (Reg.hqSqCtl 0, 0x401), (Reg.hqCqCtl 0, 0x401), (Reg.hqSqBase 0, 4096), (Reg.hqCqBase 0, 8192), (Reg.hqSqTail 0, 1),
      (Reg.hqCqStatus 0, 1)] ++ regs) with
    regions := [(1, ⟨2 ^ 20, 65536⟩)] }

/-- Its first entry is a command: opcode, flags, SEQ, the bytes from 8 on. -/
def hostCmd (s : State) (op flags seq : Nat) (rest : List (Nat × Nat)) : State :=
  { s with hostMem := Mem.write s.hostMem 4096 (padTo 64 (bytesOf ([(1, op), (3, flags), (4, seq)] ++ rest))) }

/-- The entry is this command with its fields clean, and the next SEQ of the ring is `next`. -/
def takes (s : State) (op : Nat) (named : List (Nat × Nat)) : Bool :=
  match s.sqEntry 0 with
  | some b => cmdOp b == op && (cmdSeq b == s.fld (Reg.hqSqSeq 0) 31 0 && (cmdClean b 0 named && decide (s.sqSize 0 ≤ 2 ^ 16)))
  | none => false

/-- Hypotheses of HostCommandsAreTakenInOrder, for each command; a REGISTER in RUNNING; gaps above and below NEXT at their bounds. -/
theorem witness_host_commands : takes (hostCmd (hostJob []) 0 0 0 []) 0 [] = true
    ∧ (let s := hostCmd (hostJob []) 5 0 0 [(8, 7), (8, 4096), (8, 2 ^ 40)]
       takes s 5 [(8, 1), (16, 8), (24, 8)] && (s.idleJob && gives (.register 0) s (fun u => u.region 7 == ⟨4096, 2 ^ 40⟩))) = true
    ∧ (let s := hostCmd (hostJob []) 6 0 0 [(8, 1)]
       takes s 6 [(8, 1)] && gives (.unregister 0) s (fun u => u.region 1 == HostRegion.none)) = true
    ∧ (let s := hostCmd (hostJob [(Reg.netJobState, jobRUNNING)]) 5 0 0 [(8, 7), (8, 4096), (8, 4096)]
       !s.idleJob && gives (.register 0) s (fun u => u.completions.map (fun x => x.status) == [0x0A07])) = true
    ∧ (let s := hostCmd (hostJob [(Reg.netJobState, jobLOADED)]) 7 0 0 [(8, 1), (8, 0), (8, 0)]
       takes s 7 [(8, 1), (16, 8), (24, 8)] && (s.memoryUp && (s.heldCmds.isEmpty && (s.holdsJob && (s.inRegion 1 0 64
         && gives (.petal 0) s (fun u => u.petals.length == 1 && u.completions.isEmpty)))))) = true
    ∧ (let s := hostCmd (hostJob [(Reg.netJobState, jobLOADED)]) 8 0 0 [(8, 1), (8, 0), (8, 4096), (8, 64)]
       takes s 8 [(8, 1), (9, 1), (16, 8), (24, 8), (32, 8)] && (s.inRegion 1 0 64 && (s.inJob 4096 64 && gives (.memcopy 0) s (fun u => u.copies.length == 1)))) = true
    ∧ (let s := hostCmd (hostJob []) 0x0A 0 0 [(1, 1), (7, 1), (8, 0), (8, 1900000000000 - 64), (8, 64)]
       takes s 0x0A [(8, 1), (9, 1), (16, 8), (24, 8), (32, 8)] && (!isBit (s.reg Reg.netSnapStatus) 2
         && gives (.flashRead 0) s (fun u => u.copies.length == 1))) = true
    ∧ [(1, 0x0A06), (2 ^ 31 - 1, 0x0A06), (2 ^ 31, 0x0A05), (2 ^ 32 - 257, 0x0A05)].all (fun q =>
        gives (.nop 0) (hostCmd (hostJob []) 0 0 q.1 []) (fun u => u.completions.map (fun x => x.status) == [q.2])) = true := by decide +kernel

/-- A copy of 64 bytes is under way on ring 0: FLASH_READ or MEMCOPY, its direction. -/
def copyJob (flash : Bool) (dir : Nat) : State :=
  { hostJob [] with
    copies := [⟨flash, 0, 5, padTo 64 (bytesOf [(8, 0), (1, if flash then 0 else 1), (1, if flash then 1 else dir), (6, 0), (8, 0), (8, 4096), (8, 64)])⟩]
    taken := [(0, [⟨5, 1, none, []⟩])]
    hostMem := Mem.write [] (2 ^ 20) [3], hbm := Mem.write [] 4096 [4], flash := Mem.write [] 4096 [5] }

/-- Hypotheses of RingsCarryCompletions: the three copies, a completion, a full pass of the CQ, ring settings at the bounds of SIZE_EXP. -/
theorem witness_rings : [(false, 0), (false, 1), (true, 0)].all (fun q =>
      let s := copyJob q.1 q.2
      s.memWf && (s.regsWf && (s.takenOf 0).any (fun t => t.seq == 5 && t.repeats.isEmpty))) = true
    ∧ gives (.memcopyComplete 0 []) (copyJob false 0) (fun u => Mem.le u.hbm 4096 1 == 3) = true
    ∧ gives (.memcopyComplete 0 []) (copyJob false 1) (fun u => Mem.le u.hostMem (2 ^ 20) 1 == 4) = true
    ∧ gives (.flashReadComplete 0) (copyJob true 0) (fun u => Mem.le u.hostMem (2 ^ 20) 1 == 5) = true
    ∧ (let s := { hostJob [(Reg.hqCqStatus 0, 15 * 2 ^ 16 + 1), (Reg.hqCqHead 0, 9)] with completions := [⟨0, 5, 7, false, 1, 0, 0⟩] }
       !s.cqFull 0 && (!s.d3 && (decide (s.cqSize 0 ≤ 2 ^ 16) && (s.boundCq 0 == 0 && gives (.completionPost 0) s (fun u =>
         Mem.le u.hostMem (8192 + 32 * 15) 4 == 5 && (u.cqTail 0 == 0 && u.fld (Reg.hqCqStatus 0) 0 0 == 0)))))) = true
    ∧ gives (.sqDoorbell 0 (2 ^ 16 + 15) []) (hostJob []) (fun u => u.fld (Reg.hqSqTail 0) 15 0 == 15) = true
    ∧ gives (.sqDoorbell 0 16 []) (hostJob []) (fun u => u.fld (Reg.hqSqTail 0) 15 0 == 1 && u.reg (Reg.hqErrCount 3) == 1) = true
    ∧ [4, 16].all (fun e => gives (.ringCtlWrite false 5 (e * 256 + 1)) (hostJob []) (fun u => u.sqEnabled 5 && u.sqSize 5 == 2 ^ e)) = true
    ∧ [3, 17].all (fun e => gives (.ringCtlWrite false 5 (e * 256 + 1)) (hostJob []) (fun u => !u.sqEnabled 5)) = true
    ∧ gives (.intCauseClear 3 [1]) (hostJob [(Reg.hqIntCause, 7)]) (fun u => u.reg Reg.hqIntCause == 6) = true := by decide +kernel

/-! ### Loads -/

/-- An image: TARGET, and SEQUENCE of one plan and one move. -/
def targetSec : List Byte := padTo 64 (bytesOf [(2, 4), (2, 0xB0), (2, 48), (2, 1024), (4, 8192), (2, 4096), (2, 256), (4, 1300)])
def sequenceSec : List Byte := padTo 64 (bytesOf [(2, 1), (2, 1), (4, 1), (4, 0xFFFFFFFF), (4, 0), (1, 0), (3, 1)])
def imageBytes : List Byte :=
  let entry := fun (t off : Nat) (b : List Byte) => bytesOf [(2, t), (6, 0), (4, 0), (4, 0xFFFFFF), (4, off), (4, 0), (4, 64), (4, crc32c b)]
  let head := [0x54, 0x48, 0x4F, 0x49, 0x53, 0x49, 0x4D, 0x47] ++ bytesOf [(4, 1), (4, 128), (8, 320), (4, 2), (4, 128), (8, 12), (8, 77), (4, 0x01010101), (72, 0)]
  head ++ (leBytes 4 (crc32c head) ++ (entry 1 192 targetSec ++ (entry 2 256 sequenceSec ++ (targetSec ++ sequenceSec))))

/-- A job-control command stands at the head of a device in a job state. -/
def ctlJob (st op flags : Nat) (rest : List (Nat × Nat)) : State :=
  { hostJob [(Reg.netJobState, st)] with
    jobCmds := [⟨0, 5, padTo 64 (bytesOf ([(1, op), (3, flags), (4, 5)] ++ rest)), false⟩]
    taken := [(0, [⟨5, 1, none, []⟩])] }

/-- A LOAD of `n` bytes of these, in host region 1. -/
def loadJob (flags n : Nat) (img : List Byte) : State := { ctlJob jobEMPTY 1 flags [(8, 1), (8, 0), (8, n)] with hostMem := Mem.write [] (2 ^ 20) img }

/-- Hypotheses of JobCommandsMoveTheJobState, for the commands that need no image, and what R36, R244 and R247 make of them. -/
theorem witness_job_commands :
    (let s := withRegs (ctlJob jobLOADED 3 0 []) [(Reg.netStepLimit, 9)]
     s.ready && (!s.filling && (!s.job.mustRestore && (s.testing == 0 && (s.power.stops == 0 && (!s.stackHostBad && ((s.takenOf 0).any (fun t => t.repeats.isEmpty)
       && gives (.start 0) s (fun u => u.jobState == jobRUNNING)))))))) = true
    ∧ gives (.start 0) (ctlJob jobSTOPPED 3 0 []) (fun u => u.jobState == jobSTOPPED && u.completions.map (fun x => x.status) == [0]) = true
    ∧ gives (.start 0) { ctlJob jobSTOPPED 3 0 [] with job := { JobState.reset with mustRestore := true } } (fun u => u.completions.map (fun x => x.status) == [0x0908])
      = true
    ∧ gives (.stop 0) (ctlJob jobRUNNING 4 0 []) (fun u => u.job.stopDriver && u.completions.isEmpty) = true
    ∧ gives (.unload 0) (ctlJob jobEMPTY 2 0 []) (fun u => u.completions.map (fun x => x.status) == [0]) = true
    ∧ gives (.unload 0) (ctlJob jobLOADED 2 0 []) (fun u => u.filling && u.completions.isEmpty) = true
    ∧ (let s := { ctlJob jobEMPTY 2 0 [] with regs := (withRegs (ctlJob jobEMPTY 2 0 []) [(Reg.hbmScrubStatus, 2)]).regs }
       s.filling && ((s.jobCmd 1).isNone && (s.jobCmd 2).isNone)) = true
    ∧ (let s := (withRegs (ctlJob jobSTOPPED 2 0 []) [(Reg.hbmScrubStatus, 2)]).beginJob
       s.filling && ((s.jobCmd 1).isNone && ((s.jobCmd 2).isSome && gives .emptyFillDone s (fun u => u.jobState == jobEMPTY && u.completions.length == 1)))) = true := by
  decide +kernel

/-- A RESHARD with an empty plan of epoch 1, and one at the present epoch, 0. -/
def reshardJob (epoch : Nat) : State :=
  { jobOf [(0x60, bytesOf [(24, 0), (8, 65536)])] [(Reg.hqDevStatus, 0x51)] with
    jobCmds := (ctlJob jobRUNNING 9 0 [(8, 3)]).jobCmds, taken := [(0, [⟨5, 1, none, []⟩])], hbm := Mem.write [] 65536 [Byte.of epoch] }

/-- One with a plan of one entry, which leaves tensor 7 where it is. -/
def planJob : State :=
  let s := jobOf [collSection 0 8, tensorSection, selfConns] [(Reg.hqDevStatus, 0x51)]
  { s with
    jobCmds := (ctlJob jobRUNNING 9 0 [(8, 3)]).jobCmds, taken := [(0, [⟨5, 1, none, []⟩])]
    hbm := Mem.write (Mem.write [] (State.reset.ownerAddr 0 0) (leBytes 8 (2 ^ 63))) 0 (bytesOf [(8, 1), (4, 1), (52, 0), (4, 7), (4, 0), (8, 2 ^ 63)]) }

/-- Hypotheses of its clauses for RESHARD and RETURN. -/
theorem witness_reshard : (reshardJob 1).reshardReason 3 = 0 ∧ (reshardJob 0).reshardReason 3 = 3 ∧ (reshardJob 1).planEntries = []
    ∧ gives (.reshard 0) (reshardJob 1) (fun u => u.reshard.isNone && u.completions.map (fun x => x.status) == [0]) = true
    ∧ (planJob.reshardReason 3 == 0 && (!planJob.planEntries.isEmpty && gives (.reshard 0) planJob (fun u => u.reshard.isSome && u.completions.isEmpty))) = true
    ∧ gives (.reshard 0) (reshardJob 0) (fun u => u.reshard.isNone && u.completions.map (fun x => x.status) == [0x0809]) = true
    ∧ (let s := { castleJob [(Reg.netJobState, jobLOADED), (Reg.hqDevStatus, 0x51), (Reg.netSnapSlot 2, 3 * 2 ^ 32 + 1)] with
         jobCmds := (ctlJob jobLOADED 0x0B 0 [(4, 3)]).jobCmds, taken := [(0, [⟨5, 1, none, []⟩])] }
       (s.secureConn 10).isSome && (s.ready && gives (.returnSlot 0) s (fun u => u.completions.isEmpty && u.jobCmds.any (fun c => c.begun)))) = true := by decide +kernel

/-- Hypotheses of its clauses for LOAD and LOAD_CHECK_ONLY: an image of no sections passes the check, and bytes that are no image fail it. -/
theorem witness_check_only :
    (let s := loadJob 1 128 []
     s.testing == 0 && (s.jobCmds.any (fun c => s.loadCode c.bytes == 0 && leAt c.bytes 1 1 % 2 == 1)
       && (s.validate (s.regionSrc 1 0) 128).any (fun x => x.code == 0x0520 && decide (x.phase < 8)))) = true
    ∧ (let s := loadJob 0 64 []
       let s1 := s.beginJob.receiveImage (s.regionSrc 1 0) 64
       s.jobCmds.any (fun c => s.loadCode c.bytes == 0 && leAt c.bytes 1 1 % 2 == 0) && (s1.validate ⟨s1.hbm, s1.imageBase⟩ 64).any (fun x => decide (x.phase < 8))) = true := by
  decide +kernel

/-- The header of an image of no sections. -/
def emptyImage : List Byte :=
  let head := [0x54, 0x48, 0x4F, 0x49, 0x53, 0x49, 0x4D, 0x47] ++ bytesOf [(4, 1), (4, 128), (8, 128), (4, 0), (4, 0), (8, 12), (8, 77), (4, 0x01010101), (72, 0)]
  head ++ leBytes 4 (crc32c head)

set_option maxRecDepth 100000 in
theorem witness_check_only_passes : (loadJob 1 128 emptyImage).validate ((loadJob 1 128 emptyImage).regionSrc 1 0) 128 = none := by decide +kernel

/-- The device once it has copied the image that a LOAD names. -/
def receivedImage : State := (loadJob 0 320 imageBytes).beginJob.receiveImage ((loadJob 0 320 imageBytes).regionSrc 1 0) 320
def receivedSrc : ImgSrc := ⟨receivedImage.hbm, receivedImage.imageBase⟩
/-- The image as it is held. -/
def heldImage : Image := ⟨77, 12, 320, 0x01010101, [⟨0, 1, 0, 0xFF, 0xFF, 0xFF, targetSec⟩, ⟨1, 2, 0, 0xFF, 0xFF, 0xFF, sequenceSec⟩]⟩

set_option maxRecDepth 100000 in
theorem image_phase1 : receivedImage.phase1 receivedSrc 320 = none ∧ receivedSrc.le 24 4 = 2 := by decide +kernel
set_option maxRecDepth 100000 in
theorem image_held : receivedImage.imageOf receivedSrc = heldImage := by decide +kernel
theorem image_phase3 : receivedImage.phase2 heldImage = none ∧ receivedImage.phase3 heldImage = none := by decide +kernel
/-- The image where phase 4 looks at it. -/
def probedImage : State := receivedImage.probe heldImage

theorem blocks_pass {f : Nat → List Fail} (h : ∀ k < 4, (List.range 256).flatMap (fun t => f (256 * k + t)) = []) :
    (List.range 1024).flatMap f = [] := by
  refine List.flatMap_eq_nil_iff.mpr (fun t ht => ?_)
  have hlt := List.mem_range.mp ht
  have hb := List.flatMap_eq_nil_iff.mp (h (t / 256) (by omega)) (t % 256) (List.mem_range.mpr (by omega))
  rwa [Nat.div_add_mod] at hb

theorem tiles_pass0 : (List.range 256).flatMap (fun t => probedImage.tileFails (256 * 0 + t)) = [] := by decide +kernel
theorem tiles_pass1 : (List.range 256).flatMap (fun t => probedImage.tileFails (256 * 1 + t)) = [] := by decide +kernel
theorem tiles_pass2 : (List.range 256).flatMap (fun t => probedImage.tileFails (256 * 2 + t)) = [] := by decide +kernel
theorem tiles_pass3 : (List.range 256).flatMap (fun t => probedImage.tileFails (256 * 3 + t)) = [] := by decide +kernel
set_option maxRecDepth 100000 in
theorem network_passes : (List.range (leAt (probedImage.devSection secSEQUENCE) 0 2)).flatMap (fun p => (List.range 1024).flatMap (fun t =>
    probedImage.netFails p t ++ probedImage.premoveFails p t ++ probedImage.boundaryFails heldImage p t)) = []
    ∧ probedImage.listFails = [] ∧ probedImage.domainFails = [] := by decide +kernel

theorem schedule_passes : probedImage.scheduleFails heldImage = [] := by
  have h0 : (List.range 1024).flatMap probedImage.tileFails = [] := blocks_pass (fun k hk => by
    obtain rfl | rfl | rfl | rfl : k = 0 ∨ k = 1 ∨ k = 2 ∨ k = 3 := by omega
    · exact tiles_pass0
    · exact tiles_pass1
    · exact tiles_pass2
    · exact tiles_pass3)
  unfold State.scheduleFails
  rw [h0, network_passes.1, network_passes.2.1, network_passes.2.2]
  simp
theorem image_phase4 : receivedImage.phase4 heldImage = none := by
  have h := schedule_passes
  unfold probedImage at h
  unfold State.phase4
  rw [h]
  simp [firstFail]

theorem validate_passes {s : State} {i : ImgSrc} {n : Nat} {im : Image} (h1 : s.phase1 i n = none) (held : s.imageOf i = im) (h2 : s.phase2 im = none)
    (h3 : s.phase3 im = none) (h4 : s.phase4 im = none) : s.validate i n = none := by
  simp [State.validate, h1, held, h2, h3, h4]

/-- Hypotheses of its clause for a LOAD that succeeds: the image passes every phase. -/
theorem witness_load : receivedImage.validate receivedSrc 320 = none ∧ receivedSrc.le 24 4 = 2 :=
  ⟨validate_passes image_phase1.1 image_held image_phase3.1 image_phase3.2 image_phase4, image_phase1.2⟩

/-! ### A snapshot that passes its checks -/

/-- The CRC in the trailer of a part of `n` bytes at `a`. -/
def sealPart (m : Mem) (a n : Nat) : Mem := Mem.write m (a + n - 64) (leBytes 4 (crc32c (Mem.read m a (n - 64))))

theorem crcStep_lt {c : Nat} (h : c < 2 ^ 32) : crcStep c < 2 ^ 32 := by
  unfold crcStep
  split
  · exact Nat.xor_lt_two_pow (by omega) (by decide)
  · omega

theorem crcByte_lt {c : Nat} (b : Byte) (h : c < 2 ^ 32) : crcByte c b < 2 ^ 32 := by
  have hb : b.toNat < 2 ^ 32 := Nat.lt_trans b.isLt (by decide)
  unfold crcByte
  repeat apply crcStep_lt
  exact Nat.xor_lt_two_pow h hb

theorem crcFold_lt (bs : List Byte) : ∀ c < 2 ^ 32, bs.foldl crcByte c < 2 ^ 32 := by
  induction bs with
  | nil => exact fun c h => h
  | cons b bs ih => exact fun c h => ih _ (crcByte_lt b h)

theorem crc32c_lt (bs : List Byte) : crc32c bs < 2 ^ 32 := Nat.xor_lt_two_pow (crcFold_lt bs _ (by decide)) (by decide)

theorem leNat_leBytes4 (c : Nat) (h : c < 2 ^ 32) : leNat (leBytes 4 c) = c := by
  simp only [leBytes, leNat, Byte.of, BitVec.toNat_ofNat]
  omega

theorem le_seal_other (m : Mem) (a n x k : Nat) (h : x + k ≤ a + n - 64 ∨ a + n - 64 + 4 ≤ x) : Mem.le (sealPart m a n) x k = Mem.le m x k := by
  unfold Mem.le sealPart
  rw [Mem.read_write_other _ _ _ _ _ h]

theorem read_seal_other (m : Mem) (a n x k : Nat) (h : x + k ≤ a + n - 64 ∨ a + n - 64 + 4 ≤ x) : Mem.read (sealPart m a n) x k = Mem.read m x k :=
  Mem.read_write_other _ _ _ _ _ h

theorem partCrc_seal (m : Mem) (a n : Nat) (hn : Mem.le m (a + 48) 8 = n) (h : 128 ≤ n) : partCrc (sealPart m a n) a = true := by
  unfold partCrc
  simp only [le_seal_other m a n (a + 48) 8 (by omega), hn, read_seal_other m a n a (n - 64) (by omega), beq_iff_eq]
  have hw : Mem.read (sealPart m a n) (a + n - 64) 4 = _ := Mem.read_write_self m (a + n - 64) (leBytes 4 (crc32c (Mem.read m a (n - 64))))
  unfold Mem.le
  rw [hw]
  exact leNat_leBytes4 _ (crc32c_lt _)

theorem partCrc_seal_other (m : Mem) (a n b k : Nat) (hn : Mem.le m (a + 48) 8 = n) (hk : 128 ≤ n) (h : a + n ≤ b + k - 64 ∨ b + k - 64 + 4 ≤ a) :
    partCrc (sealPart m b k) a = partCrc m a := by
  unfold partCrc
  simp only [le_seal_other m b k (a + 48) 8 (by omega), hn, read_seal_other m b k a (n - 64) (by omega), le_seal_other m b k (a + n - 64) 4 (by omega)]

theorem partHeads_seal (m : Mem) (a d number n b k : Nat) (hn : Mem.le m (a + 48) 8 = n) (hk : 192 ≤ n)
    (h : (a + n ≤ b + k - 64 ∨ b + k - 64 + 4 ≤ a) ∨ (b = a ∧ k = n)) : partHeads (sealPart m b k) a d number = partHeads m a d number := by
  unfold partHeads
  simp only [le_seal_other m b k (a + 48) 8 (by omega), hn, read_seal_other m b k a 8 (by omega), le_seal_other m b k (a + 16) 4 (by omega),
    le_seal_other m b k (a + 41) 1 (by omega), le_seal_other m b k (a + 124) 4 (by omega), read_seal_other m b k a 124 (by omega),
    le_seal_other m b k (a + n - 60) 4 (by omega)]

/-- A stopped device whose image secures nothing but the state record, told to restore snapshot 7 from its OUT slot. -/
def restoreBase : State :=
  { castleJob [(Reg.netJobState, jobSTOPPED), (Reg.hqDevStatus, 0x51)] with
    jobCmds := (ctlJob jobSTOPPED 0x0C 0 [(4, 7)]).jobCmds, taken := [(0, [⟨5, 1, none, []⟩])] }
/-- Where its parts lie, and their lengths. -/
def partAt (d : Nat) : Nat := restoreBase.slotBase d 0
def partLen (d : Nat) : Nat := restoreBase.partBytes d
/-- The parts' headers and trailers but for the CRCs of the trailers. -/
def partsMem : Mem :=
  (List.range 4).foldl (fun m d => Mem.write (Mem.write m (partAt d) (restoreBase.partHeader d 7 0)) (partAt d + partLen d - 60) (leBytes 4 7)) []
def restoreMem : Mem := sealPart (sealPart (sealPart (sealPart partsMem (partAt 0) (partLen 0)) (partAt 1) (partLen 1)) (partAt 2) (partLen 2)) (partAt 3) (partLen 3)


theorem parts_at : partAt 0 = 252745220096 ∧ partAt 1 = 529770610688 ∧ partAt 2 = 804648517632 ∧ partAt 3 = 1079526424576 := by decide +kernel
theorem parts_len : partLen 0 = 17829952 ∧ partLen 1 = 4160 ∧ partLen 2 = 4160 ∧ partLen 3 = 4160 := by decide +kernel
/-- The header and trailer of part d stand as the restore reads them. -/
abbrev PartFacts (d : Nat) : Prop :=
  partHeads partsMem (partAt d) d 7 = true ∧ Mem.le partsMem (partAt d + 48) 8 = partLen d
    ∧ Mem.le partsMem (partAt d + 8) 8 = restoreBase.reg Reg.netImgId ∧ Mem.le partsMem (partAt d + 20) 4 = restoreBase.ownAddr

set_option maxRecDepth 100000 in
theorem parts_head0 : PartFacts 0 := by decide +kernel
set_option maxRecDepth 100000 in
theorem parts_head1 : PartFacts 1 := by decide +kernel
set_option maxRecDepth 100000 in
theorem parts_head2 : PartFacts 2 := by decide +kernel
set_option maxRecDepth 100000 in
theorem parts_head3 : PartFacts 3 := by decide +kernel

/-- What the checks read of the parts is as it was before the trailers had their CRCs. -/
theorem restore_facts (d : Nat) (h : d < 4) : partHeads restoreMem (partAt d) d 7 = true ∧ partCrc restoreMem (partAt d) = true
    ∧ Mem.le restoreMem (partAt d + 8) 8 = restoreBase.reg Reg.netImgId ∧ Mem.le restoreMem (partAt d + 20) 4 = restoreBase.ownAddr
    ∧ Mem.le restoreMem (partAt d + 48) 8 = partLen d := by
  have f0 : PartFacts 0 := parts_head0
  dsimp only [PartFacts] at f0
  have f1 : PartFacts 1 := parts_head1
  dsimp only [PartFacts] at f1
  have f2 : PartFacts 2 := parts_head2
  dsimp only [PartFacts] at f2
  have f3 : PartFacts 3 := parts_head3
  dsimp only [PartFacts] at f3
  obtain ⟨a0, a1, a2, a3⟩ := parts_at
  obtain ⟨n0, n1, n2, n3⟩ := parts_len
  unfold restoreMem
  rw [a0, n0] at f0
  rw [a1, n1] at f1
  rw [a2, n2] at f2
  rw [a3, n3] at f3
  rw [a0, a1, a2, a3, n0, n1, n2, n3]
  obtain ⟨p0, l0, i0, o0⟩ := f0
  obtain ⟨p1, l1, i1, o1⟩ := f1
  obtain ⟨p2, l2, i2, o2⟩ := f2
  obtain ⟨p3, l3, i3, o3⟩ := f3
  generalize partsMem = m at *
  generalize restoreBase.reg Reg.netImgId = img at *
  generalize restoreBase.ownAddr = own at *
  rcases (by omega : d = 0 ∨ d = 1 ∨ d = 2 ∨ d = 3) with rfl | rfl | rfl | rfl
  · rw [a0, n0]
    refine ⟨?_, ?_, ?_, ?_, ?_⟩
    · rw [partHeads_seal _ _ _ _ 17829952, partHeads_seal _ _ _ _ 17829952, partHeads_seal _ _ _ _ 17829952, partHeads_seal _ _ _ _ 17829952, p0] <;>
        first | omega | simp (disch := omega) only [le_seal_other, l0]
    · rw [partCrc_seal_other _ _ 17829952, partCrc_seal_other _ _ 17829952, partCrc_seal_other _ _ 17829952, partCrc_seal] <;>
        first | omega | simp (disch := omega) only [le_seal_other, l0]
    all_goals simp (disch := omega) only [le_seal_other, i0, o0, l0]
  · rw [a1, n1]
    refine ⟨?_, ?_, ?_, ?_, ?_⟩
    · rw [partHeads_seal _ _ _ _ 4160, partHeads_seal _ _ _ _ 4160, partHeads_seal _ _ _ _ 4160, partHeads_seal _ _ _ _ 4160, p1] <;>
        first | omega | simp (disch := omega) only [le_seal_other, l1]
    · rw [partCrc_seal_other _ _ 4160, partCrc_seal_other _ _ 4160, partCrc_seal] <;>
        first | omega | simp (disch := omega) only [le_seal_other, l1]
    all_goals simp (disch := omega) only [le_seal_other, i1, o1, l1]
  · rw [a2, n2]
    refine ⟨?_, ?_, ?_, ?_, ?_⟩
    · rw [partHeads_seal _ _ _ _ 4160, partHeads_seal _ _ _ _ 4160, partHeads_seal _ _ _ _ 4160, partHeads_seal _ _ _ _ 4160, p2] <;>
        first | omega | simp (disch := omega) only [le_seal_other, l2]
    · rw [partCrc_seal_other _ _ 4160, partCrc_seal] <;>
        first | omega | simp (disch := omega) only [le_seal_other, l2]
    all_goals simp (disch := omega) only [le_seal_other, i2, o2, l2]
  · rw [a3, n3]
    refine ⟨?_, ?_, ?_, ?_, ?_⟩
    · rw [partHeads_seal _ _ _ _ 4160, partHeads_seal _ _ _ _ 4160, partHeads_seal _ _ _ _ 4160, partHeads_seal _ _ _ _ 4160, p3] <;>
        first | omega | simp (disch := omega) only [le_seal_other, l3]
    · rw [partCrc_seal] <;>
        first | omega | simp (disch := omega) only [le_seal_other, l3]
    all_goals simp (disch := omega) only [le_seal_other, i3, o3, l3]

/-- That device with these parts in its OUT slot. -/
def restoreState : State := { restoreBase with hbm := restoreMem }

theorem restore_passes : restoreBase.restoreCode restoreMem (restoreBase.slotBases 0) 7 = 0 := by
  have hb (d : Nat) (h : d < 4) : (restoreBase.slotBases 0).getD d 0 = partAt d := by
    rcases (by omega : d = 0 ∨ d = 1 ∨ d = 2 ∨ d = 3) with rfl | rfl | rfl | rfl <;> rfl
  have hh : headsOk restoreMem (restoreBase.slotBases 0) 7 = true := by
    refine List.all_eq_true.mpr (fun d h => ?_)
    have hd := List.mem_range.mp h
    rw [hb d hd]
    exact (restore_facts d hd).1
  have hc : crcsOk restoreMem (restoreBase.slotBases 0) = true := by
    refine List.all_eq_true.mpr (fun a h => ?_)
    obtain ⟨d, hd, rfl⟩ := List.mem_map.mp h
    exact (restore_facts d (List.mem_range.mp hd)).2.1
  unfold State.restoreCode
  rw [hh, hc]
  simp only [Bool.not_true, Bool.or_self, Bool.false_eq_true, if_false]
  rw [if_neg]
  simp only [List.any_eq_true, not_exists, not_and]
  intro d h
  have hd := List.mem_range.mp h
  have f := restore_facts d hd
  rw [hb d hd, f.2.2.1, f.2.2.2.1, f.2.2.2.2]
  simp [partLen]

theorem restorable (s : State) (m : Mem) (k : Nat) (h : s.restoreCode m (s.slotBases 0) k = 0) :
    let t : State := { s with hbm := m }
    t.restoreCode t.hbm (t.slotBases 0) k = 0 := h

/-- Hypotheses of its clause for RESTORE: the command, and a snapshot that passes every check. -/
theorem witness_restore : (restoreState.ready && (restoreState.testing == 0 && (!restoreState.filling && (!restoreState.secureSec.isEmpty
      && (restoreState.jobState == jobSTOPPED && restoreState.jobCmds.all (fun c => !c.begun && (cmdOp c.bytes == 0x0C && (cmdClean c.bytes 0 [(8, 4)]
      && leAt c.bytes 8 4 == 7)))))))) = true
    ∧ restoreState.restoreCode restoreState.hbm (restoreState.slotBases 0) 7 = 0 :=
  ⟨by decide +kernel, restorable restoreBase restoreMem 7 restore_passes⟩

/-! ### Resilience -/

/-- A castle device whose NET_SNAP_STATUS holds a value. -/
def snapJob (status : Nat) (due : Bool) : State :=
  let s := castleJob [(Reg.netSnapStatus, status)]
  { s with snap := { s.snap with due := due } }

/-- Hypotheses of SnapshotsAreCapturedAndSecured, clause by clause; number 2^32 − 1 wraps. -/
theorem witness_snapshots :
    (let s := snapJob (2 ^ 64 - 2 ^ 32) true
     s.snap.due && (!s.outBusy && (s.staging.isEmpty && (List.range 4).all (fun d => decide (s.partBytes d ≤ s.slotBytes d)
       && decide (s.castleBytes d ≤ if d = 0 then s.imageOff else s.ownerOff))))) = true
    ∧ (let s := snapJob 4 true
       s.outBusy && gives (.snapshotCapture [] []) s (fun u => u.fld Reg.netSnapStatus 3 3 == 1 && !u.snap.due)) = true
    ∧ isBit ((snapJob 1 false).reg Reg.netSnapStatus) 0 = true
    ∧ (let s := snapJob (3 * 2 ^ 32 + 2) false
       (s.secureConn 8).any (fun r => !s.snapUnacked r.conn && gives .snapshotPartnerSecured s (fun u => u.reg Reg.netSnapStatus == 3 * 2 ^ 32))) = true
    ∧ (let s := snapJob (3 * 2 ^ 32 + 4) false
       isBit (s.reg Reg.netSnapStatus) 2 && (s.copies.isEmpty && (s.memWf && (s.regsWf && gives (.snapshotFlashSecured false) s (fun u =>
         u.reg Reg.netSnapStatus == 3 * 2 ^ 32 && u.reg (Reg.netSnapSlot 4) == 3 * 2 ^ 32))))) = true
    ∧ (let s := { withRegs (snapJob 0 false) [(Reg.netJobState, jobEMPTY), (Reg.netSnapSlot 0, 3 * 2 ^ 32 + 1)] with hbm := [((snapJob 0 false).slotBase 3 0, 7)] }
       gives .castleClear s (fun u => u.hbm.isEmpty && u.reg (Reg.netSnapSlot 0) == 3 * 2 ^ 32)) = true := by decide +kernel

/-- A self-test of a unit of tile (0, 15, 16), the last of die 0, running or not. -/
def testOf (running : Bool) : TestJob := ⟨0x0916, 0, 15, 16, 5, running, true⟩

/-- A device that has these self-tests; NET_RES_LAST holds a record. -/
def testJob (l : List TestJob) : State := { withRegs State.reset [(Reg.netResLast, 2 ^ 31)] with job := { JobState.reset with tests := l } }

/-- Hypotheses of UnitsAreTestedAndRepairsRecorded; both verdicts, both outcomes of a retest. -/
theorem witness_tests_and_repairs :
    (let s : State := testJob [{ testOf false with code := 0x0917 }, testOf false]
     s.testable && ((s.job.tests.take 1).all (fun y => !y.sameUnit (testOf false)) && gives (.selfTest 1) s (fun u => u.job.tests.map (fun x => x.running) == [false, true])))
      = true
    ∧ [true, false].all (fun lasting =>
        gives (.selfTestVerdict 0 lasting 0) (testJob [testOf true]) (fun u => u.job.tests.isEmpty && u.fld Reg.netResLast 47 46 == if lasting then 2 else 1)) = true
    ∧ [true, false].all (fun again => gives (.eccRetest 0 again) ({ State.reset with retests := [⟨0, 0, 0⟩] } : State) (fun u =>
        u.reg (Reg.netResCount 3) == 1 && u.reg (Reg.netResCount 4) == b2n again)) = true
    ∧ (let s := { State.reset with repairsDue := [[4, 5]] }
       !s.pauseMgt && gives .repairRecordWrite s (fun u => u.repairEntries == [[4, 5]] && u.repairsDue.isEmpty)) = true := by decide +kernel

/-- A record of a FRAKEL_PORT entry and one of another kind; NET_REPAIR_INDEX. -/
def recordJob (i st : Nat) : State :=
  { withRegs State.reset [(Reg.netRepairIndex, i), (Reg.netJobState, st)] with repair0 := ⟨1, [padTo 16 [7, 2], padTo 16 [1]], true⟩ }

/-- Hypotheses of RepairEntriesArePermanent: removed in EMPTY and STOPPED; refused in LOADED, for another kind, and for no entry. -/
theorem witness_repair_entries : [jobEMPTY, jobSTOPPED].all (fun st => let s := recordJob 0 st
      s.repairEntry.any (fun e => leAt e 0 1 == 7) && (s.repairable && gives .netRepairRemove s (fun u => u.repairEntries == [padTo 16 [1]]))) = true
    ∧ [(0, jobLOADED), (1, jobEMPTY), (2, jobEMPTY)].all (fun q => let s := recordJob q.1 q.2
      s.repairEntry.all (fun e => leAt e 0 1 != 7 || !s.repairable) && gives .netRepairRemove s (fun u =>
        u.fld Reg.netRepairCmd 31 16 == 0x0908 && u.repairEntries.length == 2)) = true
    ∧ gives .netRepairRead (recordJob 0 jobEMPTY) (fun u => u.reg (Reg.netRepairData 0) == 0x207) = true := by decide +kernel

/-! ### Resets and faults of the host side -/

/-- Hypotheses of ResetsAndBringUp; the slowest and the fastest link, the ends of the supply's range. -/
theorem witness_resets :
    (let s := { hostJob [] with conns := [(0, ConnState.reset)], sram := [(0, 1)] }
     s.ready && (gives .dieReset s (fun u => u.ready && (u.sram.isEmpty && (u.conns.isEmpty && u.regions == s.regions)))
       && (gives .ioDieReset s (fun u => u.ready && u.ports.isEmpty) && (s.fld Reg.hqDevStatus 7 4 == 5
         && gives .flr s (fun u => u.regions.isEmpty && !u.sqEnabled 0))))) = true
    ∧ (let s := { hostJob [] with trained := true }
       [(1, 8), (6, 16)].all (fun q => linkOk q.1 q.2 && gives (.fundamentalReset false q.1 q.2) s (fun u => u.ready && u.fld Reg.hqDevStatus 31 24 == q.1))
         && gives (.fundamentalReset true 6 16) s (fun u => !u.ready)) = true
    ∧ (let s := { withRegs State.reset [(Reg.hqDevStatus, 0)] with mgmt := { State.reset.mgmt with modReady := true }, trained := false }
       linkOk 1 8 && gives (.perstDeassert 1 8) s (fun u => u.fld Reg.hqDevStatus 7 4 == 2 && u.fld (Reg.hbmStatus 15) 2 0 == 1)) = true
    ∧ [([] : List Stack), [0, 15]].all (fun failed => [0x20, 0x30].all (fun st => gives (.hbmInitDone failed) (withRegs State.reset [(Reg.hqDevStatus, st)]) (fun u =>
        u.ready && (u.fld (Reg.hbmStatus 15) 2 0 == if failed.isEmpty then 3 else 4)))) = true
    ∧ [40000, 60000].all (fun mv => let s := { State.reset with mgmt := { State.reset.mgmt with running := false } }
        s.fwCheck 0 s.mgmt.fw0.act false == 0 && gives (.powerOn ⟨none, true, true, true, true, [], 0, mv⟩) s (fun u =>
          u.mgmt.running && u.fld Reg.mgtPwrStatus 47 32 == mv)) = true := by decide +kernel

/-- Hypotheses of HostSideFaultsAndBar2: the ends of BAR0 and of die 0's memory, both regions that a write may reach, and a hole. -/
theorem witness_host_faults :
    gives .d3hotEntry (jobOf [] []) (fun u => u.job.stopD3 && !u.d3) = true
    ∧ gives .d3hotEntry State.reset (fun u => u.d3) = true
    ∧ [(0, 3), (0x03FFFFFF, 8), (2, 4)].all (fun q => (hostJob []).bar0Fault q.1 q.2 && gives (.bar0FaultAccess q.1 q.2) (hostJob []) (fun u =>
        u.reg (Reg.hqErrCount 0) == 1)) = true
    ∧ (let s := withRegs State.reset [(Reg.hqDevStatus, 0x20)]
       !s.filling && (!s.ready && gives (.bar2Read 0 4 []) s (fun u => u.sent == [.bar2 [0, 0, 0, 0]]))) = true
    ∧ (let s := { hostJob [] with hbm := [(0, 7), (1, 9)] }
       !s.filling && ((List.range 2).all (fun i => s.bar2Region i != 3) && gives (.bar2Read 0 2 []) s (fun u => u.sent == [.bar2 [7, 9]]))) = true
    ∧ (let s := withRegs (castleJob []) [(Reg.hqDevStatus, 0x51), (Reg.netJobState, jobSTOPPED)]
       [0, s.slotBase 0 0, s.jobBytes 0 - 1, s.slotBase 3 2].all (fun a => s.bar2Writable a && gives (.bar2Write a [5] []) s (fun u => u.hbm == [(a, 5)]))) = true
    ∧ (let s := withRegs (castleJob []) [(Reg.hqDevStatus, 0x51)]
       !s.filling && [s.slotBase 0 0, s.ownerOff + 2 ^ 38, 2 ^ 40 - 1].all (fun a => !s.bar2Writable a && gives (.bar2Write a [5] []) s (fun u =>
         u.hbm.isEmpty && u.reg (Reg.hqErrCount 0) == 1))) = true := by decide +kernel

/-! ### The management controller -/

/-- The controller runs. -/
def mgmtJob (m : Mgmt → Mgmt) : State := { State.reset with mgmt := m { Mgmt.reset with running := true } }

/-- A request with tag 9. -/
def request (code : Nat) (payload : List Byte) : List Byte := bytesOf [(1, code), (1, 0), (2, 9), (2, 0), (2, payload.length)] ++ payload

/-- It is well sent over MCTP, to a controller that serves it, and a command's payload is as long as it should be. -/
def asks (s : State) (bs : List Byte) (code n : Nat) : Bool :=
  s.mgmtUp && (s.mgmt.pause.isNone && (leAt bs 0 1 == code && (leAt bs 1 1 == 0 && (leAt bs 4 2 == 0 && (leAt bs 6 2 == n && bs.length == 8 + n)))))

/-- The status of the last answer. -/
def answerStatus (u : State) : Option Nat :=
  match u.sent.getLast? with
  | some (.mctp bs) => if leAt bs 1 1 == 1 && leAt bs 2 2 == 9 then some (leAt bs 4 2) else none
  | _ => none

/-- Hypotheses of ManagementRequestsAreAnswered: each request over MCTP, and one in the mailbox. -/
theorem witness_requests :
    (let s := mgmtJob id
     asks s (request 0x01 []) 0x01 0
     && (let b := bytesOf [(1, 1), (3, 0), (4, 0), (2, 8184)]
         asks s (request 0x02 b) 0x02 10 && decide (leAt b 0 1 ≤ 1 ∧ zeroAt b 1 3 = true ∧ 1 ≤ leAt b 8 2 ∧ leAt b 8 2 ≤ 8184))
     && (asks s (request 0x03 (padTo 32 [])) 0x03 32 && (asks s (request 0x40 (padTo 32 [])) 0x40 32
     && (gives (.timeGet (.mctp (request 0x50 []))) s (fun u => asks s (request 0x50 []) 0x50 0 && answerStatus u == some 0)
     && gives (.timeSet (.mctp (request 0x51 (bytesOf [(8, 5)])))) s (fun u => asks s (request 0x51 (bytesOf [(8, 5)])) 0x51 8 && u.reg Reg.mgtTime == 5))))) = true
    ∧ [0, 6].all (fun sev => let b := padTo 28 (bytesOf [(2, 0x0903), (1, sev)])
        asks (mgmtJob id) (request 0x20 b) 0x20 28 && (decide (leAt b 2 1 ≤ 6) && (zeroAt b 3 1 && (zeroAt b 6 2
          && gives (.evtPost (.mctp (request 0x20 b))) (mgmtJob id) (fun u => answerStatus u == some 0 && u.fld Reg.netResStatus 0 0 == 1))))) = true
    ∧ (let s := mgmtJob (fun m => { m with mboxBusy := true, mboxBuf := Mem.write [] 0 (request 0x50 []) })
       let bs := Mem.read s.mgmt.mboxBuf 0 8200
       s.mgmtUp && (s.mgmt.mboxBusy && (leAt bs 0 1 == 0x50 && (leAt bs 6 2 == 0 && gives (.timeGet .mailbox) s (fun u =>
         !u.mgmt.mboxBusy && isBit (u.reg Reg.mgtMboxCtl) 1))))) = true
    ∧ (let s := mgmtJob id
       s.mgmtUp && ([8, 254].all (fun eid => gives (.setEndpointId 31 1 eid) s (fun u => u.mgmt.eid == eid)) && (!s.mgmt.mboxBusy && ((s.cfgValue 2).isNone
         && gives .mboxGo s (fun u => u.fld Reg.mgtMboxCtl 31 16 == 0x0B02))))) = true
    ∧ gives .mboxGo (mgmtJob (fun m => { m with mboxBuf := [(0, 0x51)] })) (fun u => u.mgmt.mboxBusy) = true
    ∧ gives .mboxGo (mgmtJob (fun m => { m with pause := some (0, none) })) (· == mgmtJob (fun m => { m with pause := some (0, none) })) = true
    ∧ (!State.reset.pauseMgt) = true := by decide +kernel

/-- A settings store that holds key 0x8000, twice written, and key 1. -/
def storeJob : State := mgmtJob (fun m => { m with half0 := ⟨true, 3, [⟨0x8000, 0, false, 0, [1], true, true⟩, ⟨0x8000, 0, false, 1, [2, 3], true, false⟩, ⟨1, 1, false, 2, [0, 1, 0, 0], true, false⟩]⟩,
                                                                     cfgSeq := 2 })

/-- Its hypotheses for the settings: a value of 1 byte and one of 4,096, a register's value, a deleted key, a key without a value. -/
theorem witness_settings :
    storeJob.mgmt.half.records.all (fun r => decide (r.seq ≤ storeJob.mgmt.cfgSeq)) = true
    ∧ [(0x8000, [7]), (0xFFFF, List.replicate 4096 7), (1, [1, 1, 0, 0])].all (fun (q : Nat × List Byte) =>
        let b := bytesOf [(2, q.1), (2, 0), (2, q.2.length), (2, 0)] ++ q.2
        asks storeJob (request 0x31 b) 0x31 b.length && (decide (9 ≤ b.length ∧ b.length ≤ 4104) && (zeroAt b 2 2 && (zeroAt b 6 2
          && (leAt b 4 2 == (b.drop 8).length && (!cfgReserved (leAt b 0 2) && (cfgValueOk (leAt b 0 2) (b.drop 8)
          && (decide (storeJob.mgmt.half.ownerBytes (leAt b 0 2) (b.drop 8).length ≤ 2 ^ 21)
          && gives (.cfgSet (.mctp (request 0x31 b))) storeJob (fun u => u.cfgValue q.1 == some q.2))))))))) = true
    ∧ [(0x8000, [2, 3]), (1, [0, 1, 0, 0]), (0xFFFF, [])].all (fun (q : Nat × List Byte) =>
        let b := bytesOf [(2, q.1)]
        asks storeJob (request 0x30 b) 0x30 2 && (asks storeJob (request 0x32 b) 0x32 2 && (!cfgReserved q.1 && (((storeJob.cfgValue q.1).getD [] == q.2)
          && gives (.cfgDelete (.mctp (request 0x32 b))) storeJob (fun u => (u.cfgValue q.1).isNone))))) = true := by decide +kernel

/-- A half of the store that holds one value of `n` bytes. -/
def halfOf (n : Nat) : CfgHalf := ⟨true, 0, [⟨0x8000, 0, false, 0, List.replicate n 0, true, false⟩]⟩

/-- Its hypotheses for a compaction: with a value of 6 MiB the half is due. -/
theorem witness_compaction (n : Nat) : n ≤ (halfOf n).used ∧ (mgmtJob (fun m => { m with half0 := halfOf n })).mgmt.half = halfOf n
    ∧ (mgmtJob (fun m => { m with half0 := halfOf n })).mgmt.running = true := by
  refine ⟨?_, rfl, rfl⟩
  simp only [CfgHalf.used, halfOf, CfgRec.size, List.map_cons, List.map_nil, List.foldl_cons, List.foldl_nil, List.length_replicate]
  omega

/-- A component with these slots, the first active; its self-test has passed. -/
def compOf (a b : FwSlot) : FwComp := ⟨a, b, 0, 0, true, 0⟩
def madeAs (st k : Nat) : FwSlot := { FwSlot.made k with st := st }
/-- Both components hold these. -/
def fwJob (a b : Nat) (session : Option (Nat × Nat)) (pause : Option (Nat × Option MgmtPath)) : State :=
  mgmtJob (fun m => { m with fw0 := compOf (madeAs a 0) (madeAs b 0), fw1 := compOf (madeAs a 1) (madeAs b 1), session := session, pause := pause })

/-- Hypotheses of FirmwareIsStagedTriedAndConfirmed, for either component. -/
theorem witness_firmware : (List.range 2).all (fun k =>
      (let s := fwJob slotCONFIRMED slotRETIRED none none
       let b := bytesOf [(1, k), (7, 0), (8, 6400)]
       asks s (request 0x10 b) 0x10 16 && (zeroAt b 1 7 && ((s.fw k).act.st != slotTRIAL && gives (.fwBegin (.mctp (request 0x10 b))) s (fun u =>
         u.mgmt.session == some (k, 6400) && (u.fw k).other.st == slotSTAGING))))
      && ((let s := fwJob slotCONFIRMED slotSTAGING (some (k, 6400)) none
           [(0, 1), (6399, 1), (6336, 64)].all (fun q => let b := bytesOf [(8, q.1)] ++ List.replicate q.2 5
             asks s (request 0x11 b) 0x11 (8 + q.2) && (decide (leAt b 0 8 + q.2 ≤ 6400) && gives (.fwData (.mctp (request 0x11 b))) s (fun u =>
               Mem.le (u.fw k).other.image q.1 1 == 5)))
             && (asks s (request 0x12 []) 0x12 0 && (gives (.fwEnd (.mctp (request 0x12 []))) s (fun u => u.mgmt.session.isNone)
               && gives .fwSessionTimeout s (fun u => u.mgmt.session.isNone && (u.fw k).other == .empty))))
      && ((let s := fwJob slotCONFIRMED slotSTAGED none none
           asks s (request 0x13 [Byte.of k]) 0x13 1 && (decide ((s.fw k).floor ≤ (s.fw k).other.sv) && (s.jobState == jobEMPTY && (!s.filling
             && gives (.fwActivate (.mctp (request 0x13 [Byte.of k]))) s (fun u => u.mgmt.pause == some (k, some ⟨true, 9, 0x13⟩))))))
      && ((let s := fwJob slotCONFIRMED slotSTAGED none (some (k, none))
           s.fwCheck k (s.fw k).other false == 0 && (gives (.servicePauseEnd true) s (fun u => (u.fw k).act.st == slotTRIAL && (u.fw k).active == 1)
             && gives (.servicePauseEnd false) s (fun u => u.mgmt.pause == some (k + 2, none))))
      && ((let s := fwJob slotCONFIRMED slotREJECTED none (some (k + 2, none))
           s.fwCheck k (s.fw k).act false == 0 && gives (.servicePauseEnd true) s (fun u => u.mgmt.pause.isNone))
      && (let s := fwJob slotTRIAL slotCONFIRMED none none
          s.mgmtUp && (asks s (request 0x14 [Byte.of k]) 0x14 1 && (asks s (request 0x15 [Byte.of k]) 0x15 1 && ((s.fw k).selftest
            && (gives (.fwConfirm (.mctp (request 0x14 [Byte.of k]))) s (fun u => (u.fw k).act.st == slotCONFIRMED)
            && gives (.fwReject (.mctp (request 0x15 [Byte.of k]))) s (fun u => (u.fw k).active == 1 && u.mgmt.pause == some (k + 2, some ⟨true, 9, 0x15⟩)))))))))))) = true
    ∧ (let s := fwJob slotTRIAL slotCONFIRMED none none
       (s.fw 0).act.st == slotTRIAL && (gives (.fwTrialTimer 1) s (fun u => (u.fw 1).act.st == slotCONFIRMED)
         && gives (.fwWatchdog 0) s (fun u => (u.fw 0).active == 1 && u.mgmt.pause == some (2, none)))) = true := by decide +kernel

/-! ### Recorder, meter and power -/

/-- A record of 64 bytes whose CRC holds. -/
def sealedRecord : List Byte := let b := padTo 60 (bytesOf [(8, 5), (4, 1)]); b ++ leBytes 4 (crc32c b)

/-- A recorder whose queue holds a group of two, and whose flash holds SEQ 5. -/
def recorderJob : State :=
  { mgmtJob id with recorder := ⟨[⟨sevINFO, 6, [sealedRecord, sealedRecord]⟩], 8, 3, [⟨[⟨5, sevINFO, sealedRecord⟩], 0⟩]⟩ }

/-- A meter that has counted, with other fields of the last message. -/
def meterJob (status : Nat) : State :=
  withRegs { jobOf [] [] with meter := { Meter.reset with passes := 7, steps := 5, updates := 3, lastPasses := 4, range := true } } [(Reg.mtrStatus, status)]

/-- Hypotheses of RecorderAndMeterKeepTheirCounts; samples at the ends of the input's range. -/
theorem witness_recorder_and_meter :
    (let s := recorderJob
     s.mgmtUp && (s.recorder.queue.all (fun g => !g.records.isEmpty && decide (g.seq + g.records.length ≤ 2 ^ 64))
       && gives .eventFlashDrain s (fun u => u.reg Reg.evtHead == 7 && u.recorder.queue.isEmpty))) = true
    ∧ (decide (recorderJob.recorder.dropped ≠ 0 ∧ recorderJob.recorder.used < 4096)
       && gives .evtDropReport recorderJob (fun u => u.recorder.dropped == 0)) = true
    ∧ [0, 5].all (fun n => !recorderJob.pauseMgt && ((recorderJob.recorder.find n).any (fun r => leAt r.bytes 60 4 == crc32c (r.bytes.take 60))
        && gives (.evtSelWrite n []) recorderJob (fun u => u.reg Reg.evtReadStatus == 1 && u.reg (Reg.evtRec 0) == 5))) = true
    ∧ [6, 2 ^ 64 - 1].all (fun n => (recorderJob.recorder.find n).isNone && gives (.evtSelWrite n []) recorderJob (fun u => u.reg Reg.evtReadStatus == 0)) = true
    ∧ [(40000, false), (39999, true), (60000, false), (60001, true)].all (fun q => gives (.meterSample q.1 50000) State.reset (fun u =>
        u.meter.range == q.2 && u.reg Reg.mtrEnergy == q.1 * 50000 * 20 / 10 ^ 9)) = true
    ∧ gives .meterSecond (meterJob 0) (fun u => isBit (u.reg Reg.mtrStatus) 2 && !u.meter.range) = true
    ∧ ((meterJob 0).meter.run == (meterJob 0).meter.lastRun && gives (.meterWorkMessage true) (meterJob 0) (fun u =>
        u.reg Reg.mtrPasses == 3 && (u.reg Reg.mtrSteps == 5 && u.reg Reg.mtrUpdates == 3))) = true
    ∧ [(Instr.meterLinkTimeout, 3), (.meterTamper, 1), (.meterSelfcheckFail, 4)].all (fun q => let s := meterJob (31 - 2 ^ q.2)
        s.running && (!isBit (s.reg Reg.mtrStatus) q.2 && gives q.1 s (fun u => isBit (u.reg Reg.mtrStatus) q.2))) = true := by decide +kernel

/-- A powered module with MGT_PWR_CTL and MGT_PWR_STATUS, whose power manager is changed. -/
def powerJob (ctl status : Nat) (f : Power → Power) : State :=
  let s := withRegs (mgmtJob id) [(Reg.mgtPwrCtl, ctl), (Reg.mgtPwrStatus, status), (Reg.netJobState, jobRUNNING)]
  { s with power := f { Power.reset with on := true } }
def level10 : Nat := 10 * 2 ^ 24 + 2400

/-- Hypotheses of PowerFollowsItsLimits, with the bounds of each range: 3,200 W and above; the limit and 95% of it; 38, 40 and 60 V. -/
theorem witness_power :
    gives .powerPeak (powerJob level10 (10 * 2 ^ 28) id) (fun u => u.fld Reg.mgtPwrStatus 31 28 == 0) = true
    ∧ (gives (.powerFast 3200) (powerJob level10 0 (fun p => { p with fastStage := 3, stops := 2 })) (fun u => u.power.fastStage == 0 && u.power.stops == 0)
       && (gives (.powerFast 3201) (powerJob level10 0 (fun p => { p with fastMs := 7 })) (fun u => u.power.fastStage == 1 && u.power.fast == 8)
       && (gives (.powerFast 3201) (powerJob level10 0 (fun p => { p with fastStage := 1 })) (fun u => u.power.fastStage == 2)
       && gives (.powerFast 3201) (powerJob level10 0 (fun p => { p with fastStage := 2 })) (fun u => u.power.fastStage == 3 && u.job.stopPower)))) = true
    ∧ [(2401, 9, 0), (2400, 10, 0), (2280, 10, 0), (2279, 10, 1)].all (fun q => gives (.powerSlow q.1) (powerJob level10 0 id) (fun u =>
        u.power.slow == q.2.1 && u.power.lowSeconds == q.2.2)) = true
    ∧ gives .powerRaise (powerJob level10 0 (fun p => { p with lowSeconds := 5, peak := 0, fast := 10, slow := 9 })) (fun u =>
        u.power.peak == 1 && (u.power.fast == 10 && (u.power.slow == 10 && u.fld Reg.mgtPwrStatus 31 28 == 1))) = true
    ∧ (let s := powerJob level10 (10 * 2 ^ 28) id
       decide (s.fld Reg.mgtPwrCtl 27 24 ≤ s.fld Reg.mgtPwrStatus 31 28)) = true
    ∧ gives (.sensorPoll ⟨List.replicate 23 none, none⟩) (powerJob level10 0 id) (fun u => u.reg (Reg.mgtTemp 22) == 0) = true
    ∧ gives (.sensorPoll ⟨List.replicate 23 (some 0x1900), some 9000⟩) (powerJob level10 0 id) (fun u => u.reg (Reg.mgtTemp 0) == 2 ^ 31 + 0x1900) = true
    ∧ [(40000, 10), (60000, 10), (38000, 0), (39999, 0)].all (fun q => gives (.inputVoltageChange q.1) (powerJob level10 0 id) (fun u =>
        u.power.voltage == q.2 && (u.fld Reg.mgtPwrStatus 47 32 == q.1 && (isBit (u.reg Reg.mgtPwrStatus) 0 == decide (q.1 < 40000))))) = true
    ∧ [37999, 34000, 33999].all (fun mv => gives (.inputVoltageChange mv) (powerJob level10 0 id) (fun u =>
        !u.power.on && (u.jobState == jobEMPTY && u.mgmt.running == decide (34000 ≤ mv)))) = true
    ∧ gives .inputMarginTimeout (powerJob level10 1 id) (fun u => isBit u.power.stops 0 && u.job.stopPower) = true
    ∧ [40000, 60000].all (fun mv => let s := powerJob level10 (mv * 2 ^ 32) (fun p => { p with on := false, faulted := true })
        s.mgmtUp && (s.fld Reg.mgtPwrStatus 47 32 == mv && gives (.inputRestored true) s (fun u => u.power.on && !u.power.faulted))) = true
    ∧ gives (.tripRecovery true) (powerJob level10 (48000 * 2 ^ 32) (fun p => { p with on := false, tripped := true })) (fun u => u.power.on && !u.power.tripped) = true
    ∧ [1, 2].all (fun n => gives .thermalTrip (powerJob level10 0 (fun p => { p with trips := List.replicate n 60 })) (fun u =>
        !u.power.on && (u.power.tripped && u.power.locked == decide (n = 2)))) = true
    ∧ (let s := powerJob level10 0 id
       s.mgmtUp && (gives (.refclkCheck true true) s (fun u => !u.mgmt.mclkBad) && gives (.refclkCheck false true) s (fun u =>
         u.mgmt.mclkBad && isBit (u.reg Reg.mgtPwrStatus) 6))) = true := by decide +kernel

/-! ### Writes of registers -/

/-- The last tile of die 3, and the last spare window. -/
def lastTile : TileWin := .tile 1023
def lastSpare : TileWin := .spare 3 15

/-- A device with its dies up, in a job state. -/
def writable (st : Nat) (regs : List (Nat × Nat)) : State := withRegs State.reset ([(Reg.hqDevStatus, 0x51), (Reg.netJobState, st)] ++ regs)

/-- Hypotheses of RepairAndQuantisationWrites: a row of the array taken out of use and a write that R80 refuses; a promotion at either end of
its row; the smallest and the largest step, and the patterns beside them. -/
theorem witness_repair_writes :
    [lastTile, lastSpare].all (fun w => let s := writable jobEMPTY []
      s.diesUp && ([0, 0x3F, 0x7F].all (fun v => !s.arrRefused (s.winTile w) v && gives (.tlArrRepairWrite w v) s (fun u =>
          u.fld (Reg.tlArrRepair (s.winTile w)) 6 0 == v && (u.repairsDue.length == if v = 0x7F then 0 else 1)))
        && [0x40, 0x7E].all (fun v => s.arrRefused (s.winTile w) v && gives (.tlArrRepairWrite w v) s (fun u =>
          u.fld (Reg.tlArrRepair (s.winTile w)) 31 16 == 0x090C)))) = true
    ∧ [0, 15].all (fun v => let s := writable jobSTOPPED []
        s.repairable && (s.fld (Reg.dieRowRepair 3 15) 4 0 == 0x1F && (!isBit (s.reg (Reg.dieRowRepair 3 15)) 9 && gives (.dieRowRepairWrite 3 15 v) s (fun u =>
          u.fld (Reg.dieRowRepair 3 15) 4 0 == v && (u.job.mustRestore && u.repairsDue.length == 1))))) = true
    ∧ gives (.dieRowRepairWrite 3 15 15) (writable jobRUNNING []) (fun u => u.fld (Reg.dieRepairStatus 3) 31 16 == 0x0505) = true
    ∧ [0x00800000, 0x7F7FFFFF].all (fun v => let s := writable jobLOADED []
        s.qntOpen && (stepOk v && gives (.tlQntWrite lastTile (0x800 + 4 * 63) v) s (fun u => u.reg (Reg.tlQntChScale (s.winTile lastTile) 63) == v))) = true
    ∧ [0x007FFFFF, 0x7F800000].all (fun v => !stepOk v) = true
    ∧ gives (.tlQntWrite lastSpare 0x900 5) (writable jobEMPTY []) (fun u => u.reg (Reg.tlQntChBias (u.winTile lastSpare) 0) == 5) = true
    ∧ (let s := withRegs State.reset [(Reg.hqDevStatus, 0x20)]
       !s.diesUp && gives (.qntCalReset lastTile) s (fun u => u.reg (Reg.hqErrCount 0) == 1)) = true := by decide +kernel

/-- Hypotheses of OtherRegisterWrites, with the limits of each range. -/
theorem witness_register_writes :
    [0, 2 ^ 64 - 2].all (fun v => gives (.netStepLimitWrite v) (writable jobSTOPPED []) (fun u => u.reg Reg.netStepLimit == v)) = true
    ∧ (let s := writable jobEMPTY []
       [0, 1, 3].all (fun v => decide (v % 2 ^ 16 * 2 ^ 30 < s.imageOff ∧ s.castleBytes 0 < s.imageOff)
         && gives (.hbmCastleSizeWrite 0 v) s (fun u => u.fld (Reg.hbmCastleSize 0) 15 0 == v))) = true
    ∧ (let s := writable jobEMPTY []
       let s1 := s.setReg Reg.frkAxes 0x20200201
       (List.range 4).all (fun i => decide (1 ≤ s1.axisLen i ∧ s1.axisLen i ≤ 32 ∧ coord s1.ownAddr i < s1.axisLen i))
         && (decide (s1.axisLen 0 * s1.axisLen 1 * s1.axisLen 2 * s1.axisLen 3 ≤ 65536)
         && gives (.frkAddrWrite true 0x20200201) s (fun u => u.reg Reg.frkAxes == 0x20200201))) = true
    ∧ (let s := writable jobEMPTY [(Reg.frkAxes, 0x20200201)]
       let s1 := s.setReg Reg.frkAddr (bit 0x20 31 * 2 ^ 31 + 0x20)
       (List.range 4).all (fun i => decide (coord s1.ownAddr i < s1.axisLen i)) && gives (.frkAddrWrite false 0x20) s (fun u => u.ownAddr == 0x20)) = true
    ∧ (let v := 5 * 2 ^ 24 + 2 ^ 16 + 1
       [(jobSTOPPED, 5), (jobRUNNING, 0)].all (fun q => decide (bits v 23 16 ≠ 0 ∧ bits v 15 0 ≠ 0) && (!isBit ((writable q.1 []).reg Reg.netSnapStatus) 1
         && gives (.xepochWrite v) (writable q.1 []) (fun u => u.fld Reg.frkXportCtl 31 24 == q.2 && u.fld Reg.frkXportCtl 23 0 == 2 ^ 16 + 1)))) = true
    ∧ (let s := writable jobEMPTY [(Reg.frkRouteIndex, 65535), (Reg.frkRouteData, 2 ^ 63 + 5)]
       bits (s.reg Reg.frkRouteData) 62 56 == 0 && (bits (s.reg Reg.frkRouteData) 46 20 == 0 && gives .frkRouteWrite s (fun u =>
         u.routeEntry 65535 == 2 ^ 63 + 5))) = true
    ∧ [1, 2 ^ 4].all (fun v => let s := writable jobLOADED [(tileKey (State.reset.winTile lastTile) 0x400, 9), (tileKey (State.reset.winTile lastTile) 0x410, 9)]
        let a := 0x02000000 + 3 * 0x00800000 + 0x00100000 + 255 * 0x4000 + 0x420
        !s.bar0Fault a 4 && ((s.keyOf a).any (fun k => s.writeOpen k && (k - 0x10000000) % 0x4000 != 0x608) && gives (.counterClear a v []) s (fun u =>
          u.reg (tileKey (s.winTile lastTile) 0x400) + u.reg (tileKey (s.winTile lastTile) 0x410) == 9))) = true
    ∧ (let s := (writable jobLOADED [(Reg.tlQntChMin (State.reset.winTile lastTile) 5, 9)]).setTile (State.reset.winTile lastTile) { TileState.reset with amax := [(3, 5#32)] }
       let a := 0x02000000 + 3 * 0x00800000 + 0x00100000 + 255 * 0x4000 + 0x608
       !s.bar0Fault a 4 && ((s.keyOf a).any (fun k => s.writeOpen k && (isQntClear k && (s.qntOpen && (k - 0x10000000) / 0x4000 == s.winTile lastTile)))
         && gives (.counterClear a (2 ^ 17 + 2 ^ 3) []) s (fun u => u.reg (Reg.tlQntChMin (s.winTile lastTile) 5) == 0x7F800000 && (u.tile (s.winTile lastTile)).amax.isEmpty)))
      = true
    ∧ (let s := writable jobEMPTY []
       let k := Reg.mgtPwrCtl
       !s.bar0Fault k 4 && (s.keyOf k == some k && (decide (k < 0x500000) && ((Reg.desc k).isSome && (!bufferAddr k && (!isWide k && (!isWide (k - 4) && (!ownRow k
         && ((s.clears k).isEmpty && s.writeOpen k && [10 * 2 ^ 24 + 1000, 3200].all (fun v => !reservedValue k v && gives (.registerWrite k false v) s (fun u =>
           u.fld k 27 24 == bits v 27 24 && u.fld k 11 0 == bits v 11 0))))))))))) = true
    ∧ (let s := writable jobEMPTY []
       let k := Reg.hqSqBase 2
       !s.bar0Fault k 8 && (s.keyOf k == some k && (decide (k < 0x500000) && ((Reg.desc k).isSome && (!bufferAddr k && (isWide k && (!isWide (k - 4) && (!ownRow k
         && ((s.clears k).isEmpty && (s.writeOpen k && (!reservedValue k (2 ^ 40) && gives (.registerWrite k true (2 ^ 40)) s (fun u => u.reg k == 2 ^ 40))))))))))))
      = true := by decide +kernel

/-- Hypotheses of UnassignedOffsetsReadZeroAndDiscardWrites: offsets that no map assigns, below and in the dies' windows. -/
theorem witness_unassigned : [0x50, 0x02000FF8, 0x03FFFFF8].all (fun a => let s := writable jobEMPTY []
    [a, a + 4].all (fun a => !bufferAddr a && (s.keyOf a).all (fun k => (Reg.desc k).isNone && !isWide (k - 4))) && (!s.bar0Fault a 8
      && (gives (.registerWrite a true 5) s (fun u => u == s) && gives (.registerWrite a false 5) s (fun u => u == s)))) = true := by decide +kernel

end Sys2Proof.Tests
end

section
/-! PROOFS. Accesses to offsets of BAR0 that no register map assigns (R15): a read gives 0, a write leaves the state as it was, and a
write into the meter's window is counted as a fault of the host side besides (R510, R470). -/

namespace Sys2Proof.Machine

/-! ### What a state that differs in records alone keeps -/

theorem bytesSame_refl (m : Mem) : bytesSame m m := fun _ _ => rfl

theorem memoriesKept_refl (s : State) : memoriesKept s s :=
  ⟨⟨bytesSame_refl _, rfl⟩, bytesSame_refl _, ⟨bytesSame_refl _, bytesSame_refl _, bytesSame_refl _⟩, bytesSame_refl _⟩

theorem tilesKept_refl (s : State) : tilesKept s s := ⟨rfl, rfl, rfl, rfl, rfl⟩

theorem regsKept_refl (p : Nat → Prop) (s : State) : regsKept p s s := fun _ _ => rfl

theorem memoriesKept_of_recordsOnly {s t : State} (h : recordsOnly s t) : memoriesKept s t := by
  rw [h]
  exact memoriesKept_refl s

theorem tilesKept_of_recordsOnly {s t : State} (h : recordsOnly s t) : tilesKept s t := by
  rw [h]
  exact tilesKept_refl s

/-! ### Faults of the host side (R484) -/

theorem State.hostFault_records (s : State) (i : Nat) : recordsOnly s (s.hostFault i) :=
  recordsOnly_trans _ _ _ (State.count_records _ _ _) (State.cause_records _ _)

theorem State.hostFault_regsKept (s : State) (i : Nat) :
    regsKept (fun k => k = Reg.hqErrCount i ∨ k = Reg.hqIntCause) s (s.hostFault i) := by
  intro k hk
  obtain ⟨hcount, hcause⟩ := not_or.mp hk
  exact (State.reg_cause_other _ _ _ hcause).trans (State.reg_count_other _ _ _ _ hcount)

/-! ### Keys that no map assigns -/

theorem isWide_of_desc_none {k : Nat} (h : Reg.desc k = none) : isWide k = false := by
  simp [isWide, h]

theorem State.readReg_of_desc_none (s : State) {k : Nat} (h : Reg.desc k = none) : s.readReg k = 0 := by
  simp [State.readReg, h]

theorem State.writeKey_of_desc_none (s : State) {k : Nat} (h : Reg.desc k = none) (v : Nat) : s.writeKey k v = s := by
  simp [State.writeKey, h]

/-! ### Offsets that no map assigns (R9, R15) -/

/-- No register map and no buffer assigns the word at `a`: its key, if it has one, begins no register and is not the upper half of a
64-bit one. -/
def State.Unassigned (s : State) (a : Nat) : Prop :=
  bufferAddr a = false ∧ ∀ k, s.keyOf a = some k → Reg.desc k = none ∧ (4 ≤ k → isWide (k - 4) = false)

section Unassigned
variable {s : State} {a : Nat}

theorem State.read32_of_unassigned (h : s.Unassigned a) : s.read32 a = 0 := by
  obtain ⟨hbuf, hkey⟩ := h
  unfold State.read32
  cases hk : s.keyOf a with
  | none => simp [hbuf]
  | some k =>
    obtain ⟨hdesc, hlow⟩ := hkey k hk
    have hupper : (decide (4 ≤ k) && isWide (k - 4)) = false := by simpa using hlow
    simp [hbuf, isWide_of_desc_none hdesc, hupper, s.readReg_of_desc_none hdesc]

/-- A 64-bit read there is two 32-bit reads (R9). -/
theorem State.read64_of_unassigned (h : s.Unassigned a) (h4 : s.Unassigned (a + 4)) : s.read64 a = 0 := by
  unfold State.read64
  cases hk : s.keyOf a with
  | none => simp
  | some k =>
    obtain ⟨hdesc, -⟩ := h.2 k hk
    simp [isWide_of_desc_none hdesc, State.read32_of_unassigned h, State.read32_of_unassigned h4]

theorem State.write32_of_unassigned (h : s.Unassigned a) (v : Nat) : s.write32 a v = s := by
  unfold State.write32
  cases hk : s.keyOf a with
  | none => rfl
  | some k =>
    obtain ⟨hdesc, -⟩ := h.2 k hk
    simp [s.writeKey_of_desc_none hdesc]

/-- A 64-bit write there is two 32-bit writes (R9). -/
theorem State.write64_of_unassigned (h : s.Unassigned a) (h4 : s.Unassigned (a + 4)) (v : Nat) : s.write64 a v = s := by
  unfold State.write64
  cases hk : s.keyOf a with
  | none => rfl
  | some k =>
    obtain ⟨hdesc, -⟩ := h.2 k hk
    simp [isWide_of_desc_none hdesc, State.write32_of_unassigned h, State.write32_of_unassigned h4]

/-- A write that R470 does not handle counts a fault in the meter's window (R510) and is discarded elsewhere. -/
theorem exec_registerWrite_of_unassigned (h : s.Unassigned a) (wide : Bool) (value : Nat) (hbar : a < 0x04000000)
    (hfault : s.bar0Fault a (if wide then 8 else 4) = false) (h4 : wide = true → s.Unassigned (a + 4)) :
    exec (.registerWrite a wide value) s = .next (if 0x500000 ≤ a ∧ a < 0x510000 then s.hostFault 0 else s) := by
  have hdiscard : (if wide then s.write64 a value else s.write32 a value) = s := by
    cases wide with
    | false => exact State.write32_of_unassigned h value
    | true => exact State.write64_of_unassigned h (h4 rfl) value
  change execRegisterWrite a wide value s = _
  simp only [execRegisterWrite, hfault, h.1, hdiscard, Nat.not_le.mpr hbar, decide_false, Bool.or_self, Bool.false_eq_true, if_false]
  split <;> rfl

end Unassigned

/-- Settles O60: reads and writes at an unassigned offset fall through to no register, and in the meter's window the write changes the
fault counter and the cause alone. -/
theorem unassignedOffsetsReadZeroAndDiscardWrites : Obligations.UnassignedOffsetsReadZeroAndDiscardWrites := by
  intro s addr unassigned h
  refine ⟨State.read32_of_unassigned h, State.read64_of_unassigned h, fun wide value hbar hfault h4 => ?_⟩
  refine ⟨_, exec_registerWrite_of_unassigned h wide value hbar hfault h4, ?_⟩
  by_cases hmeter : 0x500000 ≤ addr ∧ addr < 0x510000
  · rw [if_pos hmeter]
    exact ⟨memoriesKept_of_recordsOnly (s.hostFault_records 0), tilesKept_of_recordsOnly (s.hostFault_records 0),
      s.hostFault_regsKept 0, fun hout => absurd hmeter hout⟩
  · rw [if_neg hmeter]
    exact ⟨memoriesKept_refl s, tilesKept_refl s, regsKept_refl _ s, fun _ => rfl⟩

end Sys2Proof.Machine
end

section
/-! PROOFS. The NEED of a set of values (R413): on magnitudes the order of exact values is the order of their mantissas at a common
exponent, so the running maximum in `needOf` exceeds a bound exactly when a finite value of the set does, and NEED is the first exponent
whose range it does not exceed. -/

namespace Sys2Proof.Machine

/-! ### The order of magnitudes -/

/-- A finite value without a sign: the magnitude of a finite value, a range of R413, or amax. -/
def Num.IsMag (x : Num) : Prop := ∃ m e, x = .fin false m e

theorem Num.abs_isMag {x : Num} (hx : x.isFin = true) : x.abs.IsMag := by
  cases x with
  | nan => nomatch hx
  | inf neg => nomatch hx
  | fin neg m e => exact ⟨m, e, rfl⟩

/-- Mantissas brought to one exponent are ordered as they are at any lower one. -/
theorem shiftedMantissa_lt_iff {q p e f : Int} (hqp : q ≤ p) (hpe : p ≤ e) (hpf : p ≤ f) (m l : Nat) :
    m * 2 ^ (e - q).toNat < l * 2 ^ (f - q).toNat ↔ m * 2 ^ (e - p).toNat < l * 2 ^ (f - p).toNat := by
  have he : (e - q).toNat = (e - p).toNat + (p - q).toNat := by omega
  have hf : (f - q).toNat = (f - p).toNat + (p - q).toNat := by omega
  rw [he, hf, Nat.pow_add, Nat.pow_add, ← Nat.mul_assoc, ← Nat.mul_assoc]
  exact Nat.mul_lt_mul_right (Nat.two_pow_pos _)

theorem Num.lt_mag_iff {q e f : Int} (hqe : q ≤ e) (hqf : q ≤ f) (m l : Nat) :
    Num.lt (.fin false m e) (.fin false l f) = true ↔ m * 2 ^ (e - q).toNat < l * 2 ^ (f - q).toNat := by
  rw [shiftedMantissa_lt_iff (Int.le_min.mpr ⟨hqe, hqf⟩) (Int.min_le_left e f) (Int.min_le_right e f)]
  by_cases hzero : m = 0 ∧ l = 0
  · obtain ⟨rfl, rfl⟩ := hzero
    simp only [Num.lt, Nat.zero_mul, Nat.lt_irrefl, beq_self_eq_true, Bool.and_self, if_true, Bool.false_eq_true]
  · have hcond : ¬ ((m == 0 && l == 0) = true) := by
      rwa [Bool.and_eq_true, beq_iff_eq, beq_iff_eq]
    simp only [Num.lt, if_neg hcond, Num.intAt, Bool.false_eq_true, if_false, Nat.shiftLeft_eq, decide_eq_true_eq, Int.ofNat_lt]

theorem Num.lt_mag_trans {a b c : Num} (ha : a.IsMag) (hb : b.IsMag) (hc : c.IsMag) (hab : Num.lt a b = true) (hbc : Num.lt b c = true) :
    Num.lt a c = true := by
  obtain ⟨m, e, rfl⟩ := ha
  obtain ⟨l, f, rfl⟩ := hb
  obtain ⟨k, g, rfl⟩ := hc
  have hq : min e (min f g) ≤ e ∧ min e (min f g) ≤ f ∧ min e (min f g) ≤ g := by omega
  obtain ⟨he, hf, hg⟩ := hq
  rw [Num.lt_mag_iff he hf] at hab
  rw [Num.lt_mag_iff hf hg] at hbc
  exact (Num.lt_mag_iff he hg _ _).mpr (Nat.lt_trans hab hbc)

theorem Num.lt_mag_of_lt_of_not_lt {a b c : Num} (ha : a.IsMag) (hb : b.IsMag) (hc : c.IsMag) (hac : Num.lt a c = true)
    (hbc : Num.lt b c = false) : Num.lt a b = true := by
  obtain ⟨m, e, rfl⟩ := ha
  obtain ⟨l, f, rfl⟩ := hb
  obtain ⟨k, g, rfl⟩ := hc
  have hq : min e (min f g) ≤ e ∧ min e (min f g) ≤ f ∧ min e (min f g) ≤ g := by omega
  obtain ⟨he, hf, hg⟩ := hq
  rw [Num.lt_mag_iff he hg] at hac
  rw [← Bool.not_eq_true, Num.lt_mag_iff hf hg] at hbc
  exact (Num.lt_mag_iff he hf _ _).mpr (Nat.lt_of_lt_of_le hac (Nat.not_lt.mp hbc))

theorem Num.lt_zero_eq_false {b : Num} (hb : b.IsMag) : Num.lt b (.fin false 0 0) = false := by
  obtain ⟨m, e, rfl⟩ := hb
  have hq : min e 0 ≤ e ∧ min e 0 ≤ 0 := by omega
  rw [← Bool.not_eq_true, Num.lt_mag_iff hq.1 hq.2, Nat.zero_mul]
  exact Nat.not_lt_zero _

/-- Zero is the one magnitude that does not exceed 0. -/
theorem Num.zero_lt_eq_false_iff {b : Num} (hb : b.IsMag) : Num.lt (.fin false 0 0) b = false ↔ b.isZero = true := by
  obtain ⟨m, e, rfl⟩ := hb
  have hq : min 0 e ≤ 0 ∧ min 0 e ≤ e := by omega
  rw [← Bool.not_eq_true, Num.lt_mag_iff hq.1 hq.2, Nat.zero_mul, Nat.not_lt, Nat.le_zero, Num.isZero, beq_iff_eq, Nat.mul_eq_zero,
    or_iff_left (Nat.ne_of_gt (Nat.two_pow_pos _))]

theorem Num.isZero_abs (x : Num) : x.abs.isZero = x.isZero := by
  cases x <;> rfl

/-! ### The largest finite magnitude of a set -/

/-- One step of the maximum in `needOf`. -/
def keepLarger (a x : Num) : Num := if x.isFin && Num.lt a x.abs then x.abs else a

/-- amax of R413. -/
def amaxOf (xs : List Num) : Num := xs.foldl keepLarger (.fin false 0 0)

theorem keepLarger_of_not_fin {x : Num} (hx : x.isFin = false) (a : Num) : keepLarger a x = a := by
  rw [keepLarger, hx, Bool.false_and, if_neg Bool.false_ne_true]

theorem keepLarger_of_lt {a x : Num} (hx : x.isFin = true) (h : Num.lt a x.abs = true) : keepLarger a x = x.abs := by
  rw [keepLarger, hx, h, Bool.and_self, if_pos rfl]

theorem keepLarger_of_not_lt {a x : Num} (h : Num.lt a x.abs = false) : keepLarger a x = a := by
  rw [keepLarger, h, Bool.and_false, if_neg Bool.false_ne_true]

theorem keepLarger_isMag {a : Num} (ha : a.IsMag) (x : Num) : (keepLarger a x).IsMag := by
  unfold keepLarger
  split
  case isTrue h => exact Num.abs_isMag (Bool.and_eq_true_iff.mp h).1
  case isFalse => exact ha

theorem lt_keepLarger_iff {a b : Num} (ha : a.IsMag) (hb : b.IsMag) (x : Num) :
    Num.lt b (keepLarger a x) = true ↔ Num.lt b a = true ∨ x.isFin = true ∧ Num.lt b x.abs = true := by
  cases hx : x.isFin with
  | false =>
    rw [keepLarger_of_not_fin hx]
    exact ⟨.inl, fun h => h.elim id fun hfin => nomatch hfin.1⟩
  | true =>
    have hxm : x.abs.IsMag := Num.abs_isMag hx
    cases hax : Num.lt a x.abs with
    | true =>
      rw [keepLarger_of_lt hx hax]
      exact ⟨fun h => .inr ⟨rfl, h⟩, fun h => h.elim (fun hba => Num.lt_mag_trans hb ha hxm hba hax) And.right⟩
    | false =>
      rw [keepLarger_of_not_lt hax]
      exact ⟨.inl, fun h => h.elim id fun hbx => Num.lt_mag_of_lt_of_not_lt hb ha hxm hbx.2 hax⟩

theorem foldl_keepLarger_isMag (xs : List Num) {a : Num} (ha : a.IsMag) : (xs.foldl keepLarger a).IsMag := by
  induction xs generalizing a with
  | nil => exact ha
  | cons x xs ih => exact ih (keepLarger_isMag ha x)

theorem foldl_keepLarger_fits_iff (xs : List Num) {a b : Num} (ha : a.IsMag) (hb : b.IsMag) :
    Num.lt b (xs.foldl keepLarger a) = false
      ↔ Num.lt b a = false ∧ ∀ x ∈ xs, x.isFin = true → Num.lt b x.abs = false := by
  induction xs generalizing a with
  | nil => exact ⟨fun h => ⟨h, fun x hx => nomatch hx⟩, And.left⟩
  | cons x xs ih =>
    rw [List.foldl_cons, ih (keepLarger_isMag ha x), ← Bool.not_eq_true, lt_keepLarger_iff ha hb, not_or, Bool.not_eq_true, not_and,
      Bool.not_eq_true, and_assoc, List.forall_mem_cons]

theorem amaxOf_isMag (xs : List Num) : (amaxOf xs).IsMag := foldl_keepLarger_isMag xs ⟨0, 0, rfl⟩

/-- A bound holds of amax exactly when it holds of every finite value of the set. -/
theorem amaxOf_fits_iff (xs : List Num) {b : Num} (hb : b.IsMag) :
    Num.lt b (amaxOf xs) = false ↔ ∀ x ∈ xs, x.isFin = true → Num.lt b x.abs = false :=
  (foldl_keepLarger_fits_iff xs ⟨0, 0, rfl⟩ hb).trans (and_iff_right (Num.lt_zero_eq_false hb))

theorem amaxOf_isZero_iff (xs : List Num) : (amaxOf xs).isZero = true ↔ ∀ x ∈ xs, x.isFin = true → x.isZero = true := by
  rw [← Num.zero_lt_eq_false_iff (amaxOf_isMag xs), amaxOf_fits_iff xs ⟨0, 0, rfl⟩]
  refine forall_congr' fun x => forall_congr' fun _ => forall_congr' fun hx => ?_
  rw [Num.zero_lt_eq_false_iff (Num.abs_isMag hx), Num.isZero_abs]

/-! ### The exponents that NEED chooses from -/

/-- fmax × 2^n of R413. -/
def needRange (wire : Nat) (n : Int) : Num := Num.mul (Num.int (if wire = 3 then 448 else 57344)) (Num.pow2 n)

theorem needRange_isMag (wire : Nat) (n : Int) : (needRange wire n).IsMag := by
  unfold needRange
  split
  case isTrue => exact ⟨448, 0 + n, rfl⟩
  case isFalse => exact ⟨57344, 0 + n, rfl⟩

/-- The first exponent of the range −126 to 96 that amax fits, counted from −126. -/
def firstFit (wire : Nat) (xs : List Num) : Option Nat :=
  (List.range 223).find? (fun i => !Num.lt (needRange wire ((i : Int) - 126)) (amaxOf xs))

theorem fits_of_firstFit_eq_some {wire i : Nat} {xs : List Num} (h : firstFit wire xs = some i) :
    i < 223 ∧ Num.lt (needRange wire ((i : Int) - 126)) (amaxOf xs) = false
      ∧ ∀ j : Nat, j < i → Num.lt (needRange wire ((j : Int) - 126)) (amaxOf xs) = true := by
  obtain ⟨hfits, hi, hbefore⟩ := List.find?_range_eq_some.mp h
  rw [Bool.not_eq_true'] at hfits
  refine ⟨List.mem_range.mp hi, hfits, fun j hj => ?_⟩
  have hj' := hbefore j hj
  rwa [Bool.not_not] at hj'

theorem not_fits_of_firstFit_eq_none {wire : Nat} {xs : List Num} (h : firstFit wire xs = none) (j : Nat) (hj : j < 223) :
    Num.lt (needRange wire ((j : Int) - 126)) (amaxOf xs) = true := by
  have hnot := List.find?_eq_none.mp h j (List.mem_range.mpr hj)
  rwa [Bool.not_eq_true, Bool.not_eq_false'] at hnot

theorem needOf_of_amaxOf_isZero {wire : Nat} {xs : List Num} (h : (amaxOf xs).isZero = true) : needOf wire xs = -127 := if_pos h

theorem needOf_of_firstFit {wire : Nat} {xs : List Num} (h : (amaxOf xs).isZero = false) :
    needOf wire xs = (firstFit wire xs).elim 96 (fun i => (i : Int) - 126) := by
  unfold needOf
  refine (if_neg (Bool.eq_false_iff.mp h)).trans ?_
  split
  case h_1 i hfind =>
    have hfirst : firstFit wire xs = some i := hfind
    rw [hfirst, Option.elim_some]
  case h_2 hfind =>
    have hfirst : firstFit wire xs = none := hfind
    rw [hfirst, Option.elim_none]

/-- NEED is an exponent that amax fits and none before it does, or 96 where amax fits none. -/
theorem needOf_cases {wire : Nat} {xs : List Num} (h : (amaxOf xs).isZero = false) :
    (∃ i : Nat, i < 223 ∧ needOf wire xs = (i : Int) - 126 ∧ Num.lt (needRange wire ((i : Int) - 126)) (amaxOf xs) = false
      ∧ ∀ j : Nat, j < i → Num.lt (needRange wire ((j : Int) - 126)) (amaxOf xs) = true)
    ∨ (needOf wire xs = 96 ∧ ∀ j : Nat, j < 223 → Num.lt (needRange wire ((j : Int) - 126)) (amaxOf xs) = true) := by
  rw [needOf_of_firstFit h]
  cases hfind : firstFit wire xs with
  | none => exact .inr ⟨rfl, not_fits_of_firstFit_eq_none hfind⟩
  | some i =>
    obtain ⟨hi, hfits, hbefore⟩ := fits_of_firstFit_eq_some hfind
    exact .inl ⟨i, hi, rfl, hfits, hbefore⟩

/-- Settles O16: the search meets the exponents in increasing order, and amax fits one exactly when every finite value does. -/
theorem needIsTheSmallestExponent : Obligations.NeedIsTheSmallestExponent := by
  intro wire xs _ fmax fits
  have hfits (n : Int) : Num.lt (needRange wire n) (amaxOf xs) = false ↔ fits n := amaxOf_fits_iff xs (needRange_isMag wire n)
  have hexceeds {n : Int} (h : Num.lt (needRange wire n) (amaxOf xs) = true) : ¬ fits n :=
    fun hn => Bool.eq_false_iff.mp ((hfits n).mpr hn) h
  have hindex {n : Int} (hn : -126 ≤ n) : n = ((n + 126).toNat : Int) - 126 := by omega
  refine ⟨fun hzeros => needOf_of_amaxOf_isZero ((amaxOf_isZero_iff xs).mpr hzeros), fun ⟨x, hx, hfin, hnonzero⟩ => ?_⟩
  have hamax : (amaxOf xs).isZero = false :=
    Bool.eq_false_iff.mpr fun h => Bool.eq_false_iff.mp hnonzero ((amaxOf_isZero_iff xs).mp h x hx hfin)
  rcases needOf_cases (wire := wire) hamax with ⟨i, hi, hneed, hfit, hbefore⟩ | ⟨hneed, hnone⟩
  · rw [hneed]
    refine ⟨by omega, fun n hlow hn => ?_, fun _ => (hfits _).mp hfit⟩
    rw [hindex hlow]
    exact hexceeds (hbefore _ (by omega))
  · rw [hneed]
    refine ⟨by omega, fun n hlow hn => ?_, fun h => absurd h (Int.lt_irrefl 96)⟩
    rw [hindex hlow]
    exact hexceeds (hnone _ (by omega))

end Sys2Proof.Machine
end

section
/-! PROOFS. The repair record stands (R447, R449): what the units of a tile do keeps both of its copies. One lemma per function of the model
that returns a state, tagged for `simp`, so that a function's lemma follows from those of the functions it calls; one that takes a step as
an argument asks it of that step. A command that is one call of such functions has no lemma here; `exec_repairs` below unfolds it. -/

namespace Sys2Proof.Machine

/-- Both copies of the repair record stand as they were. An abbreviation, so that `simp` has the two equations of each lemma below. -/
@[simp] abbrev repairsKept (s u : State) : Prop := u.repair0 = s.repair0 ∧ u.repair1 = s.repair1

theorem repairsKept.trans {s t u : State} (h : repairsKept s t) (k : repairsKept t u) : repairsKept s u :=
  ⟨k.1.trans h.1, k.2.trans h.2⟩

/-! ### Branches -/

@[simp] theorem State.repair0_ite (p : Prop) [Decidable p] (s t : State) :
    (if p then s else t).repair0 = if p then s.repair0 else t.repair0 := apply_ite _ _ _ _

@[simp] theorem State.repair1_ite (p : Prop) [Decidable p] (s t : State) :
    (if p then s else t).repair1 = if p then s.repair1 else t.repair1 := apply_ite _ _ _ _

@[simp] theorem getD_ite {α : Type} (p : Prop) [Decidable p] (x y : Option α) (a : α) :
    (if p then x else y).getD a = if p then x.getD a else y.getD a := apply_ite (fun o => Option.getD o a) p x y

@[simp] theorem fst_ite {α β : Type} (p : Prop) [Decidable p] (x y : α × β) : (if p then x else y).1 = if p then x.1 else y.1 :=
  apply_ite Prod.fst p x y

@[simp] theorem nextOr_next (s t : State) : nextOr s (.next t) = t := rfl

@[simp] theorem nextOr_ite (p : Prop) [Decidable p] (s : State) (a b : Host.Outcome State Fault Refusal) :
    nextOr s (if p then a else b) = if p then nextOr s a else nextOr s b := apply_ite _ _ _ _

/-! ### Loops -/

/-- `repairsKept` as a premise on a loop's body: not an abbreviation, so that the checker compares two of these by their states. -/
def KeepsRepairs (s u : State) : Prop := repairsKept s u

@[simp] theorem keepsRepairs_iff (s u : State) : KeepsRepairs s u ↔ repairsKept s u := ⟨id, id⟩

theorem foldl_get_repairs {σ β : Type} (get : σ → State) (f : σ → β → σ) (hf : ∀ x b, KeepsRepairs (get x) (get (f x b)))
    (l : List β) (x : σ) : repairsKept (get x) (get (l.foldl f x)) := by
  induction l generalizing x with
  | nil => exact ⟨rfl, rfl⟩
  | cons b l ih => exact repairsKept.trans (hf x b) (ih (f x b))

@[simp] theorem foldl_repairs {β : Type} (f : State → β → State) (hf : ∀ s x, KeepsRepairs s (f s x)) (l : List β) (s : State) :
    repairsKept s (l.foldl f s) := foldl_get_repairs id f hf l s

@[simp] theorem foldl_fst_repairs {α β : Type} (f : State × α → β → State × α) (hf : ∀ x b, KeepsRepairs x.1 (f x b).1)
    (l : List β) (x : State × α) : repairsKept x.1 (l.foldl f x).1 := foldl_get_repairs Prod.fst f hf l x

/-! ### Counters and error records -/

@[simp] theorem State.countShadow_repairs (s : State) (k n : Nat) : repairsKept s (s.countShadow k n) := by simp [State.countShadow]

@[simp] theorem State.countS_repairs (s : State) (spec : Bool) (k n : Nat) : repairsKept s (s.countS spec k n) := by simp [State.countS]

@[simp] theorem State.firstS_repairs (s : State) (spec : Bool) (k valid v : Nat) : repairsKept s (s.firstS spec k valid v) := by
  simp [State.firstS]

@[simp] theorem State.mapTiles_repairs (s : State) (f : TileState → TileState) : repairsKept s (s.mapTiles f) := by simp [State.mapTiles]

@[simp] theorem State.eventAt_repairs (s : State) (move code sev src wher : Nat) (items : List EvtItem) :
    repairsKept s (s.eventAt move code sev src wher items) := by
  simp [State.eventAt]

@[simp] theorem State.snapAbandon_repairs (s : State) : repairsKept s s.snapAbandon := by simp [State.snapAbandon]

@[simp] theorem State.reportAt_repairs (s : State) (sev code die y physX loc src wher : Nat) :
    repairsKept s (s.reportAt sev code die y physX loc src wher) := by
  simp -implicitDefEqProofs [State.reportAt]

@[simp] theorem State.reportError_repairs (s : State) (code die y physX loc src wher : Nat) :
    repairsKept s (s.reportError code die y physX loc src wher) := by
  simp [State.reportError]

@[simp] theorem State.tileError_repairs (s : State) (p code loc : Nat) : repairsKept s (s.tileError p code loc) := by simp [State.tileError]

theorem State.start_repairs {s u : State} {t w i : Nat} {ok : Nat → Bool} (h : s.start t ok = some (w, i, u)) : repairsKept s u := by
  rw [State.start_frame s t ok w i u h]
  exact ⟨rfl, rfl⟩

/-! ### What the operations meet at the banks -/

@[simp] theorem State.eccFirst_repairs (s : State) (p code : Nat) (f : BankFlip) : repairsKept s (s.eccFirst p code f) := by
  simp -implicitDefEqProofs [State.eccFirst]

@[simp] theorem State.correctFlip_repairs (s : State) (p : Nat) (f : BankFlip) : repairsKept s (s.correctFlip p f) := by
  simp [State.correctFlip]

@[simp] theorem State.spoilFlip_repairs (s : State) (p : Nat) (f : BankFlip) : repairsKept s (s.spoilFlip p f) := by
  simp -implicitDefEqProofs [State.spoilFlip]

@[simp] theorem State.reportBad_repairs (s : State) (p : Nat) (bad : List BankFlip) (rs : List LineRun) :
    repairsKept s (s.reportBad p bad rs) := by
  induction rs generalizing s bad with
  | nil => simp [State.reportBad]
  | cons r rs ih =>
    unfold State.reportBad
    split <;> simp [ih]

@[simp] theorem State.bankEcc_repairs (s : State) (p : Nat) (flips : List BankFlip) (accs : List LineRun) :
    repairsKept s (s.bankEcc p flips accs).1 := by
  simp [State.bankEcc]

@[simp] theorem State.beginOp_repairs (s : State) (p : Nat) (o : OpRun) : repairsKept s (s.beginOp p o) := ⟨rfl, rfl⟩

@[simp] theorem State.delayOp_repairs (s : State) (p k : Nat) (o : OpRun) : repairsKept s (s.delayOp p k o) := by
  unfold State.delayOp
  dsimp only
  split <;> simp

@[simp] theorem State.lose_repairs (s : State) (p : Nat) (s0 : List OpRun) (place c : Nat) : repairsKept s (s.lose p s0 place c) := by
  unfold State.lose
  repeat' split
  all_goals simp -implicitDefEqProofs

@[simp] theorem State.clash_repairs (s : State) (p : Nat) (c : Clash) : repairsKept s (s.clash p c).1 := by
  unfold State.clash
  dsimp only
  repeat' split
  all_goals simp

@[simp] theorem State.clashes_repairs (s : State) (p : Nat) (cs : List Clash) : repairsKept s (s.clashes p cs) := by simp [State.clashes]

@[simp] theorem State.viewAt_repairs (s : State) (p : Nat) (u : BankUnit) (pre : Bool) (c : Nat) : repairsKept s (s.viewAt p u pre c) := by
  simp [State.viewAt]

@[simp] theorem State.view_repairs (s : State) (p : Nat) (u : BankUnit) (pre : Bool) : repairsKept s (s.view p u pre) := by
  simp [State.view]

@[simp] theorem State.ownerCheck_repairs (s : State) (p : Nat) (blocked : List Nat) : repairsKept s (s.ownerCheck p blocked) := by
  unfold State.ownerCheck
  split <;> simp

@[simp] theorem State.markLate_repairs (s : State) (p : Nat) (u : BankUnit) (a n : Nat) : repairsKept s (s.markLate p u a n) := by
  simp [State.markLate]

@[simp] theorem State.unitWriteAt_repairs (s : State) (p : Nat) (u : BankUnit) (pre : Bool) (c a : Nat) (bs : List Byte) :
    repairsKept s (s.unitWriteAt p u pre c a bs) := by
  simp [State.unitWriteAt]

@[simp] theorem State.unitWrite_repairs (s : State) (p : Nat) (u : BankUnit) (pre : Bool) (a : Nat) (bs : List Byte) :
    repairsKept s (s.unitWrite p u pre a bs) := by
  simp [State.unitWrite]

@[simp] theorem State.countRotator_repairs (s : State) (p a n : Nat) : repairsKept s (s.countRotator p a n) := by simp [State.countRotator]

@[simp] theorem State.firstMet_repairs (s : State) (k valid at_ v : Nat) : repairsKept s (s.firstMet k valid at_ v) := by
  simp [State.firstMet]

@[simp] theorem State.firstMetS_repairs (s : State) (spec : Bool) (k valid at_ v : Nat) :
    repairsKept s (s.firstMetS spec k valid at_ v) := by
  simp [State.firstMetS]

@[simp] theorem State.cvt_repairs (s : State) (p : Nat) (spec : Bool) (op at_ hi el : Nat) (e : CvtEvent) :
    repairsKept s (s.cvt p spec op at_ hi el e) := by
  unfold State.cvt
  split <;> simp

@[simp] theorem State.malformed_repairs (s : State) (p : Nat) (pre : Bool) (code op cyc pos : Nat) :
    repairsKept s (s.malformed p pre code op cyc pos) := by
  simp [State.malformed]

/-! ### The array -/

@[simp] theorem State.maskFaults_repairs (s : State) (p : Nat) (pre : Bool) (op kc cyc : Nat) (mask : Option Nat) :
    repairsKept s (s.maskFaults p pre op kc cyc mask) := by
  unfold State.maskFaults
  split <;> simp

@[simp] theorem State.runArray_repairs (s : State) (t i w : Nat) (env : OpEnv) : repairsKept s (s.runArray t i w env) := by
  simp [State.runArray]

@[simp] theorem State.arrayOp_repairs (s : State) (op t : Nat) (env : OpEnv) : repairsKept s (s.arrayOp op t env) := by
  unfold State.arrayOp
  split
  · simp
  · next hstart => simp [State.start_repairs hstart]

@[simp] theorem State.reportArrayLate_repairs (s : State) (p : Nat) : repairsKept s (s.reportArrayLate p) := by simp [State.reportArrayLate]

/-! ### The Knight -/

@[simp] theorem State.ptrFaults_repairs (s : State) (p : Nat) (pre : Bool) (op bound : Nat) (cyc : Nat → Nat) (ptrs : List Nat) :
    repairsKept s (s.ptrFaults p pre op bound cyc ptrs) := by
  simp [State.ptrFaults]

@[simp] theorem State.idxFaults_repairs (s : State) (p : Nat) (pre blocked : Bool) (op bound cyc pos : Nat) (prev : Option Nat)
    (zs : List NonZero) :
    repairsKept s (s.idxFaults p pre blocked op bound cyc pos prev zs) := by
  induction zs generalizing s cyc pos prev with
  | nil => simp [State.idxFaults]
  | cons z zs ih => simp [State.idxFaults, ih]

@[simp] theorem State.blkFaults_repairs (s v : State) (p : Nat) (f : KnWord) (op j cyc : Nat) :
    repairsKept s (s.blkFaults v p f op j cyc) := by
  simp [State.blkFaults]

@[simp] theorem State.knAccumulate_repairs (s v : State) (p i t0 : Nat) (f : KnWord) : repairsKept s (s.knAccumulate v p i t0 f) := by
  unfold State.knAccumulate
  dsimp only
  split <;> simp

@[simp] theorem State.knCopy_repairs (s v : State) (p i t0 : Nat) (f : KnWord) : repairsKept s (s.knCopy v p i t0 f) := by
  simp [State.knCopy]

@[simp] theorem State.expandTwo_repairs (s v : State) (p i t0 : Nat) (f : KnWord) : repairsKept s (s.expandTwo v p i t0 f) := by
  simp [State.expandTwo]

@[simp] theorem State.expandBlocked_repairs (s v : State) (p i t0 : Nat) (f : KnWord) : repairsKept s (s.expandBlocked v p i t0 f) := by
  simp [State.expandBlocked]

@[simp] theorem State.twoOfFour_repairs (s v : State) (p : Nat) (f : KnWord) (drop : State → Nat → Nat → State)
    (hdrop : ∀ s r k, repairsKept s (drop s r k)) : repairsKept s (s.twoOfFour v p f drop) := by
  unfold State.twoOfFour
  refine foldl_repairs _ (fun s r => ?_) _ _
  simp [hdrop]

@[simp] theorem State.knPlan_repairs (s v : State) (p i t0 : Nat) (f : KnWord) : repairsKept s (s.knPlan v p i t0 f) := by
  simp [State.knPlan]

@[simp] theorem State.knSegment_repairs (s v : State) (p i t0 : Nat) (f : KnWord) : repairsKept s (s.knSegment v p i t0 f) := by
  simp [State.knSegment, -List.reduceReplicate]

@[simp] theorem State.knMergeSeg_repairs (s v : State) (p i t0 : Nat) (f : KnWord) : repairsKept s (s.knMergeSeg v p i t0 f) := by
  simp [State.knMergeSeg]

@[simp] theorem State.knMergeAcc_repairs (s : State) (p : Nat) (f : KnWord) : repairsKept s (s.knMergeAcc p f) := by simp [State.knMergeAcc]

@[simp] theorem State.knStalls_repairs (s : State) (p n : Nat) (o : OpRun) : repairsKept s (s.knStalls p n o) := by simp [State.knStalls]

@[simp] theorem State.knPort_repairs (s : State) (p : Nat) (o : OpRun) (env : OpEnv) (runs writes : List LineRun) :
    repairsKept s (s.knPort p o env runs writes) := by
  simp [State.knPort]

@[simp] theorem State.knOp_repairs (s : State) (opcode mode t : Nat) (env : OpEnv) (act : State → State → Nat → Nat → Nat → KnWord → State)
    (hact : ∀ s v p i t0 f, repairsKept s (act s v p i t0 f)) : repairsKept s (s.knOp opcode mode t env act) := by
  unfold State.knOp
  split
  · simp
  · next hstart => simp [hact, State.start_repairs hstart]

@[simp] theorem State.reportKnightLate_repairs (s : State) (p : Nat) : repairsKept s (s.reportKnightLate p) := by
  simp [State.reportKnightLate]

/-! ### The drain -/

@[simp] theorem State.slotCount_repairs (s : State) (p slot fmt : Nat) (pre : Bool) (e : DrainElem) :
    repairsKept s (s.slotCount p slot fmt pre e) := by
  simp [State.slotCount]

@[simp] theorem State.calibrate_repairs (s : State) (p n v : Nat) : repairsKept s (s.calibrate p n v) := by
  simp -implicitDefEqProofs [State.calibrate]

@[simp] theorem State.gradNonfinite_repairs (s : State) (t p cyc : Nat) (rec_ : List Byte) (i n : Nat) :
    repairsKept s (s.gradNonfinite t p cyc rec_ i n) := by
  unfold State.gradNonfinite
  extract_lets s1 training s2 g training take
  have hcount : repairsKept s s2 := by simp [s2, s1]
  have htake (g : GradFirst) : repairsKept s (take g) := by simp -implicitDefEqProofs [take, hcount, -Nat.reducePow]
  clear_value take s2
  split
  · exact hcount
  · split
    · exact htake _
    · split
      · exact htake _
      · exact hcount

@[simp] theorem State.gradRecord_repairs (s : State) : repairsKept s s.gradRecord := by
  unfold State.gradRecord
  split <;> simp

@[simp] theorem State.drainCount_repairs (s : State) (t p op cyc : Nat) (f : DrainWord) (d : DrainSet) (pre : Bool) (grad : Option
    (List Byte)) (i n : Nat) (e : DrainElem) : repairsKept s (s.drainCount t p op cyc f d pre grad i n e) := by
  unfold State.drainCount
  repeat' split
  all_goals simp

@[simp] theorem State.csTest_repairs (s : State) (p op m : Nat) (pre : Bool) (a : AccSet) (cs ab : Nat) (vals : List Num) (failed : Bool) :
    repairsKept s (s.csTest p op m pre a cs ab vals failed).1 := by
  unfold State.csTest
  dsimp only
  repeat' split
  all_goals simp

@[simp] theorem State.drainRow_repairs (v : State) (t p op w : Nat) (o : OpRun) (f : DrainWord) (d : DrainSet) (a : AccSet)
    (back : Option (List Byte)) (x : State × Bool) (i : Nat) : repairsKept x.1 (v.drainRow t p op w o f d a back x i).1 := by
  simp [State.drainRow]

@[simp] theorem State.runDrain_repairs (s : State) (t i w : Nat) (env : OpEnv) : repairsKept s (s.runDrain t i w env) := by
  simp [State.runDrain]

@[simp] theorem execDrain_repairs (t : Tile) (env : OpEnv) (s : State) : repairsKept s (nextOr s (execDrain t env s)) := by
  unfold execDrain
  split
  · simp
  · next hstart => simp [State.start_repairs hstart]

/-! ### SEND, RECV and CLAIM -/

@[simp] theorem State.atCycle_repairs (s : State) (c : Nat) : repairsKept s (s.atCycle c) := ⟨rfl, rfl⟩

@[simp] theorem State.useSlot_repairs (s : State) (t e i c : Nat) : repairsKept s (s.useSlot t e i c) := ⟨rfl, rfl⟩

@[simp] theorem State.netEccFirst_repairs (s : State) (p code : Nat) (h : NetHit) : repairsKept s (s.netEccFirst p code h) := by
  simp -implicitDefEqProofs [State.netEccFirst]

@[simp] theorem State.netHit_repairs (s : State) (h : NetHit) : repairsKept s (s.netHit h) := by simp [State.netHit]

@[simp] theorem State.netEcc_repairs (s : State) (hs : List NetHit) : repairsKept s (s.netEcc hs).1 := by simp [State.netEcc]

@[simp] theorem State.sendRow_repairs (s : State) (t route : Nat) (env : OpEnv) : repairsKept s (s.sendRow t route env).1 := by
  unfold State.sendRow
  dsimp only
  repeat' split
  all_goals simp

@[simp] theorem State.takeRow_repairs (s : State) (t port c route : Nat) (env : NetEnv) :
    repairsKept s (s.takeRow t port c route env).1 := by
  unfold State.takeRow
  repeat' split
  all_goals simp

@[simp] theorem State.recvRow_repairs (s : State) (t : Nat) (r : NetRow) : repairsKept s (s.recvRow t r) := by
  unfold State.recvRow
  dsimp only
  repeat' split
  all_goals simp

@[simp] theorem State.forward_repairs (s : State) (t port c : Nat) (r : NetRow) : repairsKept s (s.forward t port c r) := by
  unfold State.forward
  repeat' split
  all_goals simp

@[simp] theorem execSlotStatic_repairs (t : Tile) (e i : Nat) (env : NetEnv) (s : State) :
    repairsKept s (nextOr s (execSlotStatic t e i env s)) := by
  unfold execSlotStatic
  dsimp only
  repeat' split
  all_goals simp

@[simp] theorem execSlotAdd_repairs (t : Tile) (e i : Nat) (env : NetEnv) (s : State) :
    repairsKept s (nextOr s (execSlotAdd t e i env s)) := by
  unfold execSlotAdd
  dsimp only
  repeat' split
  all_goals simp

@[simp] theorem execSend_repairs (t : Tile) (s : State) : repairsKept s (nextOr s (execSend t s)) := by
  unfold execSend
  split
  · simp
  · next hstart => simp [State.start_repairs hstart]

@[simp] theorem execRecv_repairs (t : Tile) (s : State) : repairsKept s (nextOr s (execRecv t s)) := by
  unfold execRecv
  split
  · simp
  · next hstart => simp [State.start_repairs hstart]

/-! ### The vector unit -/

@[simp] theorem State.misaligned_repairs (s : State) (p a n rows : Nat) : repairsKept s (s.misaligned p a n rows) := by
  simp [State.misaligned]

@[simp] theorem State.cvtRow_repairs (s : State) (p : Nat) (o : OpRun) (n i : Nat) (es : List (Nat × CvtEvent)) :
    repairsKept s (s.cvtRow p o n i es) := by
  simp [State.cvtRow]

@[simp] theorem State.vecPort_repairs (s : State) (p : Nat) (o : OpRun) (env : OpEnv) (reads writes : List LineRun) :
    repairsKept s (s.vecPort p o env reads writes) := by
  simp [State.vecPort]

@[simp] theorem State.vecOp_repairs (s : State) (t : Nat) (env : OpEnv) (ok : Nat → Bool) (last : State → VecWord → Nat)
    (reads writes : State → Nat → VecWord → List LineRun) (act : State → State → Nat → OpRun → VecWord → State)
    (hact : ∀ s v p o f, repairsKept s (act s v p o f)) : repairsKept s (s.vecOp t env ok last reads writes act) := by
  unfold State.vecOp
  split
  · simp
  · next hstart => simp [hact, State.start_repairs hstart]

@[simp] theorem State.vecRows_repairs (s v : State) (t p opcode : Nat) (o : OpRun) (f : VecWord) :
    repairsKept s (s.vecRows v t p opcode o f) := by
  simp [State.vecRows]

@[simp] theorem State.vecElem_repairs (s : State) (opcode t : Nat) (env : OpEnv) : repairsKept s (s.vecElem opcode t env) := by
  simp [State.vecElem]

@[simp] theorem State.chanDerive_repairs (s : State) (p n : Nat) : repairsKept s (s.chanDerive p n) := by
  simp -implicitDefEqProofs [State.chanDerive]

@[simp] theorem State.setChan_repairs (s : State) (p n step : Nat) (zero : Int) (bias : Nat) :
    repairsKept s (s.setChan p n step zero bias) := by
  simp -implicitDefEqProofs [State.setChan]

@[simp] theorem State.chanForget_repairs (s : State) (p n : Nat) : repairsKept s (s.chanForget p n) := by
  simp -implicitDefEqProofs [State.chanForget]

@[simp] theorem State.chanCal_repairs (s : State) (p n : Nat) : repairsKept s (s.chanCal p n) := by simp [State.chanCal]

@[simp] theorem State.dynFirst_repairs (s : State) (p : Nat) (pre : Bool) (code op pos : Nat) :
    repairsKept s (s.dynFirst p pre code op pos) := by
  simp [State.dynFirst]

@[simp] theorem State.topkRotator_repairs (s : State) (p : Nat) (f : VecWord) (r : TopkRec) : repairsKept s (s.topkRotator p f r) := by
  simp [State.topkRotator]

@[simp] theorem State.runTopk_repairs (s v : State) (p i : Nat) (f : VecWord) (r : TopkRec) : repairsKept s (s.runTopk v p i f r) := by
  simp [State.runTopk]

@[simp] theorem State.addSurvivors_repairs (s : State) (d n : Nat) : repairsKept s (s.addSurvivors d n) := ⟨rfl, rfl⟩

@[simp] theorem State.runExit_repairs (s v : State) (p i : Nat) (f : VecWord) (r : TopkRec) : repairsKept s (s.runExit v p i f r) := by
  simp [State.runExit]

@[simp] theorem State.vecTopk_repairs (s : State) (t : Nat) (env : OpEnv) (m : Nat → Bool)
    (act : State → State → Nat → Nat → VecWord → TopkRec → State) (hact : ∀ s v p i f r, repairsKept s (act s v p i f r)) :
    repairsKept s (s.vecTopk t env m act) := by
  simp [State.vecTopk, hact]

@[simp] theorem State.addNorm_repairs (s : State) (d g v : Nat) : repairsKept s (s.addNorm d g v) := by
  simp -implicitDefEqProofs [State.addNorm]

@[simp] theorem State.runNorm_repairs (s v : State) (t p : Nat) (f : VecWord) : repairsKept s (s.runNorm v t p f) := by simp [State.runNorm]

@[simp] theorem State.formFactors_repairs (s : State) : repairsKept s s.formFactors := ⟨rfl, rfl⟩

@[simp] theorem State.optRow_repairs (v : State) (p : Nat) (run : OpRun) (f : VecWord) (o : OptSet) (grp pub : Nat) (s : State) (i : Nat) :
    repairsKept s (v.optRow p run f o grp pub s i) := by
  simp [State.optRow]

@[simp] theorem State.runOptim_repairs (s v : State) (p : Nat) (run : OpRun) (f : VecWord) : repairsKept s (s.runOptim v p run f) := by
  simp [State.runOptim]

@[simp] theorem State.addRise_repairs (s : State) (k n : Nat) : repairsKept s (s.addRise k n) := by simp [State.addRise]

@[simp] theorem State.wireCounts_repairs (s : State) (t : Nat) (r : RedRec) (sat under : Nat) :
    repairsKept s (s.wireCounts t r sat under) := by
  simp [State.wireCounts]

@[simp] theorem State.redForward_repairs (s v : State) (t p : Nat) (o : OpRun) (f : VecWord) (r : RedRec) :
    repairsKept s (s.redForward v t p o f r) := by
  simp -implicitDefEqProofs [State.redForward]

@[simp] theorem State.redFinal_repairs (s v : State) (p : Nat) (o : OpRun) (f : VecWord) (r : RedRec) :
    repairsKept s (s.redFinal v p o f r) := by
  simp [State.redFinal]

@[simp] theorem State.redPublish_repairs (s v : State) (p : Nat) (o : OpRun) (f : VecWord) (r : RedRec) :
    repairsKept s (s.redPublish v p o f r) := by
  simp [State.redPublish]

@[simp] theorem State.redWiden_repairs (s v : State) (p : Nat) (o : OpRun) (f : VecWord) (r : RedRec) :
    repairsKept s (s.redWiden v p o f r) := by
  simp [State.redWiden]

@[simp] theorem State.vecReduce_repairs (s : State) (mode t : Nat) (env : OpEnv) (reads writes : RedRec → VecWord → List LineRun)
    (act : State → State → Nat → OpRun → VecWord → RedRec → State) (hact : ∀ s v p o f r, repairsKept s (act s v p o f r)) :
    repairsKept s (s.vecReduce mode t env reads writes act) := by
  simp [State.vecReduce, hact]

/-! ### Work lists, the keeper and items -/

@[simp] theorem State.setList_repairs (s : State) (d l : Nat) (x : ListState) : repairsKept s (s.setList d l x) := ⟨rfl, rfl⟩

@[simp] theorem State.ringPut_repairs (s : State) (t l role first size cap : Nat) (bs : List Byte) :
    repairsKept s (s.ringPut t l role first size cap bs) := by
  simp [State.ringPut]

@[simp] theorem State.presentSlot_repairs (s : State) (t : Nat) (q : Slot) : repairsKept s (s.presentSlot t q) := by
  unfold State.presentSlot
  dsimp only
  repeat' split
  all_goals simp

@[simp] theorem State.present_repairs (s : State) (t c : Nat) : repairsKept s (s.present t c) := by simp [State.present]

@[simp] theorem execListOpen_repairs (d : Die) (l : Nat) (s : State) : repairsKept s (nextOr s (execListOpen d l s)) := by
  unfold execListOpen
  split <;> simp

@[simp] theorem execListClose_repairs (d : Die) (l : Nat) (s : State) : repairsKept s (nextOr s (execListClose d l s)) := by
  unfold execListClose
  split <;> simp

@[simp] theorem execClaim_repairs (t : Tile) (s : State) : repairsKept s (nextOr s (execClaim t s)) := by
  unfold execClaim
  split
  · simp
  · next hstart => simp [State.start_repairs hstart]

@[simp] theorem State.publish_repairs (s : State) (d l : Nat) (items : List (List Byte)) : repairsKept s (s.publish d l items) := by
  simp [State.publish]

@[simp] theorem State.answer_repairs (s : State) (d l : Nat) : repairsKept s (s.answer d l).1 := by
  unfold State.answer
  dsimp only
  split <;> simp

@[simp] theorem State.keeperServe_repairs (s : State) (t : Nat) (last : Slot) (r : SentRow) : repairsKept s (s.keeperServe t last r) := by
  unfold State.keeperServe
  repeat' split
  all_goals simp

theorem State.keeperTurn_repairs {s u : State} {d c n : Nat} (h : s.keeperTurn d c n = some u) : repairsKept s u := by
  unfold State.keeperTurn at h
  split at h
  · cases h; simp
  · cases h

theorem State.rowSent_repairs {s u : State} {t e i kind n : Nat} {r : SentRow} {last : Slot} (h : s.rowSent t e i kind = some
    (u, r, last, n)) :
    repairsKept s u := by
  unfold State.rowSent at h
  split at h
  · cases h
  · dsimp only at h
    split at h
    · cases h
      simp
    · cases h

@[simp] theorem State.rowDone_repairs (s : State) (t : Nat) (r : SentRow) : repairsKept s (s.rowDone t r) := ⟨rfl, rfl⟩

@[simp] theorem State.keeperRow_repairs (s : State) (t e i kind : Nat) (hits : List NetHit) :
    repairsKept s (s.keeperRow t e i kind hits) := by
  unfold State.keeperRow
  split
  · simp
  · next hsent =>
    split
    · simp
    · next hturn => simp [State.keeperTurn_repairs hturn, State.rowSent_repairs hsent]

@[simp] theorem State.edgePublish_repairs (s : State) (t e i : Nat) (row : List Byte) (hits : List NetHit) :
    repairsKept s (s.edgePublish t e i row hits) := by
  unfold State.edgePublish
  split
  · simp
  · dsimp only
    split
    · simp
    · split
      · split
        · simp
        · next hturn => simp [State.keeperTurn_repairs hturn]
      · simp

@[simp] theorem execKeeperPublish_repairs (src : Publisher) (hits : List NetHit) (s : State) :
    repairsKept s (nextOr s (execKeeperPublish src hits s)) := by
  unfold execKeeperPublish
  split <;> simp

@[simp] theorem State.receiveRow_repairs (s : State) (g : GrantRow) : repairsKept s (s.receiveRow g) := by
  unfold State.receiveRow
  dsimp only
  split <;> simp

@[simp] theorem execWorkItemReceive_repairs (k : Nat) (hits : List NetHit) (s : State) :
    repairsKept s (nextOr s (execWorkItemReceive k hits s)) := by
  unfold execWorkItemReceive
  split <;> simp

@[simp] theorem State.presentAll_repairs (s : State) : repairsKept s s.presentAll := by
  unfold State.presentAll
  refine foldl_repairs _ (fun s e => ?_) _ _
  split <;> simp

@[simp] theorem State.serveAll_repairs (s : State) : repairsKept s s.serveAll := by
  unfold State.serveAll
  refine foldl_repairs _ (fun s q => ?_) _ _
  split <;> simp

@[simp] theorem State.deliverAll_repairs (s : State) : repairsKept s s.deliverAll := by simp [State.deliverAll]

@[simp] theorem State.settleRows_repairs (s : State) : repairsKept s s.settleRows := by simp [State.settleRows]

theorem State.headItem_repairs {s u : State} {t eng : Nat} {x : Window} {b : Item} {rest : List Item}
    (h : s.headItem t eng = some (u, x, b, rest)) : repairsKept s u := by
  unfold State.headItem at h
  dsimp only at h
  split at h
  · split at h
    · split at h
      · cases h
        simp
      · cases h
    · cases h
  · cases h

@[simp] theorem State.retire_repairs (s : State) (t : Nat) (rest : List Item) (rows : List RetRow) :
    repairsKept s (s.retire t rest rows) := by
  refine .trans ?_ (foldl_repairs _ (fun s r => ?_) rows _)
  · simp
  · split <;> simp

@[simp] theorem State.itemInvalid_repairs (s : State) (t code : Nat) (b : Item) (rest : List Item) :
    repairsKept s (s.itemInvalid t code b rest) := by
  simp [State.itemInvalid]

@[simp] theorem execKnightItem_repairs (t : Tile) (env : OpEnv) (s : State) : repairsKept s (nextOr s (execKnightItem t env s)) := by
  unfold execKnightItem
  split
  · simp
  · next hitem => simp [State.headItem_repairs hitem]

@[simp] theorem State.denseRow1_repairs (v : State) (t p : Nat) (o : OpRun) (f : DrainWord) (d : DrainSet) (a : AccSet)
    (x : (State × Bool) × List (List Byte)) (m : Nat) : repairsKept x.1.1 (v.denseRow1 t p o f d a x m).1.1 := by
  simp [State.denseRow1]

@[simp] theorem State.denseRows_repairs (s : State) (t p : Nat) (f : DrainWord) (d : DrainSet) : repairsKept s (s.denseRows t p f d).1 := by
  refine .trans ?_ (foldl_get_repairs (fun y : (State × Bool) × List (List Byte) => y.1.1) _ (fun y m => ?_) _ _)
  · simp
  · simp

@[simp] theorem execDenseItem_repairs (t : Tile) (env : OpEnv) (s : State) : repairsKept s (nextOr s (execDenseItem t env s)) := by
  unfold execDenseItem
  split
  · simp
  · next hitem => simp [State.headItem_repairs hitem]

@[simp] theorem execVectorItem_repairs (t : Tile) (env : OpEnv) (s : State) : repairsKept s (nextOr s (execVectorItem t env s)) := by
  unfold execVectorItem
  split
  · simp
  · next hitem => simp [State.headItem_repairs hitem]

@[simp] theorem State.returnRow_repairs (s : State) (t c : Nat) (r : RetRow) : repairsKept s (s.returnRow t c r) := by
  unfold State.returnRow
  repeat' split
  all_goals simp

@[simp] theorem execSlotReturn_repairs (t : Tile) (e i : Nat) (hits : List NetHit) (s : State) :
    repairsKept s (nextOr s (execSlotReturn t e i hits s)) := by
  unfold execSlotReturn
  dsimp only
  repeat' split
  all_goals simp

/-! ### Hand-over and resolution of banks -/

@[simp] theorem State.bankGive_repairs (s : State) (p b st : Nat) : repairsKept s (s.bankGive p b st) := by simp [State.bankGive]

@[simp] theorem execBankGive_repairs (t : Tile) (s : State) : repairsKept s (nextOr s (execBankGive t s)) := by
  unfold execBankGive
  split
  · simp
  · next hstart => simp [State.start_repairs hstart]

@[simp] theorem execBankWakeDone_repairs (p : PhysTile) (b : Bank) (s : State) : repairsKept s (nextOr s (execBankWakeDone p b s)) := by
  simp -implicitDefEqProofs [execBankWakeDone]

@[simp] theorem State.releaseShadow_repairs (s : State) (p : Nat) : repairsKept s (s.releaseShadow p) := by simp [State.releaseShadow]

@[simp] theorem State.dropShadow_repairs (s : State) (p : Nat) : repairsKept s (s.dropShadow p) := ⟨rfl, rfl⟩

@[simp] theorem State.commitTile_repairs (s : State) (p w : Nat) : repairsKept s (s.commitTile p w) := by
  simp -implicitDefEqProofs [State.commitTile]

@[simp] theorem State.discardTile_repairs (s : State) (p w : Nat) : repairsKept s (s.discardTile p w) := by
  simp -implicitDefEqProofs [State.discardTile]

@[simp] theorem State.resolve_repairs (s : State) (t : Nat) (confirm : Bool) : repairsKept s (s.resolve t confirm) := by
  unfold State.resolve
  split <;> simp

@[simp] theorem State.discardAll_repairs (s : State) : repairsKept s s.discardAll := by simp [State.discardAll]

end Sys2Proof.Machine
end

section
/-! PROOFS. The repair record stands, continued: completions, memory, the transfers of DMA and the Petal units. Where `simp` is told not to
close equations by definition (`-implicitDefEqProofs`), the checker would compare two states field by field instead of rewriting. -/

namespace Sys2Proof.Machine

/-! ### Completions -/

@[simp] theorem State.setTaken_repairs (s : State) (r : Nat) (l : List Taken) : repairsKept s (s.setTaken r l) := ⟨rfl, rfl⟩

@[simp] theorem State.complete_repairs (s : State) (c : Completion) : repairsKept s (s.complete c) := ⟨rfl, rfl⟩

@[simp] theorem State.finish_repairs (s : State) (r seq status r0 r1 : Nat) : repairsKept s (s.finish r seq status r0 r1) := by
  unfold State.finish
  split <;> simp

@[simp] theorem State.endJob_repairs (s : State) (status r0 r1 : Nat) : repairsKept s (s.endJob status r0 r1) := by
  unfold State.endJob
  split <;> simp

/-! ### HBM -/

@[simp] theorem State.devWrite_repairs (s : State) (a : Nat) (bs : List Byte) : repairsKept s (s.devWrite a bs) := by simp [State.devWrite]

@[simp] theorem State.delivered_repairs (s : State) (env : MemEnv) : repairsKept s (s.delivered env) := ⟨rfl, rfl⟩

@[simp] theorem State.hbmFirst_repairs (s : State) (code a symbol : Nat) (scrub : Bool) :
    repairsKept s (s.hbmFirst code a symbol scrub) := by
  simp -implicitDefEqProofs [State.hbmFirst]

@[simp] theorem State.atomFault_repairs (s : State) (sev : Nat) (scrub : Bool) (h : AtomHit) : repairsKept s (s.atomFault sev scrub h) := by
  unfold State.atomFault
  split <;> simp

@[simp] theorem State.countRemaps_repairs (s : State) (r : AddrRun) : repairsKept s (s.countRemaps r) := by simp [State.countRemaps]

@[simp] theorem State.hbmAccess_repairs (s : State) (env : MemEnv) (reads : List AddrRun) (writes : List AddrRun) :
    repairsKept s (s.hbmAccess env reads writes) := by
  simp [State.hbmAccess]

@[simp] theorem State.mergeAtoms_repairs (s : State) (env : MemEnv) (atoms : List Nat) : repairsKept s (s.mergeAtoms env atoms) :=
  ⟨rfl, rfl⟩

@[simp] theorem State.spoilAtoms_repairs (s : State) (env : MemEnv) (runs : List AddrRun) : repairsKept s (s.spoilAtoms env runs) := by
  simp [State.spoilAtoms]

@[simp] theorem State.hbmPut_repairs (s : State) (env : MemEnv) (a : Nat) (bs : List Byte) : repairsKept s (s.hbmPut env a bs) := by
  simp [State.hbmPut]

@[simp] theorem State.devPut_repairs (s : State) (env : MemEnv) (a : Nat) (bs : List Byte) : repairsKept s (s.devPut env a bs) := by
  simp [State.devPut]

@[simp] theorem State.hbmTouch_repairs (s : State) (a n : Nat) : repairsKept s (s.hbmTouch a n) := by simp [State.hbmTouch]

@[simp] theorem execHbmPatrolScrub_repairs (hit : AtomHit) (s : State) : repairsKept s (nextOr s (execHbmPatrolScrub hit s)) := by
  unfold execHbmPatrolScrub
  repeat' split
  all_goals simp

@[simp] theorem State.hbmWake_repairs (s : State) : repairsKept s s.hbmWake := by simp [State.hbmWake]

@[simp] theorem execHbmRepairGo_repairs (k : Stack) (value : Nat) (resource : Bool) (s t : State) :
    repairsKept s (nextOr t (execHbmRepairGo k value resource s)) := by
  simp -implicitDefEqProofs [execHbmRepairGo]

@[simp] theorem State.zeroRow_repairs (s : State) (k pc bank row : Nat) : repairsKept s (s.zeroRow k pc bank row) := ⟨rfl, rfl⟩

@[simp] theorem execHbmRepairDone_repairs (k : Stack) (s : State) : repairsKept s (nextOr s (execHbmRepairDone k s)) := by
  simp -implicitDefEqProofs [execHbmRepairDone]

@[simp] theorem State.ownerWrite_repairs (s : State) (i v : Nat) : repairsKept s (s.ownerWrite i v) := ⟨rfl, rfl⟩

@[simp] theorem State.ownerCacheAccess_repairs (s : State) (d i : Nat) : repairsKept s (s.ownerCacheAccess d i) := ⟨rfl, rfl⟩

@[simp] theorem State.ownerEvict_repairs (s : State) (i : Nat) : repairsKept s (s.ownerEvict i) := by
  simp -implicitDefEqProofs [State.ownerEvict]

@[simp] theorem State.ownerFetch_repairs (s : State) (env : MemEnv) (d i : Nat) : repairsKept s (s.ownerFetch env d i).1 := by
  unfold State.ownerFetch
  repeat' split
  all_goals simp

@[simp] theorem State.ownerLookup_repairs (s : State) (env : MemEnv) (d tensor offset epoch : Nat) :
    repairsKept s (s.ownerLookup env d tensor offset epoch).1 := by
  unfold State.ownerLookup
  dsimp only
  repeat' split
  all_goals simp

@[simp] theorem execOwnerStagingDrain_repairs (s : State) : repairsKept s (nextOr s (execOwnerStagingDrain s)) := by
  unfold execOwnerStagingDrain
  split <;> simp

@[simp] theorem execHbmOwnRead_repairs (s : State) (mem : MemEnv) : repairsKept s (nextOr s (execHbmOwnRead s mem)) := by
  simp -implicitDefEqProofs [execHbmOwnRead]

@[simp] theorem execHbmOwnWrite_repairs (s : State) : repairsKept s (nextOr s (execHbmOwnWrite s)) := by
  simp -implicitDefEqProofs [execHbmOwnWrite]

/-! ### Transfers of DMA -/

@[simp] theorem State.dmaReject_repairs (s : State) (p op desc code : Nat) : repairsKept s (s.dmaReject p op desc code) := by
  simp [State.dmaReject]

@[simp] theorem State.zeroLanding_repairs (s : State) (p line lines : Nat) : repairsKept s (s.zeroLanding p line lines) := by
  simp [State.zeroLanding]

@[simp] theorem State.dmaIssue_repairs (s : State) (t i w : Nat) (env : OpEnv) (out : Bool) : repairsKept s (s.dmaIssue t i w env out) := by
  unfold State.dmaIssue
  dsimp only
  repeat' split
  all_goals simp -implicitDefEqProofs

@[simp] theorem execDmaIn_repairs (t : Tile) (env : OpEnv) (s : State) : repairsKept s (nextOr s (execDmaIn t env s)) := by
  unfold execDmaIn
  split
  · simp
  · next hstart => simp [State.start_repairs hstart]

@[simp] theorem execDmaOut_repairs (t : Tile) (env : OpEnv) (s : State) : repairsKept s (nextOr s (execDmaOut t env s)) := by
  unfold execDmaOut
  split
  · simp
  · next hstart => simp [State.start_repairs hstart]

@[simp] theorem State.reportDmaLate_repairs (s : State) (p : Nat) : repairsKept s (s.reportDmaLate p) := by simp [State.reportDmaLate]

@[simp] theorem State.descCounts_repairs (s : State) (p : Nat) (d : Desc) : repairsKept s (s.descCounts p d) := by simp [State.descCounts]

@[simp] theorem State.runDesc_repairs (base s : State) (p : Nat) (mem : MemEnv) (d : Desc) : repairsKept s (base.runDesc s p mem d).1 := by
  unfold State.runDesc
  dsimp only
  split <;> simp

@[simp] theorem runChain_repairs (p : Nat) (mem : MemEnv) (base s : State) (bs : List (List Byte)) :
    repairsKept s (runChain p mem base s bs).1 := by
  induction bs generalizing base s with
  | nil => simp [runChain]
  | cons b rest ih =>
    unfold runChain
    dsimp only
    split <;> simp [ih]

@[simp] theorem State.dmaMove_repairs (s : State) (p : Nat) (x : DmaXfer) (env : OpEnv) (mem : MemEnv) :
    repairsKept s (s.dmaMove p x env mem).1 := by
  simp [State.dmaMove]

@[simp] theorem State.dmaWrite_repairs (s : State) (x : DmaXfer) (mem : MemEnv) (data : List (Nat × Byte)) :
    repairsKept s (s.dmaWrite x mem data) := by
  simp [State.dmaWrite]

@[simp] theorem State.setFrame_repairs (s : State) (d f : Nat) (x : Frame) : repairsKept s (s.setFrame d f x) := ⟨rfl, rfl⟩

@[simp] theorem State.setXfer_repairs (s : State) (p k : Nat) (x : DmaXfer) : repairsKept s (s.setXfer p k x) := ⟨rfl, rfl⟩

@[simp] theorem State.settleFrames_repairs (s : State) : repairsKept s s.settleFrames := by simp [State.settleFrames]

@[simp] theorem State.readSource_repairs (s : State) (p k : Nat) (x : DmaXfer) (env : OpEnv) (mem : MemEnv) :
    repairsKept s (s.readSource p k x env mem) := by
  simp [State.readSource]

@[simp] theorem State.ackWrites_repairs (s : State) (p k : Nat) (x : DmaXfer) (mem : MemEnv) : repairsKept s (s.ackWrites p k x mem) := by
  simp [State.ackWrites]

@[simp] theorem execTransferLanded_repairs (t : Tile) (k : Nat) (env : OpEnv) (mem : MemEnv) (s : State) :
    repairsKept s (nextOr s (execTransferLanded t k env mem s)) := by
  unfold execTransferLanded
  dsimp only
  split <;> simp

@[simp] theorem execDmaOutComplete_repairs (t : Tile) (k : Nat) (env : OpEnv) (mem : MemEnv) (s : State) :
    repairsKept s (nextOr s (execDmaOutComplete t k env mem s)) := by
  unfold execDmaOutComplete
  dsimp only
  split <;> simp

/-! ### Petal -/

@[simp] theorem State.petFirst_repairs (s : State) (k code : Nat) (q : PetalCmd) (pos : Nat) : repairsKept s (s.petFirst k code q pos) := by
  simp [State.petFirst]

@[simp] theorem State.petFault_repairs (s : State) (k i code : Nat) (q : PetalCmd) (pos : Nat) :
    repairsKept s (s.petFault k i code q pos) := by
  simp [State.petFault]

@[simp] theorem State.petalReject_repairs (s : State) (q : PetalCmd) (code : Nat) : repairsKept s (s.petalReject q code) := by
  simp -implicitDefEqProofs [State.petalReject]

@[simp] theorem State.setPetal_repairs (s : State) (k : Nat) (q : PetalCmd) : repairsKept s (s.setPetal k q) := ⟨rfl, rfl⟩

@[simp] theorem State.petalRows_repairs (s : State) (p : Nat) (env : OpEnv) (a n : Nat) : repairsKept s (s.petalRows p env a n).1 := by
  simp [State.petalRows]

@[simp] theorem execPetalDispatch_repairs (s : State) (env : OpEnv) : repairsKept s (nextOr s (execPetalDispatch s env)) := by
  unfold execPetalDispatch
  repeat' split
  all_goals simp -implicitDefEqProofs

@[simp] theorem State.petalRun_repairs (s : State) (k op : Nat) (act : State → PetalCmd → Petal → State × List Byte)
    (hact : ∀ s q c, repairsKept s (act s q c).1) : repairsKept s (s.petalRun k op act) := by
  unfold State.petalRun
  split <;> simp [hact]

@[simp] theorem State.petCvts_repairs (s : State) (k : Nat) (es : List CvtEvent) : repairsKept s (s.petCvts k es) := by
  unfold State.petCvts
  refine foldl_repairs _ (fun s e => ?_) _ _
  split <;> simp

@[simp] theorem State.gatherPool_repairs (s : State) (q : PetalCmd) (c : Petal) (order : List Nat) (mem : MemEnv) :
    repairsKept s (s.gatherPool q c order mem).1 := by
  simp -implicitDefEqProofs [State.gatherPool]

@[simp] theorem State.putRow_repairs (s : State) (c : Petal) (r : Nat) (es : List (Nat × CvtEvent)) : repairsKept s (s.putRow c r es) := by
  simp [State.putRow]

@[simp] theorem State.eachEntry_repairs (s : State) (q : PetalCmd) (c : Petal) (order : List Nat) (mem : MemEnv)
    (upd : State → Nat → List Nat → State) (hupd : ∀ s r g, repairsKept s (upd s r g)) : repairsKept s (s.eachEntry q c order mem upd) := by
  simp [State.eachEntry, hupd]

@[simp] theorem State.scatterAdd_repairs (s : State) (q : PetalCmd) (c : Petal) (order : List Nat) (mem : MemEnv) :
    repairsKept s (s.scatterAdd q c order mem) := by
  simp [State.scatterAdd]

@[simp] theorem State.sparseRow_repairs (s : State) (c : Petal) (r : Nat) (g : List Nat) : repairsKept s (s.sparseRow c r g) := by
  unfold State.sparseRow
  split <;> simp

@[simp] theorem execSparseOptim_repairs (k : Nat) (order : List Nat) (mem : MemEnv) (s : State) :
    repairsKept s (nextOr s (execSparseOptim k order mem s)) := by
  unfold execSparseOptim
  split <;> simp

@[simp] theorem State.compressBlock_repairs (s : State) (c : Petal) (m : Mem) (i : Nat) : repairsKept s (s.compressBlock c m i) := by
  simp [State.compressBlock]

@[simp] theorem State.decompressBlock_repairs (s : State) (c : Petal) (m : Mem) (i : Nat) : repairsKept s (s.decompressBlock c m i) := by
  simp [State.decompressBlock]

@[simp] theorem State.countAtoms_repairs (s : State) (a n : Nat) : repairsKept s (s.countAtoms a n) := by simp [State.countAtoms]

@[simp] theorem execPetalComplete_repairs (k : Nat) (s : State) : repairsKept s (nextOr s (execPetalComplete k s)) := by
  unfold execPetalComplete
  split <;> simp

end Sys2Proof.Machine
end

section
/-! PROOFS. The repair record stands, continued: the links of Frakel, the messages and what the devices of a job do together. Options of `simp`
as above; `-Nat.reducePow` keeps the sizes of memory as powers. -/

namespace Sys2Proof.Machine

/-! ### Ports and flits -/

@[simp] theorem State.setPort_repairs (s : State) (p : Nat) (x : PortState) : repairsKept s (s.setPort p x) := ⟨rfl, rfl⟩

@[simp] theorem State.modPort_repairs (s : State) (p : Nat) (f : PortState → PortState) : repairsKept s (s.modPort p f) := ⟨rfl, rfl⟩

@[simp] theorem State.setPortSt_repairs (s : State) (p st : Nat) : repairsKept s (s.setPortSt p st) := ⟨rfl, rfl⟩

@[simp] theorem State.portEvent_repairs (s : State) (code sev p : Nat) : repairsKept s (s.portEvent code sev p) := by simp [State.portEvent]

@[simp] theorem State.portFail_repairs (s : State) (p code : Nat) : repairsKept s (s.portFail p code) := by simp [State.portFail]

@[simp] theorem State.sendLink_repairs (s : State) (p kind : Nat) (fields : List Byte) : repairsKept s (s.sendLink p kind fields) :=
  ⟨rfl, rfl⟩

@[simp] theorem execPortTrained_repairs (p : Port) (lanes : Nat) (s : State) : repairsKept s (nextOr s (execPortTrained p lanes s)) := by
  simp -implicitDefEqProofs [execPortTrained]

@[simp] theorem State.trainFail_repairs (s : State) (p : Nat) : repairsKept s (s.trainFail p) := by simp [State.trainFail]

@[simp] theorem State.retrain_repairs (s : State) (p : Nat) : repairsKept s (s.retrain p) := by simp [State.retrain]

@[simp] theorem State.sendNack_repairs (s : State) (p : Nat) : repairsKept s (s.sendNack p) := by simp [State.sendNack]

@[simp] theorem execLinkEcho_repairs (p : Port) (rtt : Nat) (s : State) : repairsKept s (nextOr s (execLinkEcho p rtt s)) := by
  simp -implicitDefEqProofs [execLinkEcho]

@[simp] theorem State.portUp_repairs (s : State) (p next : Nat) : repairsKept s (s.portUp p next) := by simp [State.portUp]

@[simp] theorem State.identCheck_repairs (s : State) (p : Nat) : repairsKept s (s.identCheck p) := by simp [State.identCheck]

@[simp] theorem execLinkIdent_repairs (p : Port) (fields : List Byte) (s : State) :
    repairsKept s (nextOr s (execLinkIdent p fields s)) := by
  simp -implicitDefEqProofs [execLinkIdent]

@[simp] theorem execPortRetrain_repairs (p : Port) (s : State) : repairsKept s (nextOr s (execPortRetrain p s)) := by simp [execPortRetrain]

@[simp] theorem execFrkAddrWrite_repairs (axes : Bool) (value : Nat) (s : State) :
    repairsKept s (nextOr s (execFrkAddrWrite axes value s)) := by
  simp -implicitDefEqProofs [execFrkAddrWrite]

@[simp] theorem execLinkNack_repairs (p : Port) (seq : Nat) (s : State) : repairsKept s (nextOr s (execLinkNack p seq s)) := by
  unfold execLinkNack
  dsimp only
  repeat' split
  all_goals simp

@[simp] theorem State.freeFlits_repairs (s : State) (m : NetMsg) : repairsKept s (s.freeFlits m) := by simp [State.freeFlits]

@[simp] theorem State.emit_repairs (s : State) (p : Nat) (b : List Byte) : repairsKept s (s.emit p b) := by
  simp -implicitDefEqProofs [State.emit]

@[simp] theorem State.sendFlit_repairs (s : State) (p k : Nat) : repairsKept s (s.sendFlit p k) := by
  unfold State.sendFlit
  dsimp only
  split <;> simp

@[simp] theorem State.nextSlot_repairs (s : State) (p : Nat) : repairsKept s (s.nextSlot p) := ⟨rfl, rfl⟩

@[simp] theorem execFlitBoundary_repairs (p : Port) (s : State) : repairsKept s (nextOr s (execFlitBoundary p s)) := by
  unfold execFlitBoundary
  dsimp only
  repeat' split
  all_goals simp -implicitDefEqProofs

/-! ### Messages and their connections -/

@[simp] theorem State.msgFirst_repairs (s : State) (code typ src : Nat) : repairsKept s (s.msgFirst code typ src) := by
  simp [State.msgFirst]

@[simp] theorem State.inject_repairs (s : State) (b : List Byte) (from_ : Option (Nat × Nat)) : repairsKept s (s.inject b from_) := by
  unfold State.inject
  split <;> simp

@[simp] theorem execMsgForward_repairs (k : Nat) (s : State) : repairsKept s (nextOr s (execMsgForward k s)) := by
  unfold execMsgForward
  dsimp only
  repeat' split
  all_goals simp -implicitDefEqProofs

@[simp] theorem execFrkRouteRead_repairs (s : State) : repairsKept s (nextOr s (execFrkRouteRead s)) := ⟨rfl, rfl⟩

@[simp] theorem State.rerouteAll_repairs (s : State) (i : Nat) : repairsKept s (s.rerouteAll i) := by simp [State.rerouteAll]

@[simp] theorem execFrkRouteWrite_repairs (s : State) : repairsKept s (nextOr s (execFrkRouteWrite s)) := by simp [execFrkRouteWrite]

@[simp] theorem State.setConn_repairs (s : State) (c : Nat) (x : ConnState) : repairsKept s (s.setConn c x) := ⟨rfl, rfl⟩

@[simp] theorem State.transmit_repairs (s : State) (r : ConnRec) (m : OutMsg) : repairsKept s (s.transmit r m) := by simp [State.transmit]

@[simp] theorem State.pump_repairs (r : ConnRec) (fuel : Nat) (s : State) : repairsKept s (State.pump r fuel s) := by
  induction fuel generalizing s with
  | zero => simp [State.pump]
  | succ fuel ih =>
    unfold State.pump
    dsimp only
    split <;> simp [ih]

@[simp] theorem State.post_repairs (s : State) (r : ConnRec) (typ addr tag : Nat) (payload : List Byte) :
    repairsKept s (s.post r typ addr tag payload) := by
  simp [State.post]

@[simp] theorem State.postTo_repairs (s : State) (peer vc typ addr tag : Nat) (payload : List Byte) :
    repairsKept s (s.postTo peer vc typ addr tag payload) := by
  unfold State.postTo
  split <;> simp

@[simp] theorem execXportResend_repairs (c : Nat) (s : State) (due : List Nat) : repairsKept s (nextOr s (execXportResend c s due)) := by
  unfold execXportResend
  split <;> simp

@[simp] theorem execAckSend_repairs (c : Nat) (s : State) : repairsKept s (nextOr s (execAckSend c s)) := by
  unfold execAckSend
  split <;> simp

@[simp] theorem State.msgDrop_repairs (s : State) (i code : Nat) (b : List Byte) : repairsKept s (s.msgDrop i code b) := by
  simp [State.msgDrop]

@[simp] theorem State.accept_repairs (s : State) (k typ : Nat) (region : State → List Byte → Bool) :
    repairsKept s (s.accept k typ region).1 := by
  unfold State.accept
  split
  · simp
  · next m _ =>
    dsimp only
    have hleft : repairsKept s (({ s with arrived := s.arrived.eraseIdx k }).freeFlits m) := by simp
    generalize ({ s with arrived := s.arrived.eraseIdx k }).freeFlits m = s1 at hleft ⊢
    cases s1.connTo (mSrc m.bytes) (mVc m.bytes) <;> simp [hleft]

@[simp] theorem State.receive_repairs (s : State) (k typ : Nat) (region : State → List Byte → Bool) (deliver : State → List Byte → State)
    (hdeliver : ∀ s b, repairsKept s (deliver s b)) : repairsKept s (s.receive k typ region deliver) := by
  have haccept := s.accept_repairs k typ region
  unfold State.receive
  split
  · next heq => simpa [heq] using haccept
  · next heq => simpa [heq, hdeliver] using haccept

@[simp] theorem State.takeAckMsg_repairs (s : State) (r : ConnRec) (pl : List Byte) : repairsKept s (s.takeAckMsg r pl) := by
  simp [State.takeAckMsg]

@[simp] theorem execMsgAck_repairs (k : Nat) (s : State) : repairsKept s (nextOr s (execMsgAck k s)) := by
  unfold execMsgAck
  dsimp only
  repeat' split
  all_goals simp -implicitDefEqProofs

@[simp] theorem State.countRecord_repairs (s : State) (key code src wher : Nat) : repairsKept s (s.countRecord key code src wher) := by
  simp [State.countRecord]

@[simp] theorem execFrakelCountReport_repairs (port : Option Port) (s : State) :
    repairsKept s (nextOr s (execFrakelCountReport port s)) := by
  unfold execFrakelCountReport
  split <;> simp

/-! ### Votes, decisions and the scales -/

@[simp] theorem State.exchAdvance_repairs (fuel : Nat) (s : State) : repairsKept s (s.exchAdvance fuel) := by
  induction fuel generalizing s with
  | zero => simp [State.exchAdvance]
  | succ fuel ih =>
    unfold State.exchAdvance
    split <;> simp [ih]

@[simp] theorem State.exchRun_repairs (s : State) : repairsKept s s.exchRun := by simp [State.exchRun]

@[simp] theorem execVoteFinal_repairs (s : State) : repairsKept s (nextOr s (execVoteFinal s)) := by
  unfold execVoteFinal
  split <;> simp

@[simp] theorem State.decide_repairs (s : State) (r : DomainRec) (sum : Nat) : repairsKept s (s.decide_ r sum) := by
  simp -implicitDefEqProofs [State.decide_]

@[simp] theorem execDecisionFormation_repairs (d : Fin 64) (s : State) : repairsKept s (nextOr s (execDecisionFormation d s)) := by
  unfold execDecisionFormation
  split <;> simp -implicitDefEqProofs

@[simp] theorem execDecisionFinal_repairs (s : State) : repairsKept s (nextOr s (execDecisionFinal s)) := by
  unfold execDecisionFinal
  repeat' split
  all_goals simp

@[simp] theorem State.scaleSlot_repairs (s : State) (i : Nat) : repairsKept s (s.scaleSlot i) := by
  unfold State.scaleSlot
  dsimp only
  split <;> simp -implicitDefEqProofs

@[simp] theorem State.scaleAll_repairs (s : State) : repairsKept s s.scaleAll := by simp [State.scaleAll]

@[simp] theorem State.setLossExp_repairs (s : State) (e : Int) : repairsKept s (s.setLossExp e) := ⟨rfl, rfl⟩

@[simp] theorem State.lossRule_repairs (s : State) : repairsKept s s.lossRule := by
  unfold State.lossRule
  split <;> simp

/-! ### Collectives, barriers and re-sharding -/

@[simp] theorem State.setColl_repairs (s : State) (c : Nat) (x : CollState) : repairsKept s (s.setColl c x) := ⟨rfl, rfl⟩

@[simp] theorem State.lookups_repairs (s : State) (mem : MemEnv) (r : CollRec) (bs : List (Nat × Nat)) :
    repairsKept s (s.lookups mem r bs) := by
  simp [State.lookups]

@[simp] theorem execReduceStagingCopy_repairs (c : Nat) (mem : MemEnv) (s : State) :
    repairsKept s (nextOr s (execReduceStagingCopy c mem s)) := by
  unfold execReduceStagingCopy
  split <;> simp

@[simp] theorem execCollectiveStage_repairs (c : Nat) (mem : MemEnv) (s : State) :
    repairsKept s (nextOr s (execCollectiveStage c mem s)) := by
  unfold execCollectiveStage
  repeat' split
  all_goals simp -implicitDefEqProofs

@[simp] theorem State.blockLanded_repairs (s : State) (c k : Nat) : repairsKept s (s.blockLanded c k) := by
  simp -implicitDefEqProofs [State.blockLanded]

@[simp] theorem execMsgReduce_repairs (k : Nat) (s : State) : repairsKept s (nextOr s (execMsgReduce k s)) := by
  refine s.receive_repairs k 4 State.jobRange _ fun s b => ?_
  dsimp only
  repeat' split
  all_goals simp

@[simp] theorem State.barrierAdvance_repairs (r fuel : Nat) (s : State) : repairsKept s (s.barrierAdvance r fuel) := by
  induction fuel generalizing s with
  | zero => simp [State.barrierAdvance]
  | succ fuel ih =>
    unfold State.barrierAdvance
    split <;> simp [ih]

@[simp] theorem State.sendUnits_repairs (s : State) (x : Reshard) : repairsKept s (s.sendUnits x) := by
  unfold State.sendUnits
  refine foldl_repairs _ (fun s q => ?_) _ _
  split <;> simp

@[simp] theorem State.installUnits_repairs (s : State) (x : Reshard) : repairsKept s (s.installUnits x) := by
  simp -implicitDefEqProofs [State.installUnits]

@[simp] theorem State.reshardPhase_repairs (s : State) (n : Nat) : repairsKept s (s.reshardPhase n) := by
  simp -implicitDefEqProofs [State.reshardPhase]

@[simp] theorem State.reshardAdvance_repairs (fuel : Nat) (s : State) : repairsKept s (s.reshardAdvance fuel) := by
  induction fuel generalizing s with
  | zero => simp [State.reshardAdvance]
  | succ fuel ih =>
    unfold State.reshardAdvance
    split <;> simp [ih]

@[simp] theorem State.reshardRun_repairs (s : State) : repairsKept s s.reshardRun := by simp [State.reshardRun]

@[simp] theorem State.unitPiece_repairs (s : State) (b : List Byte) : repairsKept s (s.unitPiece b) := by
  unfold State.unitPiece
  split <;> simp

@[simp] theorem State.gatherBlock_repairs (s : State) (b : List Byte) : repairsKept s (s.gatherBlock b) := by
  unfold State.gatherBlock
  dsimp only
  repeat' split
  all_goals simp

@[simp] theorem State.collsTick_repairs (s : State) (m : Nat) : repairsKept s (s.collsTick m) := by simp [State.collsTick]

/-! ### Experts -/

@[simp] theorem State.setLayer_repairs (s : State) (l : Nat) (x : LayerState) : repairsKept s (s.setLayer l x) := ⟨rfl, rfl⟩

@[simp] theorem State.sendRegion_repairs (s : State) (dst typ addr gen layer : Nat) (bs : List Byte) :
    repairsKept s (s.sendRegion dst typ addr gen layer bs) := by
  simp [State.sendRegion]

@[simp] theorem State.dispatchExpert_repairs (s v : State) (mem : MemEnv) (r : LayerRec) (slots : List (Nat × Nat × Nat × Nat))
    (gen e : Nat) : repairsKept s (s.dispatchExpert v mem r slots gen e) := by
  simp [State.dispatchExpert]

@[simp] theorem execExpertDispatch_repairs (l : Nat) (mem : MemEnv) (s : State) :
    repairsKept s (nextOr s (execExpertDispatch l mem s)) := by
  unfold execExpertDispatch
  split <;> simp

@[simp] theorem State.queuePiece_repairs (r : LayerRec) (s : State) (p : RowPiece) : repairsKept s (State.queuePiece r s p) := by
  unfold State.queuePiece
  dsimp only
  repeat' split
  all_goals simp

@[simp] theorem State.queuePieces_repairs (s : State) (r : LayerRec) : repairsKept s (s.queuePieces r) := by simp [State.queuePieces]

@[simp] theorem State.takeHeader_repairs (s : State) (r : LayerRec) (b : List Byte) (base e j : Nat) :
    repairsKept s (s.takeHeader r b base e j) := by
  simp [State.takeHeader]

@[simp] theorem execMsgDispatch_repairs (k : Nat) (s : State) : repairsKept s (nextOr s (execMsgDispatch k s)) := by
  refine s.receive_repairs k 5 State.jobRange _ fun s b => ?_
  dsimp only
  repeat' split
  all_goals simp

@[simp] theorem execExpertReturn_repairs (l : Nat) (mem : MemEnv) (s : State) : repairsKept s (nextOr s (execExpertReturn l mem s)) := by
  unfold execExpertReturn
  split <;> simp

@[simp] theorem State.answerPiece_repairs (r : LayerRec) (s : State) (p : RowPiece) : repairsKept s (State.answerPiece r s p) := by
  unfold State.answerPiece
  dsimp only
  split <;> simp

@[simp] theorem State.answerPieces_repairs (s : State) (r : LayerRec) : repairsKept s (s.answerPieces r) := by simp [State.answerPieces]

@[simp] theorem State.takeAnswer_repairs (s : State) (r : LayerRec) (b : List Byte) (base e : Nat) :
    repairsKept s (s.takeAnswer r b base e) := by
  simp [State.takeAnswer]

@[simp] theorem execMsgAnswer_repairs (k : Nat) (s : State) : repairsKept s (nextOr s (execMsgAnswer k s)) := by
  refine s.receive_repairs k 6 State.jobRange _ fun s b => ?_
  dsimp only
  repeat' split
  all_goals simp

@[simp] theorem execExpertCombine_repairs (l : Nat) (mem : MemEnv) (s : State) : repairsKept s (nextOr s (execExpertCombine l mem s)) := by
  unfold execExpertCombine
  split <;> simp

@[simp] theorem State.layersStep_repairs (s : State) : repairsKept s s.layersStep := by simp [State.layersStep]

/-! ### Tests, snapshots and restores -/

@[simp] theorem State.useFrees_repairs (s : State) (n : Nat) : repairsKept s (s.useFrees n) := ⟨rfl, rfl⟩

@[simp] theorem State.testOverwrite_repairs (s : State) (x : TestJob) : repairsKept s (s.testOverwrite x) := by
  unfold State.testOverwrite
  dsimp only
  split <;> simp

@[simp] theorem execSelfTest_repairs (i : Nat) (s : State) : repairsKept s (nextOr s (execSelfTest i s)) := by
  unfold execSelfTest
  split <;> simp

@[simp] theorem execSelfTestVerdict_repairs (i : Nat) (lasting : Bool) (slot : Nat) (s : State) :
    repairsKept s (nextOr s (execSelfTestVerdict i lasting slot s)) := by
  unfold execSelfTestVerdict
  split <;> simp -implicitDefEqProofs

@[simp] theorem execEccRetest_repairs (i : Nat) (again : Bool) (s : State) : repairsKept s (nextOr s (execEccRetest i again s)) := by
  unfold execEccRetest
  split <;> simp

@[simp] theorem execNetRepairRead_repairs (s : State) : repairsKept s (nextOr s (execNetRepairRead s)) := by
  simp -implicitDefEqProofs [execNetRepairRead]

@[simp] theorem State.writeRecord_repairs (s : State) (a : Nat) : repairsKept s (s.writeRecord a) := by
  simp -implicitDefEqProofs [State.writeRecord]

@[simp] theorem State.writeTrailer_repairs (s : State) (a bytes number : Nat) : repairsKept s (s.writeTrailer a bytes number) := by
  simp [State.writeTrailer]

@[simp] theorem State.writePart_repairs (s v : State) (number step d : Nat) : repairsKept s (s.writePart v number step d) := by
  simp [State.writePart]

@[simp] theorem State.captureTile_repairs (s : State) (t : Nat) (banks : List TileEnv) : repairsKept s (s.captureTile t banks) := by
  simp [State.captureTile]

@[simp] theorem execSnapshotCapture_repairs (mem : MemEnv) (banks : List TileEnv) (s : State) :
    repairsKept s (nextOr s (execSnapshotCapture mem banks s)) := by
  unfold execSnapshotCapture
  split
  · simp
  · dsimp only
    split <;> simp -implicitDefEqProofs [-Nat.reducePow]

@[simp] theorem State.sendParts_repairs (s : State) (r : ConnRec) (i j number : Nat) : repairsKept s (s.sendParts r i j number) := by
  simp -implicitDefEqProofs [State.sendParts]

@[simp] theorem execSnapshotCaptureDone_repairs (s : State) : repairsKept s (nextOr s (execSnapshotCaptureDone s)) := by
  unfold execSnapshotCaptureDone
  dsimp only
  repeat' split
  all_goals simp -implicitDefEqProofs

@[simp] theorem execSnapshotPartnerSecured_repairs (s : State) : repairsKept s (nextOr s (execSnapshotPartnerSecured s)) := by
  unfold execSnapshotPartnerSecured
  split <;> simp

@[simp] theorem execSnapshotFlashSecured_repairs (ok : Bool) (s : State) : repairsKept s (nextOr s (execSnapshotFlashSecured ok s)) := by
  simp -implicitDefEqProofs [execSnapshotFlashSecured]

@[simp] theorem State.snapLand_repairs (s : State) (i a number : Nat) (pl : List Byte) : repairsKept s (s.snapLand i a number pl) := by
  simp -implicitDefEqProofs [State.snapLand]

@[simp] theorem execSnapNow_repairs (s : State) : repairsKept s (nextOr s (execSnapNow s)) := ⟨rfl, rfl⟩

@[simp] theorem State.clearCastle_repairs (s : State) : repairsKept s s.clearCastle := by simp [State.clearCastle]

@[simp] theorem execCastleClear_repairs (s : State) : repairsKept s (nextOr s (execCastleClear s)) := by simp [execCastleClear]

@[simp] theorem State.restoreQuant_repairs (s : State) (m : Mem) (a p : Nat) : repairsKept s (s.restoreQuant m a p) := by
  simp -implicitDefEqProofs [State.restoreQuant]

@[simp] theorem State.dropDecisions_repairs (s : State) : repairsKept s s.dropDecisions := by simp [State.dropDecisions]

@[simp] theorem State.restoreFrom_repairs (s : State) (m : Mem) (bases : List Nat) (number : Nat) :
    repairsKept s (s.restoreFrom m bases number) := by
  simp -implicitDefEqProofs [State.restoreFrom]

/-! ### The erase to EMPTY -/

@[simp] theorem State.dropPetals_repairs (s : State) : repairsKept s s.dropPetals := by simp [State.dropPetals]

@[simp] theorem State.fillHbm_repairs (s : State) : repairsKept s s.fillHbm := ⟨rfl, rfl⟩

@[simp] theorem State.clearUnits_repairs (s : State) : repairsKept s s.clearUnits := ⟨rfl, rfl⟩

@[simp] theorem State.snapEnd_repairs (s : State) : repairsKept s s.snapEnd := by simp [State.snapEnd]

@[simp] theorem State.enterEmpty_repairs (s : State) : repairsKept s s.enterEmpty := by simp -implicitDefEqProofs [State.enterEmpty]

@[simp] theorem execEmptyFillDone_repairs (s : State) : repairsKept s (nextOr s (execEmptyFillDone s)) := by
  simp -implicitDefEqProofs [execEmptyFillDone]

end Sys2Proof.Machine
end

section
/-! PROOFS. The repair record stands, continued: tables of repairs, frames, the host's commands, resets, management and power. -/

namespace Sys2Proof.Machine

/-! ### Maps and tables that repairs set -/

@[simp] theorem State.hostFault_repairs (s : State) (i : Nat) : repairsKept s (s.hostFault i) := by simp [State.hostFault]

@[simp] theorem State.dieWrite_repairs (s : State) (f : State → State) (hf : repairsKept s (f s)) : repairsKept s (s.dieWrite f) := by
  simp [State.dieWrite, hf]

@[simp] theorem State.setArrMap_repairs (s : State) (p v : Nat) : repairsKept s (s.setArrMap p v) := by
  simp -implicitDefEqProofs [State.setArrMap]

@[simp] theorem State.repairDue_repairs (s : State) (on : Bool) (kind unit y x value : Nat) :
    repairsKept s (s.repairDue on kind unit y x value) := by
  simp [State.repairDue]

@[simp] theorem State.arrRepairWrite_repairs (s : State) (p value : Nat) : repairsKept s (s.arrRepairWrite p value) := by
  simp -implicitDefEqProofs [State.arrRepairWrite]

@[simp] theorem State.bankReset_repairs (s : State) (p : Nat) : repairsKept s (s.bankReset p) := by
  simp -implicitDefEqProofs [State.bankReset]

@[simp] theorem State.setRow_repairs (s : State) (d y v : Nat) : repairsKept s (s.setRow d y v) := by
  simp -implicitDefEqProofs [State.setRow]

@[simp] theorem State.rowRepairWrite_repairs (s : State) (d y value : Nat) : repairsKept s (s.rowRepairWrite d y value) := by
  simp -implicitDefEqProofs [State.rowRepairWrite]

@[simp] theorem State.applyEntry_repairs (s : State) (e : List Byte) : repairsKept s (s.applyEntry e) := by
  unfold State.applyEntry
  split <;> simp

@[simp] theorem State.applyRepair_repairs (s : State) : repairsKept s s.applyRepair := by
  unfold State.applyRepair
  split <;> simp

@[simp] theorem State.loadRemaps_repairs (s : State) : repairsKept s s.loadRemaps := by simp -implicitDefEqProofs [State.loadRemaps]

@[simp] theorem State.bankOwnWrite_repairs (s : State) (p b value : Nat) : repairsKept s (s.bankOwnWrite p b value) := by
  simp [State.bankOwnWrite]

@[simp] theorem State.qntWrite_repairs (s : State) (p off v : Nat) : repairsKept s ((s.qntWrite p off v).getD s) := by
  simp -implicitDefEqProofs [State.qntWrite]

@[simp] theorem State.qntHostWrite_repairs (s : State) (p off value : Nat) : repairsKept s (s.qntHostWrite p off value) := by
  simp [State.qntHostWrite]

@[simp] theorem State.calReset_repairs (s : State) (p : Nat) : repairsKept s (s.calReset p) := by simp -implicitDefEqProofs [State.calReset]

@[simp] theorem execNetStepLimitWrite_repairs (value : Nat) (s : State) : repairsKept s (nextOr s (execNetStepLimitWrite value s)) := by
  simp [execNetStepLimitWrite]

@[simp] theorem execHbmCastleSizeWrite_repairs (d : Die) (value : Nat) (s : State) :
    repairsKept s (nextOr s (execHbmCastleSizeWrite d value s)) := by
  simp [execHbmCastleSizeWrite]

@[simp] theorem State.layerRestart_repairs (s : State) : repairsKept s s.layerRestart := by
  unfold State.layerRestart
  split <;> simp

@[simp] theorem execXepochWrite_repairs (value : Nat) (s : State) : repairsKept s (nextOr s (execXepochWrite value s)) := by
  simp -implicitDefEqProofs [execXepochWrite]

/-! ### Frames of the stacks -/

@[simp] theorem execFramePop_repairs (d : Die) (f : Nat) (s : State) : repairsKept s (nextOr s (execFramePop d f s)) := by
  unfold execFramePop
  dsimp only
  repeat' split
  all_goals simp

@[simp] theorem State.frameStep_repairs (s : State) : repairsKept s s.frameStep := ⟨rfl, rfl⟩

@[simp] theorem State.probe_repairs (s : State) (im : Image) : repairsKept s (s.probe im) := ⟨rfl, rfl⟩

/-! ### The parts of a load -/

@[simp] theorem State.noteReject_repairs (s : State) (r : Option Reject) : repairsKept s (s.noteReject r) := by
  unfold State.noteReject
  split <;> simp -implicitDefEqProofs

@[simp] theorem State.loadBankRecord_repairs (s : State) (p : Nat) (bs : List Byte) (i : Nat) :
    repairsKept s (s.loadBankRecord p bs i) := by
  simp [State.loadBankRecord]

@[simp] theorem State.loadBanks_repairs (s : State) (t : Nat) : repairsKept s (s.loadBanks t) := by
  simp -implicitDefEqProofs [State.loadBanks]

@[simp] theorem State.loadQuant_repairs (s : State) (t : Nat) : repairsKept s (s.loadQuant t) := by
  simp -implicitDefEqProofs [State.loadQuant]

@[simp] theorem State.loadOwners_repairs (s : State) : repairsKept s s.loadOwners := by simp [State.loadOwners]

@[simp] theorem State.loadCollectives_repairs (s : State) : repairsKept s s.loadCollectives := by simp [State.loadCollectives]

@[simp] theorem State.loadTraining_repairs (s : State) : repairsKept s s.loadTraining := by simp -implicitDefEqProofs [State.loadTraining]

@[simp] theorem State.writeImage_repairs (s : State) (im : Image) : repairsKept s (s.writeImage im) := by
  simp -implicitDefEqProofs [State.writeImage]

@[simp] theorem State.receiveImage_repairs (s : State) (i : ImgSrc) (given : Nat) : repairsKept s (s.receiveImage i given) := by
  simp -implicitDefEqProofs [State.receiveImage]

@[simp] theorem State.loadFrom_repairs (s : State) (i : ImgSrc) (given : Nat) : repairsKept s (s.loadFrom i given).1 := by
  unfold State.loadFrom
  dsimp only
  repeat' split
  all_goals simp -implicitDefEqProofs

/-! ### Commands of the host and their queues -/

@[simp] theorem State.sqTake_repairs (s : State) (r : Nat) : repairsKept s (s.sqTake r) := ⟨rfl, rfl⟩

@[simp] theorem State.repeatCmd_repairs (s : State) (r seq : Nat) : repairsKept s (s.repeatCmd r seq) := by
  unfold State.repeatCmd
  repeat' split
  all_goals simp

@[simp] theorem State.noteTaken_repairs (s : State) (r seq : Nat) : repairsKept s (s.noteTaken r seq) := ⟨rfl, rfl⟩

@[simp] theorem State.takeCmd_repairs (s : State) (r : Nat) (is : List Byte → Bool) (act : State → List Byte → State)
    (hact : ∀ s b, repairsKept s (act s b)) : repairsKept s (s.takeCmd r is act) := by
  unfold State.takeCmd
  split <;> simp -implicitDefEqProofs [hact, -Nat.reducePow]

@[simp] theorem State.dieCommand_repairs (s : State) (r op : Nat) (act : State → Nat → List Byte → State)
    (hact : ∀ s r b, repairsKept s (act s r b)) : repairsKept s (s.dieCommand r op act) := by
  unfold State.dieCommand
  split
  · split <;> simp [hact]
  · simp [hact]

@[simp] theorem execMemcopyComplete_repairs (k : Nat) (mem : MemEnv) (s : State) :
    repairsKept s (nextOr s (execMemcopyComplete k mem s)) := by
  unfold execMemcopyComplete
  split <;> simp

@[simp] theorem execFlashReadComplete_repairs (k : Nat) (s : State) : repairsKept s (nextOr s (execFlashReadComplete k s)) := by
  unfold execFlashReadComplete
  split <;> simp

@[simp] theorem State.beginJob_repairs (s : State) : repairsKept s s.beginJob := by
  unfold State.beginJob
  split <;> simp

/-- The head of the job's command list, run when it is of the kind `is` names and its turn has come. -/
def State.headRun (s : State) (is : List Byte → Bool) (act : State → JobCmd → Option State) : Option State :=
  match s.jobCmds with
  | [] => none
  | c :: _ => if is c.bytes && s.ready then act s c else none

theorem State.jobCommand_eq (s : State) (r : Nat) (is : List Byte → Bool) (act : State → JobCmd → Option State) :
    s.jobCommand r is act = (s.headRun is act).getD (s.takeCmd r is (fun s b =>
      let s1 := { s with jobCmds := s.jobCmds ++ [(⟨r, cmdSeq b, b, false⟩ : JobCmd)] }
      (s1.headRun is act).getD s1)) := by
  unfold State.jobCommand
  dsimp only
  split
  · next hrun =>
    have hhead : s.headRun is act = some _ := hrun
    rw [hhead, Option.getD_some]
  · next hrun =>
    have hhead : s.headRun is act = none := hrun
    rw [hhead, Option.getD_none]
    rfl

theorem State.headRun_repairs (s : State) (is : List Byte → Bool) (act : State → JobCmd → Option State)
    (hact : ∀ s c, repairsKept s ((act s c).getD s)) : repairsKept s ((s.headRun is act).getD s) := by
  unfold State.headRun
  split <;> simp [hact]

@[simp] theorem State.jobCommand_repairs (s : State) (r : Nat) (is : List Byte → Bool) (act : State → JobCmd → Option State)
    (hact : ∀ s c, repairsKept s ((act s c).getD s)) : repairsKept s (s.jobCommand r is act) := by
  rw [State.jobCommand_eq]
  have hrun := s.headRun_repairs is act hact
  cases hhead : s.headRun is act with
  | none => simp [fun s => State.headRun_repairs s is act hact]
  | some u => simpa [hhead] using hrun

@[simp] theorem State.loadNow_repairs (s : State) (b : List Byte) : repairsKept s (s.loadNow b) := by simp [State.loadNow]

@[simp] theorem execLoadCheckOnly_repairs (r : Ring) (s : State) : repairsKept s (nextOr s (execLoadCheckOnly r s)) := by
  unfold execLoadCheckOnly
  rw [nextOr_next]
  refine s.jobCommand_repairs r.val _ _ fun s c => ?_
  dsimp only
  repeat' split
  all_goals simp

@[simp] theorem execReshard_repairs (r : Ring) (s : State) : repairsKept s (nextOr s (execReshard r s)) := by
  unfold execReshard
  rw [nextOr_next]
  refine s.jobCommand_repairs r.val _ _ fun s c => ?_
  dsimp only
  repeat' split
  all_goals simp -implicitDefEqProofs [-Nat.reducePow]

@[simp] theorem execReturn_repairs (r : Ring) (s : State) : repairsKept s (nextOr s (execReturn r s)) := by
  unfold execReturn
  rw [nextOr_next]
  refine s.jobCommand_repairs r.val _ _ fun s c => ?_
  dsimp only
  split <;> simp

@[simp] theorem execCompletionPost_repairs (c : Ring) (s : State) : repairsKept s (nextOr s (execCompletionPost c s)) := by
  unfold execCompletionPost
  repeat' split
  all_goals simp -implicitDefEqProofs

@[simp] theorem execSqDoorbell_repairs (r : Ring) (value : Nat) (stores : List (Nat × List Byte)) (s : State) :
    repairsKept s (nextOr s (execSqDoorbell r value stores s)) := by
  simp [execSqDoorbell]

@[simp] theorem execCqDoorbell_repairs (c : Ring) (value : Nat) (s : State) : repairsKept s (nextOr s (execCqDoorbell c value s)) := by
  simp [execCqDoorbell]

@[simp] theorem execRingCtlWrite_repairs (cq : Bool) (r : Ring) (value : Nat) (s : State) :
    repairsKept s (nextOr s (execRingCtlWrite cq r value s)) := by
  simp -implicitDefEqProofs [execRingCtlWrite]

@[simp] theorem execIntCauseClear_repairs (value : Nat) (set : List (Fin 7)) (s : State) :
    repairsKept s (nextOr s (execIntCauseClear value set s)) := by
  simp [execIntCauseClear]

/-! ### Settings in flash -/

@[simp] theorem State.setFw_repairs (s : State) (k : Nat) (c : FwComp) : repairsKept s (s.setFw k c) := ⟨rfl, rfl⟩

@[simp] theorem State.cfgAppend_repairs (s : State) (key format : Nat) (value : Option (List Byte)) :
    repairsKept s (s.cfgAppend key format value) :=
  ⟨rfl, rfl⟩

@[simp] theorem State.cfgWrite_repairs (s : State) (key : Nat) (value : Option (List Byte)) : repairsKept s (s.cfgWrite key value) := by
  simp [State.cfgWrite]

@[simp] theorem State.cfgCopy_repairs (s : State) : repairsKept s s.cfgCopy := by
  unfold State.cfgCopy
  dsimp only
  split
  · simp
  · refine foldl_repairs _ (fun s key => ?_) _ _
    split <;> simp

@[simp] theorem State.cfgRetire_repairs (s : State) (k : Nat) : repairsKept s (s.cfgRetire k) := by simp [State.cfgRetire]

@[simp] theorem State.applyEvtCtl_repairs (s : State) : repairsKept s s.applyEvtCtl := by
  unfold State.applyEvtCtl
  split <;> simp

@[simp] theorem State.applyPortCtl_repairs (s : State) : repairsKept s s.applyPortCtl := by
  unfold State.applyPortCtl
  split <;> simp

/-! ### Resets and faults of the host side -/

@[simp] theorem State.abortJob_repairs (s : State) : repairsKept s s.abortJob := by
  unfold State.abortJob
  split <;> simp

@[simp] theorem State.abortCopies_repairs (s : State) (flash : Bool) : repairsKept s (s.abortCopies flash) := by simp [State.abortCopies]

@[simp] theorem State.resetDies_repairs (s : State) (aborted : Bool) : repairsKept s (s.resetDies aborted) := by simp [State.resetDies]

@[simp] theorem State.bringUp_repairs (s : State) : repairsKept s s.bringUp := by simp [State.bringUp]

@[simp] theorem State.resetIo_repairs (s : State) (aborted : Bool) : repairsKept s (s.resetIo aborted) := by simp [State.resetIo]

@[simp] theorem State.resetQueues_repairs (s : State) : repairsKept s s.resetQueues := ⟨rfl, rfl⟩

@[simp] theorem execDieReset_repairs (s : State) : repairsKept s (nextOr s (execDieReset s)) := by simp [execDieReset]

@[simp] theorem execIoDieReset_repairs (s : State) : repairsKept s (nextOr s (execIoDieReset s)) := by simp [execIoDieReset]

@[simp] theorem State.send_repairs (s : State) (x : Sent) : repairsKept s (s.send x) := ⟨rfl, rfl⟩

@[simp] theorem State.linkUp_repairs (s : State) (gen width : Nat) : repairsKept s (s.linkUp gen width) := by
  simp -implicitDefEqProofs [State.linkUp]

@[simp] theorem State.afterLink_repairs (s : State) : repairsKept s s.afterLink := by simp [State.afterLink]

@[simp] theorem execFundamentalReset_repairs (perst : Bool) (gen width : Nat) (s : State) :
    repairsKept s (nextOr s (execFundamentalReset perst gen width s)) := by
  simp -implicitDefEqProofs [execFundamentalReset]

/-! ### The recorder -/

@[simp] theorem State.flashRecord_repairs (s : State) (r : EvtRec) : repairsKept s (s.flashRecord r) := by simp [State.flashRecord]

@[simp] theorem execEventFlashDrain_repairs (s : State) : repairsKept s (nextOr s (execEventFlashDrain s)) := by
  unfold execEventFlashDrain
  split <;> simp

@[simp] theorem execEvtSelWrite_repairs (value : Nat) (flips : List Nat) (s : State) :
    repairsKept s (nextOr s (execEvtSelWrite value flips s)) := by
  unfold execEvtSelWrite
  repeat' split
  all_goals simp -implicitDefEqProofs

/-! ### Management requests -/

@[simp] theorem State.respond_repairs (s : State) (p : MgmtPath) (status : Nat) (payload : List Byte) :
    repairsKept s (s.respond p status payload) := by
  simp [State.respond]

@[simp] theorem State.serve_repairs (s : State) (code : Nat) (p : MgmtPath) (bs : List Byte) (len : Nat → Bool) (bad : Nat)
    (act : State → MgmtPath → List Byte → State) (hact : ∀ s p b, repairsKept s (act s p b)) :
    repairsKept s (s.serve code p bs len bad act) := by
  simp [State.serve, hact]

@[simp] theorem State.request_repairs (s : State) (code : Nat) (q : MgmtReq) (len : Nat → Bool) (bad : Nat)
    (act : State → MgmtPath → List Byte → State) (hact : ∀ s p b, repairsKept s (act s p b)) :
    repairsKept s (s.request code q len bad act) := by
  unfold State.request
  repeat' split
  all_goals simp [hact]

@[simp] theorem execMboxGo_repairs (s : State) : repairsKept s (nextOr s (execMboxGo s)) := by simp [execMboxGo]

@[simp] theorem State.fwClose_repairs (s : State) : repairsKept s s.fwClose := by
  unfold State.fwClose
  split <;> simp

@[simp] theorem execFwData_repairs (q : MgmtReq) (s : State) : repairsKept s (nextOr s (execFwData q s)) := by
  refine s.request_repairs 0x11 q _ _ _ fun s p b => ?_
  dsimp only
  split <;> simp

@[simp] theorem execFwEnd_repairs (q : MgmtReq) (s : State) : repairsKept s (nextOr s (execFwEnd q s)) := by
  refine s.request_repairs 0x12 q _ _ _ fun s p b => ?_
  dsimp only
  split <;> simp

@[simp] theorem State.fwEvent_repairs (s : State) (code sev : Nat) : repairsKept s (s.fwEvent code sev) := by simp [State.fwEvent]

@[simp] theorem State.ioRestart_repairs (s : State) : repairsKept s s.ioRestart := by simp [State.ioRestart]

@[simp] theorem State.startPause_repairs (s : State) (k : Nat) (p : Option MgmtPath) : repairsKept s (s.startPause k p) := ⟨rfl, rfl⟩

@[simp] theorem State.fwRevert_repairs (s : State) (k : Nat) : repairsKept s (s.fwRevert k) := by simp [State.fwRevert]

@[simp] theorem State.fallBack_repairs (s : State) (k : Nat) (p : Option MgmtPath) : repairsKept s (s.fallBack k p) := by
  simp [State.fallBack]

@[simp] theorem State.bootSlot_repairs (s : State) (k : Nat) : repairsKept s (s.bootSlot k).1 := by
  unfold State.bootSlot
  dsimp only
  repeat' split
  all_goals simp

@[simp] theorem State.startFw_repairs (s : State) (k : Nat) (selfTest : Bool) : repairsKept s (s.startFw k selfTest).1 := by
  unfold State.startFw
  dsimp only
  split <;> simp

@[simp] theorem State.mgmtRestart_repairs (s : State) : repairsKept s s.mgmtRestart := by simp [State.mgmtRestart]

@[simp] theorem execServicePauseEnd_repairs (selfTest : Bool) (s : State) : repairsKept s (nextOr s (execServicePauseEnd selfTest s)) := by
  unfold execServicePauseEnd
  repeat' split
  all_goals simp

@[simp] theorem State.fwConfirm_repairs (s : State) (k : Nat) : repairsKept s (s.fwConfirm k) := by simp [State.fwConfirm]

@[simp] theorem State.setTime_repairs (s : State) (v : Nat) : repairsKept s (s.setTime v) := by simp [State.setTime]

@[simp] theorem execMgtTimeWrite_repairs (value : Nat) (s : State) : repairsKept s (nextOr s (execMgtTimeWrite value s)) := by
  simp [execMgtTimeWrite]

@[simp] theorem State.mctpControl_repairs (s : State) (inst cmd : Nat) (data : List Byte) : repairsKept s (s.mctpControl inst cmd data) :=
  ⟨rfl, rfl⟩

/-! ### Meter, power and sensors -/

@[simp] theorem State.meterEvent_repairs (s : State) (code sev : Nat) : repairsKept s (s.meterEvent code sev) := by simp [State.meterEvent]

@[simp] theorem State.relevel_repairs (s : State) : repairsKept s s.relevel := by simp -implicitDefEqProofs [State.relevel]

@[simp] theorem State.modPower_repairs (s : State) (f : Power → Power) : repairsKept s (s.modPower f) := by simp [State.modPower]

@[simp] theorem State.cond_repairs (s : State) (i : Nat) (on : Bool) : repairsKept s (s.cond i on) := ⟨rfl, rfl⟩

@[simp] theorem State.powerEvent_repairs (s : State) (code sev : Nat) : repairsKept s (s.powerEvent code sev) := by simp [State.powerEvent]

@[simp] theorem State.stopCond_repairs (s : State) (i : Nat) (on : Bool) : repairsKept s (s.stopCond i on) := by simp [State.stopCond]

@[simp] theorem execPowerFast_repairs (w : Nat) (s : State) : repairsKept s (nextOr s (execPowerFast w s)) := by
  simp -implicitDefEqProofs [execPowerFast]

@[simp] theorem State.began_repairs (s : State) (old new code sev : Nat) : repairsKept s (s.began old new code sev) := by simp [State.began]

@[simp] theorem State.showSensors_repairs (s : State) (x : Sensors) : repairsKept s (s.showSensors x) := by
  refine .trans ?_ (foldl_repairs _ (fun s k => ?_) _ _)
  · simp -implicitDefEqProofs
  · split <;> simp -implicitDefEqProofs

@[simp] theorem State.setModReady_repairs (s : State) (on : Bool) : repairsKept s (s.setModReady on) := by simp [State.setModReady]

@[simp] theorem State.clocks_repairs (s : State) (mclk fclk : Bool) : repairsKept s (s.clocks mclk fclk) := by simp [State.clocks]

@[simp] theorem State.powerOff_repairs (s : State) : repairsKept s s.powerOff := by simp [State.powerOff]

@[simp] theorem State.flashSlots_repairs (s : State) : repairsKept s s.flashSlots := by simp -implicitDefEqProofs [State.flashSlots]

@[simp] theorem State.powerUp_repairs (s : State) (iodTest : Bool) : repairsKept s (s.powerUp iodTest) := by simp [State.powerUp]

@[simp] theorem execInputVoltageChange_repairs (mv : Nat) (s : State) : repairsKept s (nextOr s (execInputVoltageChange mv s)) := by
  simp -implicitDefEqProofs [execInputVoltageChange]

end Sys2Proof.Machine
end

section
/-! PROOFS. The repair record stands, continued: what writes of registers do besides, and the end of a cycle and of a move. -/

namespace Sys2Proof.Machine

/-! ### Writes of registers -/

@[simp] theorem State.afterWrite_repairs (s : State) (k old : Nat) : repairsKept s (s.afterWrite k old) := by simp [State.afterWrite]

@[simp] theorem State.clearBit_repairs (s : State) (same : List (Nat × Nat)) (x : Nat × Bool × List Nat) :
    repairsKept s (s.clearBit same x) := by
  simp [State.clearBit]

@[simp] theorem State.clearWrite_repairs (s : State) (k value : Nat) (same : List (Nat × Nat)) :
    repairsKept s (s.clearWrite k value same) := by
  simp [State.clearWrite]

@[simp] theorem execCounterClear_repairs (addr value : Nat) (same : List (Nat × Nat)) (s : State) :
    repairsKept s (nextOr s (execCounterClear addr value same s)) := by
  unfold execCounterClear
  repeat' split
  all_goals simp

@[simp] theorem State.runIf_repairs (s : State) (on : Bool) (f : State → Host.Outcome State Fault Refusal)
    (hf : repairsKept s (nextOr s (f s))) : repairsKept s (s.runIf on f) := by simp [State.runIf, hf]

@[simp] theorem State.ownTile_repairs (s : State) (p off v : Nat) : repairsKept s (s.ownTile p off v) := by simp [State.ownTile]

@[simp] theorem State.ordered_repairs (s : State) (k v : Nat) : repairsKept s (s.ordered k v) := by simp [State.ordered]

@[simp] theorem State.writeBuffer_repairs (s : State) (addr : Nat) (bs : List Byte) : repairsKept s (s.writeBuffer addr bs) := by
  simp [State.writeBuffer]

/-! ### The end of a cycle and of a move -/

@[simp] theorem State.dieRecords_repairs (s : State) (m code sev : Nat) (key : Nat → Nat) :
    repairsKept s (s.dieRecords m code sev key) := by
  simp [State.dieRecords]

@[simp] theorem State.dieRecordsOf_repairs (s : State) (m code sev : Nat) (keys : Nat → List Nat) :
    repairsKept s (s.dieRecordsOf m code sev keys) := by
  unfold State.dieRecordsOf
  refine foldl_repairs _ (fun s d => ?_) _ _
  dsimp only
  split <;> simp

@[simp] theorem State.knightRecords_repairs (s : State) (m code : Nat) : repairsKept s (s.knightRecords m code) := by
  simp [State.knightRecords]

@[simp] theorem State.slotRecords_repairs (s : State) (m : Nat) : repairsKept s (s.slotRecords m) := by
  unfold State.slotRecords
  refine foldl_repairs _ (fun s d => foldl_repairs _ (fun s i => ?_) _ _) _ _
  dsimp only
  split <;> simp

@[simp] theorem State.wireRecords_repairs (s : State) (m : Nat) : repairsKept s (s.wireRecords m) := by
  unfold State.wireRecords
  refine foldl_repairs _ (fun s r => ?_) _ _
  dsimp only
  split <;> simp

@[simp] theorem State.stackRecord_repairs (s : State) (m code sev : Nat) (key : Nat → Nat) :
    repairsKept s (s.stackRecord m code sev key) := by
  unfold State.stackRecord
  dsimp only
  split <;> simp

@[simp] theorem State.dieCountRecords_repairs (s : State) (m code sev i : Nat) : repairsKept s (s.dieCountRecords m code sev i) := by
  simp [State.dieCountRecords]

@[simp] theorem State.dmaRecords_repairs (s : State) (m : Nat) : repairsKept s (s.dmaRecords m) := by simp [State.dmaRecords]

@[simp] theorem State.layerRecords_repairs (s : State) (m code sev : Nat) (is : List Nat) :
    repairsKept s (s.layerRecords m code sev is) := by
  simp [State.layerRecords]

@[simp] theorem State.collRecords_repairs (s : State) (m code i : Nat) : repairsKept s (s.collRecords m code i) := by
  unfold State.collRecords
  dsimp only
  split <;> simp

@[simp] theorem State.records02_repairs (s : State) (m : Nat) : repairsKept s (s.records02 m) := by simp [State.records02]

@[simp] theorem State.records0345_repairs (s : State) (m : Nat) : repairsKept s (s.records0345 m) := by
  simp -implicitDefEqProofs [State.records0345]

@[simp] theorem State.records068_repairs (s : State) (m : Nat) : repairsKept s (s.records068 m) := by simp [State.records068]

@[simp] theorem State.holdRecord_repairs (s : State) (m : Nat) : repairsKept s (s.holdRecord m) := by simp [State.holdRecord]

@[simp] theorem State.tickRecords_repairs (s : State) (m : Nat) : repairsKept s (s.tickRecords m) := by
  simp -implicitDefEqProofs [State.tickRecords]

@[simp] theorem State.holdCycle_repairs (s : State) (cs : List Bool) : repairsKept s (s.holdCycle cs) := by simp [State.holdCycle]

@[simp] theorem State.holdEnd_repairs (s : State) (m : Nat) : repairsKept s (s.holdEnd m) := by simp [State.holdEnd]

@[simp] theorem State.resolveAll_repairs (s : State) : repairsKept s s.resolveAll := by simp [State.resolveAll]

@[simp] theorem State.tickScale_repairs (s : State) : repairsKept s s.tickScale := by simp [State.tickScale]

@[simp] theorem State.tickLoss_repairs (s : State) : repairsKept s s.tickLoss := by simp [State.tickLoss]

@[simp] theorem State.tickTile_repairs (s : State) (p : Nat) : repairsKept s (s.tickTile p) := by
  unfold State.tickTile
  split <;> simp

@[simp] theorem State.tickMeter_repairs (s : State) : repairsKept s s.tickMeter := ⟨rfl, rfl⟩

@[simp] theorem State.tickStep_repairs (s : State) (m : Nat) : repairsKept s (s.tickStep m) := by simp [State.tickStep]

@[simp] theorem State.nextMove_repairs (s : State) : repairsKept s s.nextMove := by simp [State.nextMove]

@[simp] theorem State.stopJob_repairs (s : State) (cause : Nat) : repairsKept s (s.stopJob cause) := by simp [State.stopJob]

@[simp] theorem State.dropQueued_repairs (s : State) : repairsKept s s.dropQueued := by simp [State.dropQueued]

@[simp] theorem State.errStop_repairs (s : State) : repairsKept s s.errStop := by simp -implicitDefEqProofs [State.errStop]

@[simp] theorem State.abandonMove_repairs (s : State) : repairsKept s s.abandonMove := by simp -implicitDefEqProofs [State.abandonMove]

@[simp] theorem State.tickNow_repairs (s : State) : repairsKept s s.tickNow := by simp [State.tickNow]

@[simp] theorem State.reportLates_repairs (s : State) : repairsKept s s.reportLates := by simp [State.reportLates]

@[simp] theorem State.atEnd_repairs (s : State) : repairsKept s s.atEnd := by simp [State.atEnd]

@[simp] theorem State.evaluate_repairs (s : State) : repairsKept s s.evaluate := by
  unfold State.evaluate
  dsimp only
  repeat' split
  all_goals simp

@[simp] theorem State.cycleEnd_repairs (s : State) : repairsKept s s.cycleEnd := by simp [State.cycleEnd]

@[simp] theorem State.scaleFirst_repairs (s : State) : repairsKept s s.scaleFirst := by simp [State.scaleFirst]

theorem State.tickCycle_repairs {s u : State} (h : s.tickCycle = some u) : repairsKept s u := by
  rw [State.tickCycle, Option.ite_none_right_eq_some] at h
  rw [← Option.some.inj h.2]
  exact s.atEnd_repairs

@[simp] theorem execScaleTick_repairs (s : State) : repairsKept s (nextOr s (execScaleTick s)) := by
  unfold execScaleTick
  split
  · simp
  · next htick => simp [State.tickCycle_repairs htick]

@[simp] theorem execLossScaleUpdate_repairs (s : State) : repairsKept s (nextOr s (execLossScaleUpdate s)) := by
  unfold execLossScaleUpdate
  split
  · simp
  · next htick => simp [State.tickCycle_repairs htick]

@[simp] theorem State.resolveNow_repairs (s : State) (t : Nat) (confirm : Bool) : repairsKept s (s.resolveNow t confirm) := by
  unfold State.resolveNow
  split
  · simp
  · next htick => simp [State.tickCycle_repairs htick]

@[simp] theorem execStepLimitStop_repairs (s : State) : repairsKept s (nextOr s (execStepLimitStop s)) := by
  unfold execStepLimitStop
  split
  · simp
  · next htick => simp [State.tickCycle_repairs htick]

@[simp] theorem execReshardFence_repairs (s : State) : repairsKept s (nextOr s (execReshardFence s)) := by
  unfold execReshardFence
  dsimp only
  repeat' split
  all_goals simp

end Sys2Proof.Machine
end

section
/-! PROOFS. The entries in force, and why those of other kinds than FRAKEL_PORT are permanent (R449): a REMOVE is refused for them, one
command appends to the record, and every other command but the power-on keeps both copies. -/

namespace Sys2Proof.Machine

/-! ### Fields of a register, read back -/

theorem bits_setBits (v hi lo x : Nat) : bits (setBits v hi lo x) hi lo = x % 2 ^ (hi + 1 - lo) := by
  simp only [setBits, bits, Nat.shiftRight_eq_div_pow]
  generalize 2 ^ (hi + 1 - lo) = w
  have hn : 0 < 2 ^ lo := Nat.two_pow_pos lo
  generalize 2 ^ lo = n at hn
  have hsplit : v = v / n % w * n + (n * (w * (v / n / w)) + v % n) := by
    calc v = n * (w * (v / n / w) + v / n % w) + v % n := by rw [Nat.div_add_mod, Nat.div_add_mod]
      _ = _ := by rw [Nat.mul_add, Nat.mul_comm n (v / n % w)]; omega
  have hset : v - v / n % w * n + x % w * n = v % n + n * (w * (v / n / w) + x % w) := by
    rw [Nat.sub_eq_of_eq_add' hsplit, Nat.mul_add, Nat.mul_comm n (x % w)]
    omega
  rw [hset, Nat.add_mul_div_left _ _ hn, Nat.div_eq_of_lt (Nat.mod_lt v hn), Nat.zero_add, Nat.mul_add_mod, Nat.mod_mod]

theorem bits_mod_two_pow {v hi lo n : Nat} (h : hi < n) : bits (v % 2 ^ n) hi lo = bits v hi lo := by
  refine Nat.eq_of_testBit_eq fun i => ?_
  simp only [bits, Nat.testBit_mod_two_pow, Nat.testBit_shiftRight]
  by_cases hi' : i < hi + 1 - lo
  · simp [show lo + i < n by omega]
  · simp [hi']

/-- A field that was written reads as the value's low bits. -/
theorem State.fld_setFld_self (s : State) {k hi lo v : Nat} (h : hi < 64) : (s.setFld k hi lo v).fld k hi lo = v % 2 ^ (hi + 1 - lo) := by
  rw [State.fld, State.reg_setFld, if_pos rfl, bits_mod_two_pow h, bits_setBits]

theorem State.fld_netRepairStatus (s : State) {v : Nat} (h : v < 2 ^ 16) :
    (s.setFld Reg.netRepairCmd 31 16 v).fld Reg.netRepairCmd 31 16 = v := by
  rw [State.fld_setFld_self s (by decide)]
  exact Nat.mod_eq_of_lt h

theorem State.setFld_frame (s : State) (k hi lo v : Nat) : s.setFld k hi lo v = { s with regs := (s.setFld k hi lo v).regs } := rfl

theorem State.setFld_regsKept (s : State) (k hi lo v : Nat) : regsKept (fun j => j = k) s (s.setFld k hi lo v) :=
  fun _ hj => s.reg_setFld_other _ _ _ _ _ hj

/-! ### The entries in force (R447) -/

theorem repairEntries_of_repairsKept {s u : State} (h : repairsKept s u) : u.repairEntries = s.repairEntries := by
  obtain ⟨h0, h1⟩ := h
  simp only [State.repairEntries, State.repairCopy, h0, h1]

/-- The copy written last has the higher GENERATION, so it is in force. -/
theorem State.repairEntries_writeRepair (s : State) (entries : List (List Byte)) : (s.writeRepair entries).repairEntries = entries := by
  simp [State.writeRepair, State.repairEntries, State.repairCopy]

/-- Entries of every kind but FRAKEL_PORT stay in the record (R449). -/
def permanentKept (s u : State) : Prop := ∀ e ∈ s.repairEntries, leAt e 0 1 ≠ 7 → e ∈ u.repairEntries

theorem repairsKept.permanent {s u : State} (h : repairsKept s u) : permanentKept s u := by
  intro e he _
  rwa [repairEntries_of_repairsKept h]

theorem permanentKept.refl (s : State) : permanentKept s s := fun _ he _ => he

theorem permanentKept.trans {s t u : State} (h : permanentKept s t) (k : permanentKept t u) : permanentKept s u :=
  fun e he hkind => k e (h e he hkind) hkind

theorem permanentKept.ite {s t u : State} {p : Prop} [Decidable p] (ht : permanentKept s t) (hu : permanentKept s u) :
    permanentKept s (if p then t else u) := by
  split
  · exact ht
  · exact hu

theorem execRepairRecordWrite_permanent (s : State) : permanentKept s (nextOr s (execRepairRecordWrite s)) := by
  unfold execRepairRecordWrite
  split
  · exact .refl s
  · split
    · exact .refl s
    · intro e he _
      rw [nextOr_next, repairEntries_of_repairsKept ⟨State.count_repair0 _ _ _, State.count_repair1 _ _ _⟩, State.repairEntries_writeRepair]
      exact List.mem_append_left _ he

/-! ### NET_REPAIR_REMOVE (R449) -/

theorem State.repairable_iff (s : State) : s.repairable = true ↔ s.jobState = jobEMPTY ∨ s.jobState = jobSTOPPED := by
  simp [State.repairable]

theorem execNetRepairRemove_of_frakelPort {s : State} {e : List Byte} (he : s.repairEntry = some e) (hkind : leAt e 0 1 = 7)
    (hjob : s.repairable = true) : execNetRepairRemove s =
      .next ((s.writeRepair (s.repairEntries.eraseIdx (s.fld Reg.netRepairIndex 11 0))).setFld Reg.netRepairCmd 31 16 0) := by
  simp [execNetRepairRemove, he, hkind, s.repairable_iff.mp hjob]

theorem execNetRepairRemove_refused {s : State} (h : ∀ e, s.repairEntry = some e → leAt e 0 1 = 7 → s.repairable = false) :
    execNetRepairRemove s = .next (s.setFld Reg.netRepairCmd 31 16 0x0908) := by
  unfold execNetRepairRemove
  split
  · next e he =>
    refine if_neg fun ⟨hjob, hkind⟩ => ?_
    exact Bool.eq_false_iff.mp (h e he hkind) (s.repairable_iff.mpr hjob)
  · rfl

/-- Either the command is refused, or the one entry taken out is that of a Frakel port. -/
theorem execNetRepairRemove_permanent (s : State) : permanentKept s (nextOr s (execNetRepairRemove s)) := by
  by_cases h : ∀ e, s.repairEntry = some e → leAt e 0 1 = 7 → s.repairable = false
  · rw [execNetRepairRemove_refused h]
    exact repairsKept.permanent ⟨State.setFld_repair0 .., State.setFld_repair1 ..⟩
  · simp only [Classical.not_forall, Bool.not_eq_false] at h
    obtain ⟨e, he, hkind, hjob⟩ := h
    rw [execNetRepairRemove_of_frakelPort he hkind hjob]
    intro x hx hother
    rw [nextOr_next, repairEntries_of_repairsKept ⟨State.setFld_repair0 .., State.setFld_repair1 ..⟩, State.repairEntries_writeRepair]
    obtain ⟨i, hi, rfl⟩ := List.mem_iff_getElem.mp hx
    refine List.mem_eraseIdx_iff_getElem.mpr ⟨i, hi, ?_, rfl⟩
    rintro rfl
    rw [State.repairEntry, List.getElem?_eq_getElem hi, Option.some.injEq] at he
    exact hother (he ▸ hkind)

/-! ### Every command

A write of a register (R9) orders the commands of its fields; that of NET_REPAIR_CMD may order a REMOVE. -/

theorem State.runIf_permanent {s : State} {on : Bool} {f : State → Host.Outcome State Fault Refusal}
    (hf : permanentKept s (nextOr s (f s))) : permanentKept s (s.runIf on f) :=
  .ite hf (.refl s)

theorem State.ownGlob_repairs (s : State) {k : Nat} (h : k ≠ Reg.netRepairCmd) (v : Nat) : repairsKept s (s.ownGlob k v) := by
  simp [State.ownGlob, h]

theorem State.ownGlob_netRepairCmd (s : State) (v : Nat) :
    s.ownGlob Reg.netRepairCmd v = (s.runIf (isBit v 0) execNetRepairRead).runIf (isBit v 1) execNetRepairRemove := by
  rfl

theorem State.ownGlob_permanent (s : State) (k v : Nat) : permanentKept s (s.ownGlob k v) := by
  by_cases h : k = Reg.netRepairCmd
  · rw [h, State.ownGlob_netRepairCmd]
    exact (State.runIf_permanent (execNetRepairRead_repairs s).permanent).trans (State.runIf_permanent (execNetRepairRemove_permanent _))
  · exact (s.ownGlob_repairs h v).permanent

theorem State.ownWrite_permanent (s : State) (k v : Nat) : permanentKept s (s.ownWrite k v) :=
  .ite (State.ownTile_repairs ..).permanent (.ite (State.rowRepairWrite_repairs ..).permanent (s.ownGlob_permanent k v))

theorem State.writeKey_permanent (s : State) (k v : Nat) : permanentKept s (s.writeKey k v) := by
  unfold State.writeKey
  split
  · exact .refl s
  · exact .ite (s.ownWrite_permanent k v) (repairsKept.permanent (by simp))

theorem State.write32_permanent (s : State) (addr v : Nat) : permanentKept s (s.write32 addr v) := by
  unfold State.write32
  split
  · exact .refl s
  · exact .ite (.refl s) (s.writeKey_permanent _ _)

theorem State.write64_permanent (s : State) (addr v : Nat) : permanentKept s (s.write64 addr v) := by
  unfold State.write64
  split
  · exact .refl s
  · exact .ite (s.writeKey_permanent _ _) ((s.write32_permanent _ _).trans (State.write32_permanent _ _ _))

theorem execRegisterWrite_permanent (addr : Nat) (wide : Bool) (value : Nat) (s : State) :
    permanentKept s (nextOr s (execRegisterWrite addr wide value s)) := by
  simp only [execRegisterWrite, nextOr_ite, nextOr_next]
  exact .ite (.refl s) (.ite (repairsKept.permanent (by simp)) (.ite (repairsKept.permanent (by simp))
    (.ite (s.write64_permanent addr value) (s.write32_permanent addr value))))

/-- The commands that write a copy of the repair record, or may order one that does. -/
def writesRepairs : Instr → Bool
  | .powerOn _ => true
  | .repairRecordWrite => true
  | .netRepairRemove => true
  | .registerWrite _ _ _ => true
  | _ => false

/-- The named functions are the meanings that are one call of the functions above; every other meaning has a lemma of its own. -/
theorem exec_repairs {c : Instr} (h : writesRepairs c = false) (s : State) : repairsKept s (nextOr s (exec c s)) := by
  cases c
  case powerOn | repairRecordWrite | netRepairRemove | registerWrite => cases h
  all_goals simp [exec,
    execMma, execDistAbs, execDistSq, execMinplus, execArrayLate, execKnCopy, execKnAccumulate, execKnExpand, execKnPlan, execKnSegment,
    execKnPrune, execKnCompress, execKnMergeAcc, execKnMergeSeg, execKnightLate, execVecAdd, execVecSub, execVecMul, execVecFma,
    execVecAxpy, execVecMax, execVecMin, execVecCvt, execVecExp, execVecRecip, execVecRsqrt, execVecQuant, execVecDequant, execVecQcal,
    execVecTopk, execVecTopkExit, execVecNorm, execVecOptim, execVecReduceForward, execVecReduceFinal, execVecReducePublish,
    execVecReduceWiden, execKeeperClaim, execHbmRefresh, execHbmSelfRefresh, execDmaLate, execGatherPool, execScatterAdd,
    execPetalCompress, execDecompress, execPetalFill, execPetalCopy, execPortSignalDetect, execPortTrainingTimeout,
    execPortTrainingRetry, execLinkProbe, execLinkRetrain, execLinkMarkerLost, execLinkCredit, execMarkerReceive, execNackRepeat,
    execFlitReceive, execMsgReadReq, execMsgReadResp, execMsgVote, execVoteFormation, execMsgBarrier, execMsgWrite, execMsgSnapshot,
    execTlArrRepairWrite, execDieRowRepairWrite, execTlBankOwnWrite, execTlQntWrite, execQntCalReset, execFramePush, execFrameOffload,
    execOffloadComplete, execFramePrefetch, execPrefetchComplete, execNop, execRegister, execUnregister, execPetal, execMemcopy,
    execFlashRead, execLoad, execUnload, execStart, execStop, execRestore, execSettingsCompact, execFlr, execPerstDeassert,
    execHbmInitDone, execD3hotEntry, execD0Return, execHostPoisonedWrite, execHostReadFault, execBar0FaultAccess, execHostCountReport,
    execBar2Read, execBar2Write, execEvtDropReport, execGetIdentity, execGetCert, execAttest, execFwBegin, execFwSessionTimeout,
    execFwActivate, execFwConfirm, execFwReject, execFwTrialTimer, execFwWatchdog, execEvtPost, execCfgGet, execCfgSet, execCfgDelete,
    execTimeGet, execTimeSet, execMtrRead, execSetEndpointId, execGetEndpointId, execGetMctpVersionSupport, execGetMessageTypeSupport,
    execMeterSample, execMeterSecond, execMeterWorkMessage, execMeterLinkTimeout, execMeterTamper, execMeterSelfcheckFail, execPowerPeak,
    execPowerSlow, execPowerRaise, execClockReducedNotice, execSensorPoll, execRefclkCheck, execInputMarginTimeout, execInputRestored,
    execThermalTrip, execTripRecovery, execTick, execCommit, execDiscard]

theorem exec_permanent {c : Instr} (h : ∀ x, c ≠ .powerOn x) (s : State) : permanentKept s (nextOr s (exec c s)) := by
  cases hc : writesRepairs c with
  | false => exact (exec_repairs hc s).permanent
  | true =>
    unfold writesRepairs at hc
    split at hc
    · next x => exact absurd rfl (h x)
    · exact execRepairRecordWrite_permanent s
    · exact execNetRepairRemove_permanent s
    · exact execRegisterWrite_permanent _ _ _ s
    · cases hc

/-- Settles O51: a REMOVE is refused, or takes out the Frakel port's entry it names; no other command but the power-on leaves an entry out:
REPAIR_RECORD_WRITE appends, a write of a register touches the record only through the REMOVE it may order, and the rest write neither
copy. -/
theorem repairEntriesArePermanent : Obligations.RepairEntriesArePermanent := by
  unfold Obligations.RepairEntriesArePermanent
  refine ⟨fun s e he hkind hjob => ?_, fun s hrefused => ?_, fun c s u hc hexec => ?_⟩
  · refine ⟨_, execNetRepairRemove_of_frakelPort he hkind hjob, ?_,
      State.fld_netRepairStatus _ (by decide), rfl, State.setFld_regsKept _ _ _ _ _⟩
    rw [repairEntries_of_repairsKept ⟨State.setFld_repair0 .., State.setFld_repair1 ..⟩, State.repairEntries_writeRepair]
  · exact ⟨_, execNetRepairRemove_refused hrefused, State.fld_netRepairStatus _ (by decide),
      State.setFld_frame .., State.setFld_regsKept _ _ _ _ _⟩
  · have hkept := exec_permanent hc s
    rwa [hexec] at hkept

end Sys2Proof.Machine
end
